-- ==== Sys2Proof/Word.lean ====
section
/-! DEFINITION. The word types of the Ronkor 7208 model and the type of sparse tables. Only types stand
here; every operation on them is in Machine/Bits.lean and Machine/Tbl.lean. -/
namespace Sys2Proof

abbrev Byte := BitVec 8
abbrev W16 := BitVec 16
abbrev W32 := BitVec 32
abbrev W64 := BitVec 64

/-- A run of bytes, lowest address first (R7: multi-byte fields are little-endian). -/
abbrev Bytes := List Byte

/-- A sparse table: keys strictly rising, no entry equal to what an unlisted key reads as. The byte memory
is one of these (its cells are `Host.Cell`s). -/
abbrev Tbl (α : Type) := List (Nat × α)

end Sys2Proof
end

