-- ==== Sys2Proof/Syntax.lean ====
section
/-! DEFINITION. The commands of the block: one constructor of `Instr` for each row of spec/opcode_table.json.
The table gives no operands; each constructor carries what the rule of its row leaves to the moment: which
unit takes the step, the command word or packet it takes, the values that arrive from outside the module. -/
namespace Sys2Proof

/-- Gauntlet G0–G15 (R362). -/
abbrev Gnt := BitVec 4
/-- PCIe function 0–15: function f belongs to gauntlet Gf (R362). -/
abbrev Fn := BitVec 4
/-- Global crew number 0–63 (00_scope, R15). -/
abbrev CrewNo := BitVec 6
/-- Lane core number as software sees it, L0–L31 (R16). -/
abbrev LaneNo := BitVec 5
/-- A seat command of 128 bits (R84). -/
abbrev SeatWord := BitVec 128
/-- A lane-core instruction of 32 bits (R111). -/
abbrev LaneWord := BitVec 32
/-- A module's fabric address (R254). -/
abbrev Mid := BitVec 12
/-- KV table number (R207). -/
abbrev TabNo := BitVec 10
/-- Index of a queue descriptor in the queue table (R346). -/
abbrev QNo := BitVec 12
/-- Optical port 0–15 (R251). -/
abbrev PortNo := BitVec 4
/-- Codec pipe: 0–15 decode, 16–19 encode (R345). -/
abbrev PipeNo := BitVec 5
/-- Power domain D000–D114 (R433). -/
abbrev DomNo := BitVec 7

/-- A physical seat 0–8 of a crew (R104). -/
structure SeatAt where
  crew : CrewNo
  seat : BitVec 4
  deriving DecidableEq, Repr

/-- A task context 0–3 of a physical seat (R99). -/
structure CtxAt where
  crew : CrewNo
  seat : BitVec 4
  ctx : BitVec 2
  deriving DecidableEq, Repr

/-- A lane core of a physical seat, by its logical number (R108). -/
structure LaneAt where
  crew : CrewNo
  seat : BitVec 4
  lane : LaneNo
  deriving DecidableEq, Repr

/-- A step that has been admitted: its gauntlet and its admission number (R41, R393). -/
structure StepName where
  g : Gnt
  adm : W64
  deriving DecidableEq, Repr

/-- A Yalon command packet of function `fn` (R370); the row gives its opcode. -/
structure HostCmd where
  fn : Fn
  tag : W32
  flags : Byte
  p0 : W64
  p1 : W64
  p2 : W64
  p3 : W64
  p4 : W64
  p5 : W64
  p6 : W64
  deriving DecidableEq, Repr

/-- A frame as a port receives it (R257). `fec` says whether the FEC layer below delivered it whole. -/
structure Frame where
  ftype : BitVec 4
  cls : BitVec 4
  mark : Byte
  len : BitVec 5
  enc : Bool
  first : Bool
  last : Bool
  keygen : BitVec 4
  seq : W32
  ack : W32
  dst : Mid
  src : Mid
  ftag : W16
  crdt : BitVec 12
  crdtCls : BitVec 4
  ctr : W64
  lcrc : W32
  payload : Bytes
  tag : Bytes
  fec : Bool
  deriving DecidableEq, Repr

/-- A CONTRIB or RESULT message (R259): its header fields and the chunk's values. -/
structure RedMsg where
  tag : W16
  group : Byte
  stage : Byte
  chunk : W16
  firstNan : W16
  firstInf : W16
  nan : W32
  inf : W32
  ovf : W32
  data : Bytes
  deriving DecidableEq, Repr

/-- Where an uncorrectable error was found (R176, R177): the tier field of MEM_UEINFO, the address in the form
R177 gives for it, the unit code (R510), and the VA of the access, if one was made. -/
structure ErrSite where
  tier : BitVec 3
  addr : W64
  unitCode : W16
  va : W64
  deriving DecidableEq, Repr

/-- What a word of the patrol scrub shows (R175, R177). -/
inductive ScrubFind where
  | clean
  | corrected (dram : Bool)
  | uncorrectable (site : ErrSite)
  deriving DecidableEq, Repr

/-- A memory whose wipe ends (R179, R182). -/
inductive WipeTarget where
  | seat (u : SeatAt)
  | cache (crew : CrewNo)
  | extent (die : BitVec 2) (e : BitVec 6)
  | media
  deriving DecidableEq, Repr

/-- Who writes QCTL (R346): the provider's debug path, or the gauntlet that reads the queue, for a step of
it or for the gauntlet itself. -/
inductive QWriter where
  | provider
  | reader (g : Gnt) (st : Option StepName)
  deriving DecidableEq, Repr

/-- Line rate at which the link settled, GT/s per lane (R360, R361). -/
inductive LinkRate where
  | gt2 | gt5 | gt8 | gt16 | gt32 | gt64 | gt128
  deriving DecidableEq, Repr

/-- Width at which the link settled (R360). -/
inductive LinkWidth where
  | x1 | x4 | x8
  deriving DecidableEq, Repr

/-- Status of a received REJECT (R262, R263, R269, R272, R230). -/
inductive RejectStatus where
  | linkdown | fabiso | remote | redseq | kvstale
  deriving DecidableEq, Repr

/-- The class of the message that a REJECT refused, which decides the status rules (R262). -/
inductive RejectClass where
  | bucket | expert | kvfetch | peer
  deriving DecidableEq, Repr

/-- Which of the algorithms of R415 a requester selects, and whether it selects any other. -/
structure AlgSet where
  mldsa44 : Bool
  sha3 : Bool
  mlkem768 : Bool
  aesgcm : Bool
  other : Bool
  deriving DecidableEq, Repr

/-- IDE_KM requests that change the stream (R382). -/
inductive IdeOp where
  | keyProg | setGo | setStop
  deriving DecidableEq, Repr

/-- TDISP requests that change the interface state (R382). -/
inductive TdispOp where
  | lock | start | stop
  deriving DecidableEq, Repr

/-- A thermal cause of brace (R505). -/
inductive ThermalCause where
  | junction (die : BitVec 5) | flow | inlet
  deriving DecidableEq, Repr

/-- What the boot tests show of this start (R452): the first step that fails, with REASON and DETAIL of
R457, and whether the hatbox reports ready at B20. -/
structure BootReport where
  failStep : Option (BitVec 5)
  reason : Byte
  detail : W64
  hatReady : Bool
  deriving DecidableEq, Repr

/-- A unit that met a trigger of R461: KIND and trigger code of R464, and the unit address. -/
structure RepairFind where
  kind : Byte
  trigger : Byte
  unit : W64
  deriving DecidableEq, Repr

/-- The seat registers that SEAT_CFG_WRITE writes (R105). -/
inductive SeatCfg where
  | acc | treg | scr
  deriving DecidableEq, Repr

/-- A register access on a BAR (R363): function, BAR, byte offset, and width in bytes. -/
structure BusAddr where
  fn : Fn
  bar : BitVec 3
  off : W32
  size : Byte
  deriving DecidableEq, Repr

/-- One command of the block: a row of spec/opcode_table.json. -/
inductive Instr where
  /-- STROKE_BOUNDARY (R38). -/
  | strokeBoundary
  /-- SEAT_NOP (R84). -/
  | seatNop (c : CtxAt) (w : SeatWord)
  /-- MMA (R85). -/
  | seatMma (c : CtxAt) (w : SeatWord)
  /-- MMA_BLOCK_LANDS (R82). -/
  | mmaBlockLands (u : SeatAt)
  /-- LOADACC (R86). -/
  | seatLoadacc (c : CtxAt) (w : SeatWord)
  /-- DRAIN (R86). -/
  | seatDrain (c : CtxAt) (w : SeatWord)
  /-- DRAIN_EPILOGUE (R93). -/
  | drainEpilogue (u : SeatAt)
  /-- SETIDX (R86). -/
  | seatSetidx (c : CtxAt) (w : SeatWord)
  /-- SWAPH (R79). -/
  | seatSwaph (c : CtxAt) (w : SeatWord)
  /-- LANE (R87). -/
  | seatLane (c : CtxAt) (w : SeatWord)
  /-- FENCE (R84). -/
  | seatFence (c : CtxAt) (w : SeatWord)
  /-- YIELD (R100). -/
  | seatYield (c : CtxAt) (w : SeatWord)
  /-- END (R84). -/
  | seatEnd (c : CtxAt) (w : SeatWord)
  /-- SEATFAULT (R103). -/
  | seatFault (u : SeatAt) (lane : Option LaneNo)
  /-- LANE_KERNEL_HALT (R109). -/
  | laneKernelHalt (u : SeatAt)
  /-- IOP (R112). -/
  | laneIop (l : LaneAt) (w : LaneWord)
  /-- ADDI (R112). -/
  | laneAddi (l : LaneAt) (w : LaneWord)
  /-- ANDI (R112). -/
  | laneAndi (l : LaneAt) (w : LaneWord)
  /-- ORI (R112). -/
  | laneOri (l : LaneAt) (w : LaneWord)
  /-- XORI (R112). -/
  | laneXori (l : LaneAt) (w : LaneWord)
  /-- SHI (R112). -/
  | laneShi (l : LaneAt) (w : LaneWord)
  /-- LUI (R112). -/
  | laneLui (l : LaneAt) (w : LaneWord)
  /-- FOP (R114). -/
  | laneFop (l : LaneAt) (w : LaneWord)
  /-- FMA (R112). -/
  | laneFma (l : LaneAt) (w : LaneWord)
  /-- FCVT (R114). -/
  | laneFcvt (l : LaneAt) (w : LaneWord)
  /-- CVT (R116). -/
  | laneCvt (l : LaneAt) (w : LaneWord)
  /-- XFN (R115). -/
  | laneXfn (l : LaneAt) (w : LaneWord)
  /-- TLD (R117). -/
  | laneTld (l : LaneAt) (w : LaneWord)
  /-- TST (R117). -/
  | laneTst (l : LaneAt) (w : LaneWord)
  /-- WLD (R126). -/
  | laneWld (l : LaneAt) (w : LaneWord)
  /-- BR (R112). -/
  | laneBr (l : LaneAt) (w : LaneWord)
  /-- JAL (R111). -/
  | laneJal (l : LaneAt) (w : LaneWord)
  /-- JALR (R111). -/
  | laneJalr (l : LaneAt) (w : LaneWord)
  /-- CSRR (R120). -/
  | laneCsrr (l : LaneAt) (w : LaneWord)
  /-- CSRW (R120). -/
  | laneCsrw (l : LaneAt) (w : LaneWord)
  /-- PERM (R122). -/
  | lanePerm (l : LaneAt) (w : LaneWord)
  /-- RED (R123). -/
  | laneRed (l : LaneAt) (w : LaneWord)
  /-- BAR (R121). -/
  | laneBar (l : LaneAt) (w : LaneWord)
  /-- HALT (R112). -/
  | laneHalt (l : LaneAt) (w : LaneWord)
  /-- COLLECTIVE_PROCEED (R121). -/
  | collectiveProceed (u : SeatAt)
  /-- LANE_WATCHDOG (R129). -/
  | laneWatchdog (u : SeatAt)
  /-- WORK_GRANT (R147). -/
  | workGrant (c : CtxAt)
  /-- STREAM_BLOCK_LANDED (R140). -/
  | streamBlockLanded (c : CtxAt) (strm : BitVec 2)
  /-- JOBSET_COMPLETE (R137). -/
  | jobsetComplete (crew : CrewNo) (counter : BitVec 6)
  /-- HALO_ROW_PUBLISH (R193). -/
  | haloRowPublish (crew : CrewNo) (conv : BitVec 4)
  /-- STEM_ROW (R200). -/
  | stemRow (slot : BitVec 2)
  /-- EMB_JOB_START (R236). -/
  | embJobStart (st : StepName) (job : BitVec 3)
  /-- EMB_WORK_UNIT (R234). -/
  | embWorkUnit (st : StepName) (job : BitVec 3)
  /-- EXPERT_COUNT (R244). -/
  | expertCount (st : StepName)
  /-- EXPERT_OFFSET (R244). -/
  | expertOffset (st : StepName)
  /-- EXPERT_SEND (R244). -/
  | expertSend (st : StepName)
  /-- EXPERT_COMPUTE (R244). -/
  | expertCompute (st : StepName)
  /-- EXPERT_RETURN (R244). -/
  | expertReturn (st : StepName)
  /-- EXPERT_COMBINE (R246). -/
  | expertCombine (st : StepName)
  /-- EXPERT_ABORT_RECEIVED (R248). -/
  | expertAbortReceived (g : Gnt) (round : W32)
  /-- KV_EDIT_APPLY (R210). -/
  | kvEditApply (tab : TabNo)
  /-- KV_SPILL_LANDED (R217). -/
  | kvSpillLanded (tab : TabNo) (entry : W32)
  /-- KV_SUMMARY_ITEM (R209). -/
  | kvSummaryItem (st : StepName) (tab : TabNo) (entry : W32)
  /-- KV_SELECTOR_BLOCK (R219). -/
  | kvSelectorBlock (st : StepName) (walk : BitVec 4) (q : W32)
  /-- KV_WALK_BLOCK (R222). -/
  | kvWalkBlock (c : CtxAt) (walk : BitVec 4)
  /-- KV_FETCH_REQ (R230). -/
  | kvFetchReq (g : Gnt) (src : Mid) (tab : TabNo) (page : BitVec 24) (group : BitVec 4) (limit : W32) (frame : Byte)
  /-- KV_FETCH_RESP (R225). -/
  | kvFetchResp (st : StepName) (tab : TabNo) (page : BitVec 24) (group : BitVec 4) (frame : Byte) (data : Bytes)
  /-- CREW_SAVE_DONE (R398). -/
  | crewSaveDone (crew : CrewNo)
  /-- CREW_RESTORE_DONE (R399). -/
  | crewRestoreDone (crew : CrewNo) (badCtx : List CtxAt)
  /-- MEM_UE_READ (R176). -/
  | memUeRead (site : ErrSite) (st : Option StepName)
  /-- PATROL_SCRUB (R175). -/
  | patrolScrub (find : ScrubFind)
  /-- WIPE_DONE (R182). -/
  | wipeDone (w : WipeTarget)
  /-- ZEROING_DONE (R181). -/
  | zeroingDone (extent : BitVec 11)
  /-- MEM_ACCESS (R164). -/
  | memAccess (st : StepName) (unitCode : W16) (va : W64) (write : Bool) (data : Bytes) (len : W16)
  /-- DECODE_CONTEXT_TAKE (R308). -/
  | decodeContextTake (ctx : BitVec 6)
  /-- RECORD_PARSE (R292). -/
  | recordParse (st : StepName) (desc : BitVec 2) (shard : W32)
  /-- DECODE_ITEM (R309). -/
  | decodeItem (ctx : BitVec 6)
  /-- SAMPLE_BUDGET_EXPIRY (R310). -/
  | sampleBudgetExpiry (ctx : BitVec 6)
  /-- SAMPLE_COMPLETE (R314). -/
  | sampleComplete (ctx : BitVec 6)
  /-- BATCH_COMPLETE (R316). -/
  | batchComplete (st : StepName) (desc : BitVec 2) (batch : W16)
  /-- INGEST_DESCRIPTOR_COMPLETE (R287). -/
  | ingestDescriptorComplete (st : StepName) (desc : BitVec 2)
  /-- VIDEO_FRAME_START (R333). -/
  | videoFrameStart (pipe : PipeNo)
  /-- VIDEO_BLOCK_ROW_ITEM (R325). -/
  | videoBlockRowItem (pipe : PipeNo) (rows : W16)
  /-- VIDEO_FRAME_PUBLISH (R324). -/
  | videoFramePublish (pipe : PipeNo)
  /-- VIDEO_WATCHDOG (R335). -/
  | videoWatchdog (pipe : PipeNo)
  /-- ENCODE_FRAME_EMIT (R331). -/
  | encodeFrameEmit (pipe : PipeNo)
  /-- QUEUE_WRITE_L (R352). -/
  | queueWriteL (q : QNo) (item : Bytes) (credited : Bool)
  /-- QUEUE_WRITE_E (R355). -/
  | queueWriteE (q : QNo) (body : Bytes)
  /-- FLUSH (R357). -/
  | queueFlush (q : QNo) (wr : QWriter)
  /-- DROPREST (R356). -/
  | queueDroprest (q : QNo) (wr : QWriter)
  /-- FN_SQTAIL_WRITE (R367). -/
  | fnSqtailWrite (fn : Fn) (v : W32)
  /-- FN_CQHEAD_WRITE (R367). -/
  | fnCqheadWrite (fn : Fn) (v : W32)
  /-- COMMAND_FETCH (R368). -/
  | commandFetch (fn : Fn)
  /-- MEMORY_CHUNK (R374). -/
  | memoryChunk (fn : Fn)
  /-- CONTROL_CORE_TAKEOVER (R375). -/
  | controlCoreTakeover (core : BitVec 2)
  /-- MSIX_HOLDOFF_EXPIRY (R381). -/
  | msixHoldoffExpiry (fn : Fn)
  /-- NOP (R377). -/
  | cmdNop (h : HostCmd)
  /-- OPEN (R380). -/
  | cmdOpen (h : HostCmd)
  /-- CLOSE (R377). -/
  | cmdClose (h : HostCmd)
  /-- IDENT (R413). -/
  | cmdIdent (h : HostCmd)
  /-- READ (R374). -/
  | cmdRead (h : HostCmd)
  /-- WRITE (R374). -/
  | cmdWrite (h : HostCmd)
  /-- FILL (R374). -/
  | cmdFill (h : HostCmd)
  /-- MAP (R163). -/
  | cmdMap (h : HostCmd)
  /-- UNMAP (R163). -/
  | cmdUnmap (h : HostCmd)
  /-- PROTECT (R163). -/
  | cmdProtect (h : HostCmd)
  /-- EXTLIST (R377). -/
  | cmdExtlist (h : HostCmd)
  /-- ASSIGN (R161). -/
  | cmdAssign (h : HostCmd)
  /-- RECLAIM (R163). -/
  | cmdReclaim (h : HostCmd)
  /-- GCREATE (R387). -/
  | cmdGcreate (h : HostCmd)
  /-- GDESTROY (R407). -/
  | cmdGdestroy (h : HostCmd)
  /-- GSET (R388). -/
  | cmdGset (h : HostCmd)
  /-- PREEMPT (R396). -/
  | cmdPreempt (h : HostCmd)
  /-- PREEMPT_FORCE (R400). -/
  | cmdPreemptForce (h : HostCmd)
  /-- SUBMIT (R378). -/
  | cmdSubmit (h : HostCmd)
  /-- CANCEL (R400). -/
  | cmdCancel (h : HostCmd)
  /-- CHECKPOINT_DRAIN (R45). -/
  | cmdCheckpointDrain (h : HostCmd)
  /-- CHECKPOINT_SUSPEND (R45). -/
  | cmdCheckpointSuspend (h : HostCmd)
  /-- CHECKPOINT_COPY_ITEM (R470). -/
  | checkpointCopyItem (g : Gnt)
  /-- RESTORE (R472). -/
  | cmdRestore (h : HostCmd)
  /-- STEPSTAT (R402). -/
  | cmdStepstat (h : HostCmd)
  /-- QCREATE (R347). -/
  | cmdQcreate (h : HostCmd)
  /-- QDESTROY (R347). -/
  | cmdQdestroy (h : HostCmd)
  /-- QSTAT (R346). -/
  | cmdQstat (h : HostCmd)
  /-- KVPOOL_ADD (R204). -/
  | cmdKvpoolAdd (h : HostCmd)
  /-- KVPOOL_REMOVE (R204). -/
  | cmdKvpoolRemove (h : HostCmd)
  /-- KVCREATE (R207). -/
  | cmdKvcreate (h : HostCmd)
  /-- KVDESTROY (R207). -/
  | cmdKvdestroy (h : HostCmd)
  /-- KVROOT (R207). -/
  | cmdKvroot (h : HostCmd)
  /-- KVEDIT_TRUNCATE (R210). -/
  | cmdKveditTruncate (h : HostCmd)
  /-- KVEDIT_PIN (R210). -/
  | cmdKveditPin (h : HostCmd)
  /-- KVEDIT_UNPIN (R210). -/
  | cmdKveditUnpin (h : HostCmd)
  /-- KVEDIT_BRING_BACK (R210). -/
  | cmdKveditBringBack (h : HostCmd)
  /-- FABCFG (R254). -/
  | cmdFabcfg (h : HostCmd)
  /-- FTAGBIND (R263). -/
  | cmdFtagbind (h : HostCmd)
  /-- PEERSET (R268). -/
  | cmdPeerset (h : HostCmd)
  /-- RGCREATE (R273). -/
  | cmdRgcreate (h : HostCmd)
  /-- RGDESTROY (R273). -/
  | cmdRgdestroy (h : HostCmd)
  /-- TOKLOAD (R300). -/
  | cmdTokload (h : HostCmd)
  /-- VSOPEN (R330). -/
  | cmdVsopen (h : HostCmd)
  /-- VSCLOSE (R343). -/
  | cmdVsclose (h : HostCmd)
  /-- ACCT (R406). -/
  | cmdAcct (h : HostCmd)
  /-- TELCFG_CONFIGURE (R475). -/
  | cmdTelcfgConfigure (h : HostCmd)
  /-- TELCFG_READ_EVENTS (R475). -/
  | cmdTelcfgReadEvents (h : HostCmd)
  /-- TELCFG_READ_TELEMETRY (R475). -/
  | cmdTelcfgReadTelemetry (h : HostCmd)
  /-- PWRSET (R441). -/
  | cmdPwrset (h : HostCmd)
  /-- FWSTAGE_CHECK (R456). -/
  | cmdFwstageCheck (h : HostCmd)
  /-- FWSTAGE_WRITE (R456). -/
  | cmdFwstageWrite (h : HostCmd)
  /-- SECMSG (R415). -/
  | cmdSecmsg (h : HostCmd)
  /-- LIFECYCLE (R423). -/
  | cmdLifecycle (h : HostCmd)
  /-- LIFECYCLE_RESET (R423). -/
  | lifecycleReset
  /-- GET_VERSION (R415). -/
  | msgGetVersion (fn : Fn)
  /-- GET_CAPABILITIES (R415). -/
  | msgGetCapabilities (fn : Fn)
  /-- NEGOTIATE_ALGORITHMS (R415). -/
  | msgNegotiateAlgorithms (fn : Fn) (algs : AlgSet)
  /-- GET_DIGESTS (R415). -/
  | msgGetDigests (fn : Fn)
  /-- GET_CERTIFICATE (R414). -/
  | msgGetCertificate (fn : Fn) (slot : Byte) (off : W16) (len : W16)
  /-- CHALLENGE (R415). -/
  | msgChallenge (fn : Fn) (slot : Byte) (nonce : Bytes)
  /-- GET_MEASUREMENTS (R412). -/
  | msgGetMeasurements (fn : Fn) (nonce : Bytes)
  /-- KEY_EXCHANGE (R416). -/
  | msgKeyExchange (fn : Fn) (ek : Bytes)
  /-- FINISH (R416). -/
  | msgFinish (fn : Fn) (verify : Bytes)
  /-- END_SESSION (R416). -/
  | msgEndSession (fn : Fn)
  /-- IDE_KM (R382). -/
  | msgIdeKm (fn : Fn) (op : IdeOp)
  /-- TDISP (R382). -/
  | msgTdisp (fn : Fn) (op : TdispOp)
  /-- STOP_INTERFACE (R383). -/
  | msgStopInterface (fn : Fn)
  /-- GET_KEMKEY (R417). -/
  | msgGetKemkey (fn : Fn)
  /-- TK_STAGE (R418). -/
  | msgTkStage (fn : Fn) (keygen : BitVec 4) (ct : Bytes) (wrapped : Bytes)
  /-- TK_ACTIVATE (R419). -/
  | msgTkActivate (fn : Fn) (keygen : BitVec 4)
  /-- IDE_INTEGRITY_FAIL (R382). -/
  | ideIntegrityFail (fn : Fn)
  /-- LINK_TRAINED (R361). -/
  | linkTrained (rate : LinkRate) (width : LinkWidth)
  /-- PERST_ASSERT (R384). -/
  | perstAssert
  /-- HOT_RESET (R384). -/
  | hotReset
  /-- LINK_DOWN (R384). -/
  | linkDown
  /-- LINK_UP (R384). -/
  | linkUp
  /-- FLR_VF (R384). -/
  | flrVf (fn : Fn)
  /-- FLR_PF (R384). -/
  | flrPf
  /-- D3HOT_ENTRY (R384). -/
  | d3hotEntry (fn : Fn)
  /-- D0_RETURN (R384). -/
  | d0Return (fn : Fn)
  /-- POISONED_REQUEST (R384). -/
  | poisonedRequest (fn : Fn)
  /-- FRAME_RECEIVED (R260). -/
  | frameReceived (port : PortNo) (fr : Frame)
  /-- NAK_RECEIVED (R260). -/
  | nakReceived (port : PortNo) (seq : W32)
  /-- REPLAY_TIMEOUT (R260). -/
  | replayTimeout (port : PortNo)
  /-- PORT_RETRAIN (R252). -/
  | portRetrain (port : PortNo) (ok : Bool)
  /-- LANE_DROP (R252). -/
  | laneDrop (port : PortNo) (lane : BitVec 4)
  /-- LASER_FAIL (R253). -/
  | laserFail (eng : BitVec 2) (laser : BitVec 4)
  /-- REJECT_RECEIVED (R262). -/
  | rejectReceived (st : StepName) (cls : RejectClass) (status : RejectStatus)
  /-- SYNC_RECEIVED (R265). -/
  | syncReceived (port : PortNo) (count : W64) (time : W64) (k : BitVec 4) (digest : W64)
  /-- DELAY_MEASURE (R265). -/
  | delayMeasure (t1 : W64) (t2 : W64) (t3 : W64) (t4 : W64)
  /-- ALIGN_JOIN (R267). -/
  | alignJoin (count : W64) (k : BitVec 4) (digest : W64)
  /-- JOIN_RECEIVED (R273). -/
  | joinReceived (g : Gnt) (group : BitVec 3) (src : Mid) (digest : Bytes)
  /-- BUCKET_FULL (R275). -/
  | bucketFull (st : StepName) (tag : W16)
  /-- REDUCTION_CHUNK (R275). -/
  | reductionChunk (st : StepName) (tag : W16) (chunk : W16)
  /-- CONTRIB_RECEIVED (R278). -/
  | contribReceived (g : Gnt) (src : Mid) (m : RedMsg)
  /-- RESULT_RECEIVED (R278). -/
  | resultReceived (g : Gnt) (src : Mid) (m : RedMsg)
  /-- BUCKET_RELEASE (R276). -/
  | bucketRelease (st : StepName) (tag : W16)
  /-- BUCKET_ABORT_RECEIVED (R281). -/
  | bucketAbortReceived (g : Gnt) (group : BitVec 3) (tag : W16)
  /-- REDUCTION_TIMEOUT (R281). -/
  | reductionTimeout (st : StepName)
  /-- COPY_SEND_START (R271). -/
  | copySendStart (st : StepName) (copy : BitVec 2)
  /-- PEER_WRITE_RECEIVED (R269). -/
  | peerWriteReceived (g : Gnt) (src : Mid) (va : W64) (round : W32) (pos : Byte) (data : Bytes)
  /-- PEER_DONE_RECEIVED (R271). -/
  | peerDoneReceived (g : Gnt) (round : W32) (pos : Byte) (bytes : W32)
  /-- PEER_ABORT_RECEIVED (R272). -/
  | peerAbortReceived (g : Gnt) (round : W32) (pos : Byte)
  /-- OVERVOLTAGE_CUTOFF (R427). -/
  | overvoltageCutoff (vin : W16)
  /-- OVERVOLTAGE_RELEASE (R427). -/
  | overvoltageRelease (vin : W16)
  /-- OVERVOLTAGE_WARNING (R427). -/
  | overvoltageWarning (vin : W16)
  /-- UNDERRANGE_WARNING (R427). -/
  | underrangeWarning (vin : W16)
  /-- BRACE_ENTRY (R429). -/
  | braceEntry (vin : W16)
  /-- VIN_RECOVERY (R431). -/
  | vinRecovery (vin : W16)
  /-- RESUME_COUNT_EXPIRY (R431). -/
  | resumeCountExpiry
  /-- SUPPLY_RESET (R432). -/
  | supplyReset (vin : W16)
  /-- POWER_ON_START (R427). -/
  | powerOnStart (vin : W16)
  /-- EN_CLOSE (R499). -/
  | enClose
  /-- THERMAL_BRACE_ENTRY (R505). -/
  | thermalBraceEntry (cause : ThermalCause) (reading : W16)
  /-- THERMAL_TRIP (R506). -/
  | thermalTrip (die : BitVec 5) (celsius : Byte)
  /-- DOMAIN_RETURN_DONE (R440). -/
  | domainReturnDone (dom : DomNo)
  /-- AUTO_IDLE_RETENTION (R437). -/
  | autoIdleRetention (dom : DomNo)
  /-- SMBUS_WAKE_MATCH (R444). -/
  | smbusWakeMatch (addr : BitVec 7)
  /-- MC_WAKE_REQUEST (R445). -/
  | mcWakeRequest
  /-- WAKE_TIMER_EXPIRY (R445). -/
  | wakeTimerExpiry
  /-- BOOT_START (R452). -/
  | bootStart (report : BootReport)
  /-- BOOT_STEP_FAIL (R458). -/
  | bootStepFail (step : BitVec 5) (reason : Byte) (detail : W64)
  /-- RECOVERY_GO (R455). -/
  | recoveryGo (v : W32)
  /-- RECOVERY_IMAGE_CHECKED (R455). -/
  | recoveryImageChecked
  /-- BOOT_RETRY_WRITE (R454). -/
  | bootRetryWrite (v : W32)
  /-- BOOT_OPT_WRITE (R465). -/
  | bootOptWrite (v : W32)
  /-- REPAIR_SCAN (R461). -/
  | repairScan (finds : List RepairFind)
  /-- HATBOX_INTERVAL_TICK (R482). -/
  | hatboxIntervalTick (ein : W64)
  /-- HATBOX_ACTIVITY_FRAME (R484). -/
  | hatboxActivityFrame (frame : Bytes)
  /-- HATBOX_STATUS (R492). -/
  | hatboxStatus
  /-- HATBOX_READ (R492). -/
  | hatboxRead (first : W64) (count : Byte)
  /-- HATBOX_SIGN (R491). -/
  | hatboxSign (first : W64) (last : W64) (nonce : Bytes)
  /-- HATBOX_RELEASE (R492). -/
  | hatboxRelease (last : W64)
  /-- HATBOX_GETCERT (R492). -/
  | hatboxGetcert (index : Byte)
  /-- HATBOX_UPDATE (R493). -/
  | hatboxUpdate (image : Bytes)
  /-- HATBOX_POWERLOSS (R488). -/
  | hatboxPowerloss (energy : W64)
  /-- HATBOX_SEALBREAK (R493). -/
  | hatboxSealbreak (ms : W64)
  /-- HATBOX_SELFCHECK_FAIL (R494). -/
  | hatboxSelfcheckFail
  /-- STRK_CFG_WRITE (R23). -/
  | strkCfgWrite (v : W32)
  /-- SEAT_CFG_WRITE (R105). -/
  | seatCfgWrite (u : SeatAt) (which : SeatCfg) (v : W64)
  /-- EMB_RCPART_WRITE (R250). -/
  | embRcpartWrite (v : W64)
  /-- TEL_LOGRP_WRITE (R480). -/
  | telLogrpWrite (v : W32)
  /-- RC_REGISTER_READ (R11). -/
  | rcRegisterRead (a : BusAddr)
  /-- REGISTER_WRITE (R10). -/
  | registerWrite (a : BusAddr) (v : W64)
  /-- EN_OPEN (R499). -/
  | enOpen
  /-- FLOW_QUALIFIED (R504). -/
  | flowQualified (flow : W16)
  /-- PORT_TRAINED (R256). -/
  | portTrained (port : PortNo) (mid : Mid) (peerPort : BitVec 4) (lanes : BitVec 9)
  /-- LOADACC_LANDS (R92). -/
  | loadaccLands (u : SeatAt)
  /-- MSIX_UNMASK (R381). -/
  | msixUnmask (fn : Fn) (vec : BitVec 2)
  /-- FN_RINGCFG_WRITE (R366). -/
  | fnRingcfgWrite (fn : Fn) (v : W32)
  /-- NUMVFS_WRITE (R362). -/
  | numvfsWrite (n : BitVec 5)
  deriving DecidableEq, Repr

end Sys2Proof
end

