-- ==== Sys2Proof/WellFormed.lean ====
section
/-! DEFINITION. Which commands name units that the module has. A command that is not well formed is refused
(`Refusal.noSuchUnit`); every other value of an operand has the effect that the spec gives it. -/
namespace Sys2Proof

/-- Physical seats are 0–8 (R104). -/
def SeatAt.wf (u : SeatAt) : Bool := decide (u.seat.toNat ≤ 8)

/-- A context of a physical seat 0–8. -/
def CtxAt.wf (c : CtxAt) : Bool := decide (c.seat.toNat ≤ 8)

/-- A lane core of a physical seat 0–8. -/
def LaneAt.wf (l : LaneAt) : Bool := decide (l.seat.toNat ≤ 8)

/-- Codec pipes are 0–19 (R345). -/
def pipeWf (p : PipeNo) : Bool := decide (p.toNat ≤ 19)

/-- Switched domains are D000–D112 (R433). -/
def domWf (d : DomNo) : Bool := decide (d.toNat ≤ 112)

/-- A port has eight lanes and one spare, an optical engine nine lasers in use (R251, R253). -/
def portLaneWf (l : BitVec 4) : Bool := decide (l.toNat ≤ 8)

/-- A memory whose wipe ends: a physical seat 0–8, a stacked extent 0–59. -/
def WipeTarget.wf : WipeTarget → Bool
  | .seat u => u.wf
  | .extent _ e => decide (e.toNat < 60)
  | .cache _ => true
  | .media => true

/-- A command names only units that the module has. -/
def Instr.wf : Instr → Bool
  | .seatNop c _ | .seatMma c _ | .seatLoadacc c _ | .seatDrain c _ | .seatSetidx c _ | .seatSwaph c _
  | .seatLane c _ | .seatFence c _ | .seatYield c _ | .seatEnd c _ | .workGrant c | .streamBlockLanded c _
  | .kvWalkBlock c _ => c.wf
  | .mmaBlockLands u | .loadaccLands u | .drainEpilogue u | .seatFault u _ | .laneKernelHalt u
  | .collectiveProceed u | .laneWatchdog u | .seatCfgWrite u _ _ => u.wf
  | .laneIop l _ | .laneAddi l _ | .laneAndi l _ | .laneOri l _ | .laneXori l _ | .laneShi l _ | .laneLui l _
  | .laneFop l _ | .laneFma l _ | .laneFcvt l _ | .laneCvt l _ | .laneXfn l _ | .laneTld l _ | .laneTst l _
  | .laneWld l _ | .laneBr l _ | .laneJal l _ | .laneJalr l _ | .laneCsrr l _ | .laneCsrw l _ | .lanePerm l _
  | .laneRed l _ | .laneBar l _ | .laneHalt l _ => l.wf
  | .crewRestoreDone _ bad => bad.all CtxAt.wf
  | .wipeDone w => w.wf
  | .videoFrameStart p | .videoBlockRowItem p _ | .videoFramePublish p | .videoWatchdog p
  | .encodeFrameEmit p => pipeWf p
  | .domainReturnDone d | .autoIdleRetention d => domWf d
  | .laneDrop _ l | .laserFail _ l => portLaneWf l
  | _ => true

end Sys2Proof
end

