-- ==== Sys2Proof/Decode.lean ====
section
/-! DEFINITION. Decoding. No row of spec/opcode_table.json gives bits: the block has no instruction words, and its
commands arrive as events and packets. The command words that the spec does encode (seat commands, lane-core
instructions, Yalon packets) are operands of their rows and are taken apart in the Machine files. -/
namespace Sys2Proof

/-- The command that a word of the table spells: none, for no row of the table gives bits. -/
def decodeTableWord (_nbits _w : Nat) : Option Instr := none

end Sys2Proof
end

