-- ==== Sys2Proof/Config.lean ====
section
/-! DEFINITION. What the spec leaves open or hands to a published standard: constants with no body. Nothing in
Lean can evaluate them, so a claim that mentions one holds whatever it is. -/
namespace Sys2Proof

/-- What a media decoder makes of a field's bytes (R297, R313): the bit-exact decoders of the published standards are
not part of the spec's text. -/
structure MediaOut where
  /-- reason code of R312, or 0 for intact -/
  reason : Nat
  /-- the damage pads the sample instead of concealing it (R313) -/
  pad : Bool
  width : Nat
  height : Nat
  chans : Nat
  /-- sample rate in Hz (audio) -/
  rate : Nat
  /-- values as FP32 bits, channel after channel -/
  vals : List W32
  deriving DecidableEq, Repr, Inhabited

/-- What a decode pipe makes of the next frame of an elementary stream (R320, R321, R328). -/
structure VideoOut where
  /-- reason code of R312, or 0 -/
  reason : Nat
  /-- 0 whole; 1 damaged inside slices; 2 frame header invalid (R337) -/
  damage : Nat
  key : Bool
  width : Nat
  height : Nat
  /-- samples of ten bits -/
  ten : Bool
  cropX : Nat
  cropY : Nat
  dispW : Nat
  dispH : Nat
  /-- lines of a block row (R323), and the largest decoded-picture buffer of the sequence (R329) -/
  rowLines : Nat
  dpb : Nat
  poc : W32
  /-- display index -/
  disp : Nat
  /-- frames held as references after this one, by display index: MARK, LTIDX, SLOTS (R328) -/
  refs : List (Nat × Byte × Byte × Byte)
  /-- display indices that the output process delivers after this frame (R332) -/
  deliver : List Nat
  grain : Bool
  /-- samples, row after row, in the containers of R326 -/
  luma : Bytes
  chroma : Bytes
  /-- bytes of the stream that the frame takes -/
  used : Nat
  deriving DecidableEq, Repr, Inhabited

/-- A request of R415, as the framing of the DMTF specification carries it. -/
inductive SecReq where
  | getVersion
  | getCapabilities
  | negotiate (algs : AlgSet)
  | getDigests
  | getCertificate (slot : Byte) (off : W16) (len : W16)
  | challenge (slot : Byte) (nonce : Bytes)
  | getMeasurements (nonce : Bytes)
  | keyExchange (ek : Bytes)
  | finish (verify : Bytes)
  | endSession
  | ideKm (op : IdeOp)
  | tdisp (op : TdispOp)
  | stopInterface
  | getKemkey
  | tkStage (keygen : BitVec 4) (ct : Bytes) (wrapped : Bytes)
  | tkActivate (keygen : BitVec 4)
  deriving DecidableEq, Repr

/-- Log 4. The n-th free value: random source draws, undefined and unstated values. -/
opaque Config.free : Nat → W64
/-- Log 4. A free value that is a function of a position, for bytes the spec calls unspecified. -/
opaque Config.freeByte : Nat → Byte
/-- Log 4. Cycles that a boundary sequence or a kernel takes; bounded where the spec bounds it. -/
opaque Config.cycles : Nat → Nat
/-- Log 14. Whether tininess is detected before rounding (R120, UF): IEEE 754 leaves it open and the spec is silent. -/
opaque Config.tinyBefore : Bool
/-- Log 14. Whether a NaN operand with its quiet bit clear raises NV: the spec gives NaNs no such classes. -/
opaque Config.snanInvalid : Bool
/-- Log 14. Whether a comparison (FOP func 5–7) of a NaN raises NV: IEEE 754 has both kinds and the spec names neither. -/
opaque Config.cmpInvalid : Nat → Bool
/-- Log 8. The image, FLAC and Opus decoders of R297 and R298, and the ingest frames of R340: tag, bytes, WSZ, frame. -/
opaque Config.media : Nat → Bytes → Nat → Nat → MediaOut
/-- Log 8. The video decoders of R320: codec, stream bytes from the frame on, frames decoded before it. -/
opaque Config.video : Nat → Bytes → Nat → VideoOut
/-- Log 8. The video encoder's bitstream (R341, R342): descriptor, frame bytes, frame number, FORCEI. -/
opaque Config.encode : Bytes → Bytes → Nat → Bool → Bytes
/-- Log 9. ML-DSA-44 of FIPS 204 (R410): key label, digest, hedge. -/
opaque Config.sign : Nat → Bytes → Nat → Bytes
/-- Log 9. ML-DSA-44 verification: key hash, digest, signature. -/
opaque Config.verify : Bytes → Bytes → Bytes → Bool
/-- Log 9. Public key derived from a 32-byte seed (R409). -/
opaque Config.publicKey : Bytes → Bytes
/-- Log 9. ML-KEM-768 decapsulation: draw that made the pair, ciphertext; the 32-byte shared secret. -/
opaque Config.decaps : Nat → Bytes → Bytes
/-- Log 9. ML-KEM-768 encapsulation to a received key: key, draw; ciphertext and shared secret. -/
opaque Config.encaps : Bytes → Nat → Bytes × Bytes
/-- Log 9. ML-KEM-768 encapsulation key of the pair that a draw made. -/
opaque Config.kemKey : Nat → Bytes
/-- Log 9. SHAKE256 to 32 bytes (R409). -/
opaque Config.shake : Bytes → Bytes
/-- Log 9. SHA3-256 of FIPS 202. -/
opaque Config.sha3 : Bytes → BitVec 256
/-- Log 9. AES-256-GCM decryption: key, nonce, additional data, ciphertext, tag. -/
opaque Config.gcmOpen : Bytes → Bytes → Bytes → Bytes → Bytes → Option Bytes
/-- Log 9. AES-256-GCM encryption: key, nonce, additional data, plaintext; ciphertext and tag. -/
opaque Config.gcmSeal : Bytes → Bytes → Bytes → Bytes → Bytes × Bytes
/-- Log 9. A certificate of the chains of R414 and R490: index, subject data; DER bytes. -/
opaque Config.certificate : Nat → Bytes → Bytes
/-- Log 9. Bodies of responses that the DMTF specification alone gives (R415): message code, draw. -/
opaque Config.spdmBody : Nat → Nat → Bytes

/-- Log 9. The request that the bytes of a secure message carry (R415); none where they are malformed. -/
opaque Config.spdmRequest : Bytes → Option SecReq
/-- Log 9. SHA3-256 hashes fused at manufacture: 0 of the lifecycle verification key (R409), 1 of the image-signing key (R451),
2 of the hatbox-firmware key (R492). -/
opaque Config.fusedKey : Nat → Bytes

/-- Log 93. A firmware image (R451), whose layout the spec does not give: version, security version, package length; package;
signature. -/
opaque Config.fwImage : Bytes → (Nat × Nat × Nat) × Bytes × Bytes
/-- Log 93. The bytes that extend a measurement register at boot (R411): register, digest of the package. -/
opaque Config.measured : Nat → Bytes → Bytes

/-- Log 82. An item of a fabric configuration image (R254), whose layout the spec does not give: item number, image bytes. -/
opaque Config.fabImage : Nat → Bytes → Nat

end Sys2Proof
end

