-- ==== Sys2Proof/Machine/Bits.lean ====
section
/-! DEFINITION. Bit fields, sign extension, byte order (R6, R7) and bounded arithmetic. -/
namespace Sys2Proof.Machine

/-- Bits [hi:lo] of a number (R6). -/
def fld (x : Nat) (hi lo : Nat) : Nat := (x >>> lo) % 2 ^ (hi + 1 - lo)

/-- One bit of a number. -/
def bitOf (x : Nat) (i : Nat) : Bool := x.testBit i

/-- A Boolean as a bit. -/
def b2n (b : Bool) : Nat := if b then 1 else 0

/-- The value of a `w`-bit two's-complement field. -/
def sext (w : Nat) (x : Nat) : Int := if x % 2 ^ w < 2 ^ (w - 1) then (x % 2 ^ w : Nat) else (x % 2 ^ w : Nat) - (2 ^ w : Nat)

/-- The `w`-bit two's-complement encoding of an integer. -/
def wrapZ (w : Nat) (z : Int) : Nat := (z % ((2 ^ w : Nat) : Int)).toNat

/-- `n` bytes of a number, lowest first (R7). -/
def leBytes : Nat → Nat → Bytes
  | 0, _ => []
  | n + 1, v => BitVec.ofNat 8 v :: leBytes n (v / 256)

/-- The number that bytes spell, lowest first (R7). -/
def leNat : Bytes → Nat
  | [] => 0
  | b :: t => b.toNat + 256 * leNat t

/-- The number that bytes spell, highest first. -/
def beNat (bs : Bytes) : Nat := bs.foldl (fun a b => a * 256 + b.toNat) 0

/-- `n` bytes of a structure from an offset; bytes past its end are zero. -/
def slice (bs : Bytes) (off n : Nat) : Bytes :=
  let x := (bs.drop off).take n
  x ++ List.replicate (n - x.length) 0

/-- The little-endian number of `n` bytes at an offset of a structure. -/
def leAt (bs : Bytes) (off n : Nat) : Nat := leNat ((bs.drop off).take n)

/-- Replace the bytes of a structure from an offset. -/
def patch (bs : Bytes) (off : Nat) (new : Bytes) : Bytes :=
  bs.take off ++ new ++ bs.drop (off + new.length)

/-- The bytes `new` where a run of length `n` is wanted: cut or filled with zeros. -/
def padTo (n : Nat) (bs : Bytes) : Bytes := slice bs 0 n

/-- Every byte zero. -/
def allZero (bs : Bytes) : Bool := bs.all fun b => b == 0

/-- The next multiple of `a` at or above `x`. -/
def alignUp (x a : Nat) : Nat := (x + a - 1) / a * a

/-- A value that saturates at 2^w − 1. -/
def satN (w x : Nat) : Nat := min x (2 ^ w - 1)

/-- Population count of the low `n` bits. -/
def popcount (n x : Nat) : Nat := ((List.range n).filter fun i => x.testBit i).length

/-- The positions of the set bits below `n`, rising. -/
def setBits (n x : Nat) : List Nat := (List.range n).filter fun i => x.testBit i

/-- The number whose set bits are those listed. -/
def maskOf (l : List Nat) : Nat := l.foldl (fun a i => a ||| 2 ^ i) 0

/-- Equal-sized pieces of a structure. -/
def pieces (bs : Bytes) (size count : Nat) : List Bytes := (List.range count).map fun i => slice bs (size * i) size

/-- Two address ranges overlap. -/
def overlaps (a n b m : Nat) : Bool := decide (a < b + m) && decide (b < a + n)

/-- The first element that meets a test, with its position. -/
def findIdx' {α : Type} (p : α → Bool) : List α → Nat → Option (Nat × α)
  | [], _ => none
  | a :: t, i => if p a then some (i, a) else findIdx' p t (i + 1)

/-- Lists with an element at its place in an order. -/
def insertBy {α : Type} (le : α → α → Bool) (a : α) : List α → List α
  | [] => [a]
  | b :: t => if le a b then a :: b :: t else b :: insertBy le a t

/-- A list in an order, equal elements kept in their own order. -/
def sortBy {α : Type} (le : α → α → Bool) : List α → List α
  | [] => []
  | a :: t => insertBy le a (sortBy le t)

/-- Replace the element at a position. -/
def setAt {α : Type} (l : List α) (i : Nat) (a : α) : List α := l.set i a

end Sys2Proof.Machine
end

