-- ==== Sys2Proof/Machine/Float.lean ====
section
/-! DEFINITION. Numbers: the formats of R49 and R50, exact values, rounding to nearest even and stochastic rounding
(R69–R75), binary32 arithmetic (R62, R114), the k-blocks of R55–R57, split operands (R59) and the transcendental
functions of R115. Finite values are exact: a sign, a magnitude and a power of two. -/
namespace Sys2Proof.Machine

/-- An exact value: NaN, an infinity, or ± m × 2^e. -/
inductive FV where
  | nan
  | inf (neg : Bool)
  | fin (neg : Bool) (m : Nat) (e : Int)
  deriving DecidableEq, Repr

/-- A float format (R50): exponent bits, mantissa bits, bias, and which special codes it has: 0 infinities and NaNs,
1 NaN only at the top code (E4M3), 2 none (FP4). -/
structure Fmt where
  eb : Nat
  mb : Nat
  bias : Nat
  spec : Nat
  deriving DecidableEq, Repr

/-- FP32. -/
def fp32 : Fmt := ⟨8, 23, 127, 0⟩
/-- BF16. -/
def bf16 : Fmt := ⟨8, 7, 127, 0⟩
/-- binary16. -/
def half16 : Fmt := ⟨5, 10, 15, 0⟩
/-- E4M3. -/
def e4m3 : Fmt := ⟨4, 3, 7, 1⟩
/-- E5M2. -/
def e5m2 : Fmt := ⟨5, 2, 15, 0⟩
/-- FP4 E2M1. -/
def fp4 : Fmt := ⟨2, 1, 1, 2⟩

/-- Format codes (R49): the float format of a code. -/
def floatFmt (c : Nat) : Option Fmt :=
  match c with
  | 0 => some fp32 | 1 => some bf16 | 2 => some half16 | 3 => some e4m3 | 4 => some e5m2 | 7 => some fp4
  | _ => none

/-- Width in bits of an element of a format code (R49). -/
def fmtBits (c : Nat) : Nat :=
  match c with
  | 0 => 32 | 1 => 16 | 2 => 16 | 3 => 8 | 4 => 8 | 5 => 8 | 6 => 4 | 7 => 4 | 8 => 32 | _ => 0

/-- Format codes that are not reserved (R49). -/
def fmtOk (c : Nat) : Bool := decide (c ≤ 8)

/-- Exponent of the least subnormal. -/
def Fmt.lsb0 (p : Fmt) : Int := 1 - (p.bias : Int) - p.mb
/-- First code past the finite ones, without the sign. -/
def Fmt.top (p : Fmt) : Nat := if p.spec = 0 then (2 ^ p.eb - 1) * 2 ^ p.mb else if p.spec = 1 then 2 ^ (p.eb + p.mb) - 1 else 2 ^ (p.eb + p.mb)
/-- Sign bit of a format. -/
def Fmt.sgn (p : Fmt) (neg : Bool) : Nat := if neg then 2 ^ (p.eb + p.mb) else 0
/-- Canonical NaN (R50, R51). -/
def Fmt.nanCode (p : Fmt) : Nat := if p.spec = 0 then (2 ^ p.eb - 1) * 2 ^ p.mb + 2 ^ (p.mb - 1) else 2 ^ (p.eb + p.mb) - 1

/-- The value of a code (R50). -/
def Fmt.unpack (p : Fmt) (x : Nat) : FV :=
  let neg := x.testBit (p.eb + p.mb)
  let ex := fld x (p.eb + p.mb - 1) p.mb
  let ma := x % 2 ^ p.mb
  if p.spec = 0 ∧ ex = 2 ^ p.eb - 1 then (if ma = 0 then .inf neg else .nan)
  else if p.spec = 1 ∧ x % 2 ^ (p.eb + p.mb) = 2 ^ (p.eb + p.mb) - 1 then .nan
  else if ex = 0 then .fin neg ma p.lsb0
  else .fin neg (ma + 2 ^ p.mb) (p.lsb0 + (ex - 1 : Nat))

/-- A magnitude m × 2^e cut at a least significant bit: quotient, remainder scaled to a shift. -/
def cutAt (m : Nat) (e lsb : Int) : Nat × Nat × Nat :=
  if lsb ≤ e then (m * 2 ^ (e - lsb).toNat, 0, 0)
  else let s := (lsb - e).toNat; (m >>> s, m % 2 ^ s, s)

/-- Exponent of the last retained bit of m × 2^e in a format, subnormals included. -/
def Fmt.lsbOf (p : Fmt) (m : Nat) (e : Int) : Int := max ((Nat.log2 m : Int) + e - p.mb) p.lsb0

/-- Round up under round-to-nearest-even. -/
def rneUp (q r s : Nat) : Bool := decide (2 ^ s < 2 * r) || (decide (0 < s) && 2 * r == 2 ^ s && q % 2 == 1)

/-- The 16 bits below the last retained bit (R75). -/
def srD (r s : Nat) : Nat := if 16 ≤ s then r >>> (s - 16) else r * 2 ^ (16 - s)

/-- Round a magnitude to a format: the code without sign, as if the exponent were unbounded, and whether it was
inexact. `sr` gives the random bits of stochastic rounding (R73, R75). -/
def Fmt.round (p : Fmt) (sr : Option Nat) (m : Nat) (e : Int) : Nat × Bool :=
  if m = 0 then (0, false)
  else
    let l := p.lsbOf m e
    let (q, r, s) := cutAt m e l
    let up := match sr with
      | none => rneUp q r s
      | some b => decide (2 ^ 16 ≤ srD r s + b)
    let q := if up then q + 1 else q
    ((l - p.lsb0).toNat * 2 ^ p.mb + q, decide (r ≠ 0))

/-- Flags of a float operation: LSTAT bits NV, OF, UF, DZ, NX in [5:1] (R120). -/
abbrev FFlags := Nat
/-- NV. -/
def fNV : FFlags := 2
/-- OF. -/
def fOF : FFlags := 4
/-- UF. -/
def fUF : FFlags := 8
/-- DZ. -/
def fDZ : FFlags := 16
/-- NX. -/
def fNX : FFlags := 32

/-- A value is below the least normal magnitude before rounding. -/
def tinyExact (p : Fmt) (m : Nat) (e : Int) : Bool := decide ((Nat.log2 m : Int) + e < p.lsb0 + p.mb)

/-- A value is below the least normal magnitude once rounded to nearest even with no lower bound on the exponent. -/
def tinyRounded (p : Fmt) (m : Nat) (e : Int) : Bool :=
  let x := (Nat.log2 m : Int) + e
  let (q, r, s) := cutAt m e (x - p.mb)
  let q := if rneUp q r s then q + 1 else q
  decide ((if q = 2 ^ (p.mb + 1) then x + 1 else x) < p.lsb0 + p.mb)

/-- Tininess of a value that is not zero; whether it is judged before or after rounding is open (log 14). -/
def tinyVal (p : Fmt) (m : Nat) (e : Int) : Bool := tinyRounded p m e || (tinyExact p m e && Config.tinyBefore)

/-- Round to binary32, to nearest even; overflow to infinity. -/
def pack32 (v : FV) : Nat × FFlags :=
  match v with
  | .nan => (0x7FC00000, 0)
  | .inf neg => (fp32.sgn neg + fp32.top, 0)
  | .fin neg m e =>
    let (c, ix) := fp32.round none m e
    if fp32.top ≤ c then (fp32.sgn neg + fp32.top, fOF ||| fNX)
    else
      let tiny := m != 0 && tinyVal fp32 m e
      (fp32.sgn neg + c, if ix then (if tiny then fUF ||| fNX else fNX) else 0)

/-- Value of a binary32 code. -/
def v32 (x : Nat) : FV := fp32.unpack (x % 2 ^ 32)

/-- Exact integer value of a finite number at a common power of two. -/
def scaled (neg : Bool) (m : Nat) (e l : Int) : Int :=
  let a : Int := (m * 2 ^ (e - l).toNat : Nat)
  if neg then -a else a

/-- Exact sum; a zero sum is +0 unless both are −0. -/
def FV.add : FV → FV → FV
  | .nan, _ => .nan
  | _, .nan => .nan
  | .inf a, .inf b => if a = b then .inf a else .nan
  | .inf a, _ => .inf a
  | _, .inf b => .inf b
  | .fin a m e, .fin b n f =>
    let l := min e f
    let z := scaled a m e l + scaled b n f l
    if z = 0 then .fin (a && b) 0 l else .fin (decide (z < 0)) z.natAbs l

/-- Exact product. -/
def FV.mul : FV → FV → FV
  | .nan, _ => .nan
  | _, .nan => .nan
  | .inf a, .inf b => .inf (a != b)
  | .inf a, .fin b n _ => if n = 0 then .nan else .inf (a != b)
  | .fin a m _, .inf b => if m = 0 then .nan else .inf (a != b)
  | .fin a m e, .fin b n f => .fin (a != b) (m * n) (e + f)

/-- Change of sign. -/
def FV.neg : FV → FV
  | .nan => .nan
  | .inf a => .inf (!a)
  | .fin a m e => .fin (!a) m e

/-- NaN test. -/
def FV.isNan : FV → Bool
  | .nan => true
  | _ => false

/-- A binary32 code is NaN. -/
def isNan32 (x : Nat) : Bool := decide (fp32.top < x % 2 ^ 31)

/-- A signalling NaN: whether it raises NV is open (log 14). -/
def snan (x : Nat) : FFlags := if isNan32 x && !x.testBit 22 && Config.snanInvalid then fNV else 0

/-- An operation is invalid when it makes a NaN of operands that are not NaN. -/
def nvFlag (ops : List FV) (r : FV) : FFlags := if r.isNan && ops.all fun v => !v.isNan then fNV else 0

/-- binary32 sum. -/
def fadd32 (a b : Nat) : Nat × FFlags :=
  let r := (v32 a).add (v32 b)
  let (x, f) := pack32 r
  (x, f ||| nvFlag [v32 a, v32 b] r ||| snan a ||| snan b)

/-- binary32 product. -/
def fmul32 (a b : Nat) : Nat × FFlags :=
  let r := (v32 a).mul (v32 b)
  let (x, f) := pack32 r
  (x, f ||| nvFlag [v32 a, v32 b] r ||| snan a ||| snan b)

/-- binary32 fused multiply-add of the product, with signs changed (R112). -/
def fma32 (a b c : Nat) (np nc : Bool) : Nat × FFlags :=
  let p := (v32 a).mul (v32 b)
  let p := if np then p.neg else p
  let c' := if nc then (v32 c).neg else v32 c
  let r := p.add c'
  let (x, f) := pack32 r
  (x, f ||| nvFlag [v32 a, v32 b, v32 c] r ||| snan a ||| snan b ||| snan c)

/-- rn32 of a product (R62). -/
def mul32 (a b : Nat) : Nat := (fmul32 a b).1
/-- rn32 of a sum. -/
def add32 (a b : Nat) : Nat := (fadd32 a b).1
/-- rn32 of an integer. -/
def ofInt32 (z : Int) : Nat := (pack32 (.fin (decide (z < 0)) z.natAbs 0)).1

/-- A binary32 code is an infinity. -/
def isInf32 (x : Nat) : Bool := x % 2 ^ 31 == fp32.top
/-- A binary32 code is finite. -/
def isFin32 (x : Nat) : Bool := decide (x % 2 ^ 31 < fp32.top)

/-- Order of binary32 codes that are not NaN as integers, −0 below +0. -/
def key32 (x : Nat) : Int := if x.testBit 31 then -(x % 2 ^ 31 : Nat) - 1 else (x % 2 ^ 31 : Nat)

/-- FMIN and FMAX (R114): canonical NaN if either is NaN; −0 below +0. -/
def fminmax (mx : Bool) (a b : Nat) : Nat :=
  if isNan32 a || isNan32 b then 0x7FC00000
  else if (decide (key32 a < key32 b)) != mx then a else b

/-- Ordered comparison of values: −0 equals +0. -/
def fcmp (a b : Nat) : Option Ordering :=
  if isNan32 a || isNan32 b then none
  else
    let k := fun x => if x % 2 ^ 31 = 0 then (0 : Int) else key32 x
    some (compare (k a) (k b))

/-! ### Conversion (R69–R71) -/

/-- Which count of the scale record an element raises (R70). -/
inductive Cnt where
  | none | nan | inf | ovf | unf
  deriving DecidableEq, Repr

/-- Round a magnitude to an integer. -/
def roundInt (sr : Option Nat) (m : Nat) (e : Int) : Nat :=
  let (q, r, s) := cutAt m e 0
  let up := match sr with
    | none => rneUp q r s
    | some b => decide (2 ^ 16 ≤ srD r s + b)
  if up then q + 1 else q

/-- Bits of an INT8 conversion of a finite value, and whether it overflowed (R71). -/
def toInt8 (sr : Option Nat) (sat : Bool) (neg : Bool) (m : Nat) (e : Int) : Nat × Bool :=
  let n := roundInt sr m e
  let z : Int := if neg then -(n : Int) else n
  if decide (-128 ≤ z) && decide (z ≤ 127) then (wrapZ 8 z, false)
  else
    let huge := decide (31 ≤ (Nat.log2 m : Int) + e) && m != 0
    (if sat || huge then (if neg then 0x80 else 0x7F) else wrapZ 8 z, true)

/-- Convert z, the scaled value of y, to a format (R70): the bits, and the count that y raises. -/
def convert (fmt : Nat) (y z : Nat) (sr : Option Nat) (infMode sat : Bool) : Nat × Cnt :=
  let cnt (o : Bool) (zero : Bool) : Cnt :=
    if isNan32 y then .nan else if isInf32 y then .inf else if isNan32 z then .nan
    else if o || isInf32 z then .ovf else if zero && y % 2 ^ 31 != 0 then .unf else .none
  if fmt = 5 then
    match v32 z with
    | .nan => (0, cnt false false)
    | .inf neg => (if neg then 0x80 else 0x7F, cnt true false)
    | .fin neg m e => let (b, o) := toInt8 sr sat neg m e; (b, cnt o (b == 0 && !o))
  else
    let p := (floatFmt fmt).getD fp32
    match v32 z with
    | .nan => (p.nanCode, cnt false false)
    | .inf neg => (p.sgn neg + (if infMode && p.spec == 0 then p.top else p.top - 1), cnt true false)
    | .fin neg m e =>
      let (c, _) := p.round sr m e
      if p.top ≤ c then (p.sgn neg + (if infMode && p.spec == 0 then p.top else p.top - 1), cnt true false)
      else (p.sgn neg + c, cnt false (c == 0))

/-- The random bits of R73. -/
def mix64 (z : Nat) : Nat :=
  let z := (z ^^^ (z >>> 30)) * 0xBF58476D1CE4E5B9 % 2 ^ 64
  let z := (z ^^^ (z >>> 27)) * 0x94D049BB133111EB % 2 ^ 64
  z ^^^ (z >>> 31)

/-- srbits (R73). -/
def srbits (seed step tid idx : Nat) : Nat :=
  let a := mix64 ((seed + step * 0x9E3779B97F4A7C15) % 2 ^ 64)
  let b := mix64 (a ^^^ (tid * 0xD1B54A32D192ED03 % 2 ^ 64))
  let r := mix64 ((b + idx) % 2 ^ 64)
  r >>> 48

/-! ### Products and accumulation (R53–R60) -/

/-- Value of an element of an operand format; INT4 and INT8 as integers, FP4 as E4M3 would hold it (R53). -/
def elemVal (fmt : Nat) (x : Nat) : FV :=
  match floatFmt fmt with
  | some p => p.unpack x
  | none =>
    let z := if fmt = 5 then sext 8 x else if fmt = 6 then sext 4 x else sext 32 x
    .fin (decide (z < 0)) z.natAbs 0

/-- Integer value of an element. -/
def elemInt (fmt : Nat) (x : Nat) : Int := if fmt = 6 then sext 4 x else if fmt = 8 then sext 32 x else sext 8 x

/-- Exponent of a non-zero finite term. -/
def FV.expo : FV → Option Int
  | .fin _ m e => if m = 0 then none else some ((Nat.log2 m : Int) + e)
  | _ => none

/-- Largest exponent among the terms. -/
def maxExpo : List FV → Option Int
  | [] => none
  | t :: ts => match t.expo, maxExpo ts with
    | some a, some b => some (max a b)
    | some a, none => some a
    | none, b => b

/-- A term truncated towards zero to a multiple of 2^l, in units of 2^l (R55). -/
def truncTerm (l : Int) : FV → Int
  | .fin neg m e =>
    let (q, _, _) := cutAt m e l
    if neg then -(q : Int) else q
  | _ => 0

/-- Sum of the truncated terms. -/
def sumTrunc (l : Int) (ts : List FV) : Int := ts.foldl (fun a t => a + truncTerm l t) 0

/-- A term is −0. -/
def FV.isNegZero : FV → Bool
  | .fin true 0 _ => true
  | _ => false

/-- A float k-block (R55, R56): the terms are the products and the accumulator value. -/
def blockSum (ts : List FV) : Nat :=
  if ts.any FV.isNan then 0x7FC00000
  else
    let pos := ts.any (· == .inf false)
    let neg := ts.any (· == .inf true)
    if pos && neg then 0x7FC00000
    else if pos then 0x7F800000
    else if neg then 0xFF800000
    else match maxExpo ts with
      | none => if ts.all FV.isNegZero then 0x80000000 else 0
      | some E =>
        let z := sumTrunc (E - 50) ts
        if z = 0 then (if ts.all FV.isNegZero then 0x80000000 else 0)
        else (pack32 (.fin (decide (z < 0)) z.natAbs (E - 50))).1

/-- A block of float products onto an accumulator (R55), and whether it set ACCNF (R56). -/
def accBlockF (acc : Nat) (ab : List (FV × FV)) : Nat × Bool :=
  let r := blockSum (v32 acc :: ab.map fun p => p.1.mul p.2)
  (r, isFin32 acc && !isFin32 r)

/-- A block of integer products onto an accumulator (R57). -/
def accBlockI (acc : Int) (ab : List (Int × Int)) : Int := acc + ab.foldl (fun s p => s + p.1 * p.2) 0

/-- INT32 range. -/
def inI32 (z : Int) : Bool := decide (-(2 ^ 31 : Int) ≤ z) && decide (z ≤ 2 ^ 31 - 1)

/-- Saturate to INT32. -/
def satI32 (z : Int) : Int := max (-(2 ^ 31 : Int)) (min (2 ^ 31 - 1) z)

/-- An integer halved, to nearest, ties to even (R58). -/
def halve (q : Int) : Int :=
  let h := q / 2
  if q % 2 = 0 then h else if h % 2 = 0 then h else h + 1

/-- An integer halved n times. -/
def halveN : Nat → Int → Int
  | 0, q => q
  | n + 1, q => halveN n (halve q)

/-- Truncation towards zero to BF16. -/
def truncBf (neg : Bool) (m : Nat) (e : Int) : FV :=
  if m = 0 then .fin neg 0 bf16.lsb0
  else
    let l := bf16.lsbOf m e
    let (q, _, _) := cutAt m e l
    .fin neg q l

/-- What truncation to BF16 leaves, with the sign of x. -/
def restOf (neg : Bool) (m : Nat) (e : Int) (h : FV) : FV :=
  match h with
  | .fin _ q l =>
    let k := min e l
    .fin neg (m * 2 ^ (e - k).toNat - q * 2 ^ (l - k).toNat) k
  | _ => .fin neg 0 e

/-- The three BF16 pieces of an FP32 operand (R59). -/
def split32 (x : Nat) : FV × FV × FV :=
  match v32 x with
  | .nan => (.nan, .fin false 0 0, .fin false 0 0)
  | .inf n => (.inf n, .fin n 0 0, .fin n 0 0)
  | .fin n m e =>
    let h := truncBf n m e
    match restOf n m e h with
    | .fin _ m1 e1 =>
      let h1 := truncBf n m1 e1
      match restOf n m1 e1 h1 with
      | .fin _ m2 e2 => (h, h1, truncBf n m2 e2)
      | _ => (h, h1, .fin n 0 0)
    | _ => (h, .fin n 0 0, .fin n 0 0)

/-- A piece of a split operand: 0 h, 1 m, 2 l. -/
def pieceOf (i : Nat) (p : FV × FV × FV) : FV := if i = 0 then p.1 else if i = 1 then p.2.1 else p.2.2

/-- The passes of a split pairing, in order (R60): the piece of A and the piece of B. -/
def passes (split : Nat) (bothFp32 : Bool) : List (Nat × Nat) :=
  match split, bothFp32 with
  | 1, true => [(0, 1), (1, 0), (0, 0)]
  | 2, true => [(1, 1), (0, 2), (2, 0), (0, 1), (1, 0), (0, 0)]
  | 1, false => [(1, 0), (0, 0)]
  | 2, false => [(2, 0), (1, 0), (0, 0)]
  | _, _ => [(0, 0)]

/-! ### Integer and reciprocal functions of R114 and R115 -/

/-- F2I and F2IT (R114). -/
def f2i (x : Nat) (tr : Bool) : Nat × FFlags :=
  match v32 x with
  | .nan => (0, fNV)
  | .inf neg => (if neg then 0x80000000 else 0x7FFFFFFF, fNV)
  | .fin neg m e =>
    let (q, r, s) := cutAt m e 0
    let q := if !tr && rneUp q r s then q + 1 else q
    let z : Int := if neg then -(q : Int) else q
    if inI32 z then (wrapZ 32 z, if r ≠ 0 then fNX else 0) else (wrapZ 32 (satI32 z), fNV)

/-- Newton steps of an integer square root, from above. -/
def isqrtLoop (n : Nat) : Nat → Nat → Nat
  | 0, x => x
  | k + 1, x => let y := (x + n / x) / 2; if x ≤ y then x else isqrtLoop n k y

/-- Integer square root, rounded down. -/
def isqrt (n : Nat) : Nat := if n = 0 then 0 else isqrtLoop n (Nat.log2 n + 2) (2 ^ (Nat.log2 n / 2 + 1))

/-- A magnitude q × 2^e that stands for a value at or just above it. -/
def sticky (neg : Bool) (q : Nat) (e : Int) (exact : Bool) : FV := .fin neg (2 * q + (if exact then 0 else 1)) (e - 1)

/-- Reciprocal. -/
def rcpV (neg : Bool) (m : Nat) (e : Int) : FV :=
  let k := Nat.log2 m + 64
  sticky neg (2 ^ k / m) (-e - (k : Int)) (2 ^ k % m == 0)

/-- Square root of m × 2^e. -/
def sqrtV (m : Nat) (e : Int) : FV :=
  let s : Nat := if (e % 2 = 0) then 64 else 65
  let q := isqrt (m * 2 ^ s)
  sticky false q ((e - (s : Int)) / 2) (q * q == m * 2 ^ s)

/-- Reciprocal square root of m × 2^e. -/
def rsqrtV (m : Nat) (e : Int) : FV :=
  let (m, e) := if e % 2 = 0 then (m, e) else (2 * m, e - 1)
  let k := 2 * (Nat.log2 m + 64)
  let q := isqrt (2 ^ k / m)
  sticky false q (-(e / 2) - (k / 2 : Nat)) (q * q * m == 2 ^ k)

/-! ### Transcendental functions of R115, from series in fixed point with 512 bits (log 15) -/

/-- Bits of the fixed point. -/
def fxP : Nat := 512
/-- 1.0. -/
def fx1 : Int := (2 ^ fxP : Nat)
/-- Product of fixed-point numbers. -/
def fxMul (a b : Int) : Int := a * b / fx1
/-- A dyadic number in fixed point, cut. -/
def fxOf (neg : Bool) (m : Nat) (e : Int) : Int :=
  let (q, _, _) := cutAt m e (-(fxP : Int))
  if neg then -(q : Int) else q

/-- Terms of the exponential series from the n-th on. -/
def expLoop (x : Int) : Nat → Nat → Int → Int → Int
  | 0, _, _, acc => acc
  | k + 1, n, t, acc => let t := fxMul t x / n; expLoop x k (n + 1) t (acc + t)
/-- exp(x), |x| ≤ 1. -/
def fxExp (x : Int) : Int := expLoop x 120 1 fx1 fx1

/-- Terms of Σ z^(2i+1)/(2i+1), with the sign alternating where `alt`. -/
def atanLoop (z2 : Int) (alt : Bool) : Nat → Nat → Int → Int → Int
  | 0, _, _, acc => acc
  | k + 1, n, t, acc =>
    let t := fxMul t z2
    let t := if alt then -t else t
    atanLoop z2 alt k (n + 2) t (acc + t / n)
/-- artanh(z), |z| ≤ 1/3. -/
def fxAtanh (z : Int) : Int := atanLoop (fxMul z z) false 180 3 z z
/-- arctan(z), |z| ≤ 1/5. -/
def fxAtan (z : Int) : Int := atanLoop (fxMul z z) true 130 3 z z
/-- ln 2. -/
def fxLn2 : Int := 2 * fxAtanh (fx1 / 3)
/-- π, by Machin's formula. -/
def fxPi : Int := 16 * fxAtan (fx1 / 5) - 4 * fxAtan (fx1 / 239)

/-- A fixed-point number as a value that is not exact. -/
def fxVal (x : Int) (sh : Int) : FV := sticky (decide (x < 0)) x.natAbs (sh - fxP) false

/-- 2^x of a non-integer x = ± m × 2^e, |x| < 256. -/
def exp2V (neg : Bool) (m : Nat) (e : Int) : FV :=
  let x := fxOf neg m e
  let n := x / fx1
  fxVal (fxExp (fxMul (x - n * fx1) fxLn2)) n

/-- log2 of m × 2^e that is not a power of two. -/
def log2V (m : Nat) (e : Int) : FV :=
  let l := Nat.log2 m
  let u : Int := (m * 2 ^ fxP : Nat) / (2 ^ l : Nat)
  let z := (u - fx1) * fx1 / (u + fx1)
  fxVal ((e + l) * fx1 + 2 * fxAtanh z * fx1 / fxLn2) 0

/-- exp(x) in fixed point for any |x| < 64. -/
def fxExpAny (x : Int) : Int :=
  let n := x / fxLn2
  let r := fxExp (x - n * fxLn2)
  if 0 ≤ n then r * (2 ^ n.toNat : Nat) else r / (2 ^ (-n).toNat : Nat)

/-- tanh of 0 < x < 16. -/
def tanhV (neg : Bool) (m : Nat) (e : Int) : FV :=
  let x := fxExpAny (2 * fxOf false m e)
  let y := (x - fx1) * fx1 / (x + fx1)
  fxVal (if neg then -y else y) 0

/-- Terms of the error function's series. -/
def erfLoop (x2 : Int) : Nat → Nat → Int → Int → Int
  | 0, _, _, acc => acc
  | k + 1, n, t, acc => let t := -(fxMul t x2) / n; erfLoop x2 k (n + 1) t (acc + t / (2 * n + 1))
/-- erf of 0 < x < 4. -/
def erfV (neg : Bool) (m : Nat) (e : Int) : FV :=
  let x := fxOf false m e
  let s := erfLoop (fxMul x x) 220 1 x x
  let rp : Int := (isqrt (fxPi.toNat * 2 ^ fxP) : Nat)
  let y := 2 * s * fx1 / rp
  fxVal (if neg then -y else y) 0

/-- Terms of the sine series. -/
def sinLoop (x2 : Int) : Nat → Nat → Int → Int → Int
  | 0, _, _, acc => acc
  | k + 1, n, t, acc => let t := -(fxMul t x2) / ((n + 1) * (n + 2) : Nat); sinLoop x2 k (n + 2) t (acc + t)
/-- sin(π y), 0 ≤ y ≤ 1/2 in fixed point. -/
def fxSinpi (y : Int) : Int := let x := fxMul y fxPi; sinLoop (fxMul x x) 70 1 x x

/-- The fraction of |x| modulo 2 in units of 2^l, l ≤ 0: numerator and the units in 1. -/
def mod2 (m : Nat) (e : Int) : Nat × Nat :=
  if 0 ≤ e then (m * 2 ^ e.toNat % 2, 1) else let u := 2 ^ (-e).toNat; (m % (2 * u), u)

/-- sin(π x) where the answer is exact: multiples of one half. -/
def sinpiV (neg : Bool) (m : Nat) (e : Int) : FV :=
  let (r, u) := mod2 m e
  let (s, r) := if u ≤ r then (!neg, r - u) else (neg, r)
  if r = 0 then .fin neg 0 0
  else
    let r := if u < 2 * r then u - r else r
    if 2 * r = u then .fin s 1 0
    else
      let y := fxSinpi ((r : Int) * fx1 / u)
      fxVal (if s then -y else y) 0

/-- cos(π x). -/
def cospiV (m : Nat) (e : Int) : FV :=
  let (r, u) := mod2 m e
  let r := if u < r then 2 * u - r else r
  if r = 0 then .fin false 1 0
  else if r = u then .fin true 1 0
  else if 2 * r = u then .fin false 0 0
  else if 2 * r < u then fxVal (fxSinpi ((u - 2 * r : Nat) * fx1 / (2 * u : Nat))) 0
  else fxVal (-(fxSinpi ((2 * r - u : Nat) * fx1 / (2 * u : Nat)))) 0

/-- Result of a function that is a value, rounded. -/
def ans (v : FV) : Nat × FFlags := pack32 v

/-- XFN (R115): func 0 EXP2, 1 LOG2, 2 RCP, 3 SQRT, 4 RSQRT, 5 TANH, 6 ERF, 7 SINPI, 8 COSPI. -/
def xfn32 (f x : Nat) : Nat × FFlags :=
  match v32 x with
  | .nan => (0x7FC00000, snan x)
  | .inf neg =>
    match f with
    | 0 => (if neg then 0 else 0x7F800000, 0)
    | 1 => if neg then (0x7FC00000, fNV) else (0x7F800000, 0)
    | 2 => (if neg then 0x80000000 else 0, 0)
    | 3 => if neg then (0x7FC00000, fNV) else (0x7F800000, 0)
    | 4 => if neg then (0x7FC00000, fNV) else (0, 0)
    | 5 | 6 => (if neg then 0xBF800000 else 0x3F800000, 0)
    | _ => (0x7FC00000, fNV)
  | .fin neg m e =>
    let big (n : Int) := decide (n ≤ (Nat.log2 m : Int) + e) && m != 0
    match f with
    | 0 =>
      if m = 0 then (0x3F800000, 0)
      else if big 8 then (if neg then ans (.fin false 1 (-200)) else ans (.fin false 1 200))
      else
        let (q, r, _) := cutAt m e 0
        if r = 0 then ans (.fin false 1 (if neg then -(q : Int) else q)) else ans (exp2V neg m e)
    | 1 =>
      if m = 0 then (0xFF800000, fDZ)
      else if neg then (0x7FC00000, fNV)
      else if m = 2 ^ Nat.log2 m then
        let z := e + Nat.log2 m
        ans (.fin (decide (z < 0)) z.natAbs 0)
      else ans (log2V m e)
    | 2 => if m = 0 then (if neg then 0xFF800000 else 0x7F800000, fDZ) else ans (rcpV neg m e)
    | 3 =>
      if m = 0 then (if neg then 0x80000000 else 0, 0)
      else if neg then (0x7FC00000, fNV) else ans (sqrtV m e)
    | 4 =>
      if m = 0 then (if neg then 0xFF800000 else 0x7F800000, fDZ)
      else if neg then (0x7FC00000, fNV) else ans (rsqrtV m e)
    | 5 => if m = 0 then (x % 2 ^ 32, 0) else if big 4 then ans (.fin neg (2 ^ 60 - 1) (-60)) else ans (tanhV neg m e)
    | 6 => if m = 0 then (x % 2 ^ 32, 0) else if big 2 then ans (.fin neg (2 ^ 60 - 1) (-60)) else ans (erfV neg m e)
    | 7 => if m = 0 then (x % 2 ^ 32, 0) else ans (sinpiV neg m e)
    | _ => ans (cospiV m e)

/-- FCVT (R112, R114). FP32→BF16 and FP32→binary16 take an infinity as R70 takes it under SATFIN (log 164). -/
def fcvt32 (f x : Nat) : Option (Nat × FFlags) :=
  match f with
  | 0 => some (pack32 (.fin (decide (sext 32 x < 0)) (sext 32 x).natAbs 0))
  | 1 => some (f2i x false)
  | 2 => some (f2i x true)
  | 3 => some (pack32 (bf16.unpack x))
  | 4 => some (pack32 (half16.unpack x))
  | 5 => some (pack32 (e4m3.unpack x))
  | 6 => some (pack32 (e5m2.unpack x))
  | 7 | 8 =>
    let p := if f = 7 then bf16 else half16
    match v32 x with
    | .nan => some (p.nanCode, snan x)
    | .inf neg => some (p.sgn neg + (p.top - 1), fOF ||| fNX)
    | .fin neg m e =>
      let (c, ix) := p.round none m e
      if p.top ≤ c then some (p.sgn neg + (p.top - 1), fOF ||| fNX)
      else
        let tiny := m != 0 && tinyVal p m e
        some (p.sgn neg + c, if ix then (if tiny then fUF ||| fNX else fNX) else 0)
  | _ => none

/-- FOP (R112, R114). -/
def fop32 (f a b : Nat) : Option (Nat × FFlags) :=
  let cmp (t : Ordering → Bool) : Nat × FFlags :=
    match fcmp a b with
    | none => (0, if Config.cmpInvalid f then fNV else 0)
    | some o => (b2n (t o), 0)
  match f with
  | 0 => some (fadd32 a b)
  | 1 => some (let r := (v32 a).add (v32 b).neg; let (x, fl) := pack32 r; (x, fl ||| nvFlag [v32 a, v32 b] r ||| snan a ||| snan b))
  | 2 => some (fmul32 a b)
  | 3 => some (fminmax false a b, snan a ||| snan b)
  | 4 => some (fminmax true a b, snan a ||| snan b)
  | 5 => some (cmp (· == .eq))
  | 6 => some (cmp (· == .lt))
  | 7 => some (cmp (· != .gt))
  | 8 => some (if isNan32 a then 0x7FC00000 else a % 2 ^ 31, 0)
  | 9 => some (if isNan32 a then 0x7FC00000 else (a % 2 ^ 32) ^^^ 0x80000000, 0)
  | _ => none

end Sys2Proof.Machine
end

