-- ==== Sys2Proof/Machine/RegMap.lean ====
section
/-! DEFINITION. The register map: the byte offset of each register in PF BAR0 (R364), its size, its access code (R10)
and its reset value, from the register tables of the chapters. Offsets of seat, cox and queue registers are those
within the unit's own page. -/
namespace Sys2Proof.Machine

/-- Access codes of R10. -/
inductive Acc where
  | ro | rw | wo | w1c | w1s | rc
  deriving DecidableEq, Repr

/-- A row of a register map: first offset, bytes of one register, bytes of the whole row, access, reset. -/
structure RegRow where
  off : Nat
  size : Nat
  span : Nat
  acc : Acc
  reset : Nat
  deriving DecidableEq, Repr

/-- R48. -/
abbrev rSTRK_CFG : Nat := 0x0
/-- R48. -/
abbrev rSTRK_COUNT : Nat := 0x8
/-- R48. -/
abbrev rSTRK_PERIOD : Nat := 0x10
/-- R48. -/
abbrev rSTRK_ALIGN : Nat := 0x14
/-- R48. -/
abbrev rSTRK_STATUS : Nat := 0x18
/-- R48. -/
abbrev rSTRK_OVRCNT : Nat := 0x20
/-- R48. -/
abbrev rSTRK_BNDLAT : Nat := 0x24
/-- R104. -/
abbrev rSEAT_ID : Nat := 0x0
/-- R104. -/
abbrev rSEAT_GNT : Nat := 0x4
/-- R104. -/
abbrev rSEAT_ACCCFG : Nat := 0x8
/-- R104. -/
abbrev rSEAT_TREGCFG : Nat := 0x10
/-- R104. -/
abbrev rSEAT_SCRCFG : Nat := 0x18
/-- R104. -/
abbrev rSEAT_HALFSEL : Nat := 0x20
/-- R104. -/
abbrev rSEAT_ACCSTAT : Nat := 0x40
/-- R104. -/
abbrev rSEAT_CTXSTAT : Nat := 0x80
/-- R104. -/
abbrev rSEAT_ERR : Nat := 0x84
/-- R104. -/
abbrev rSEAT_ERRINFO : Nat := 0x88
/-- R104. -/
abbrev rSEAT_ECCCNT : Nat := 0x8c
/-- R104. -/
abbrev rSEAT_SWCNT : Nat := 0x90
/-- R104. -/
abbrev rSEAT_RERUNCNT : Nat := 0x94
/-- R104. -/
abbrev rSEAT_OVFCNT : Nat := 0x98
/-- R104. -/
abbrev rSEAT_BUSY : Nat := 0xa0
/-- R130. -/
abbrev rLANE_CFG : Nat := 0x100
/-- R130. -/
abbrev rLANE_STAT : Nat := 0x104
/-- R130. -/
abbrev rLANE_SPARE : Nat := 0x108
/-- R130. -/
abbrev rLANE_BUSY : Nat := 0x110
/-- R130. -/
abbrev rLANE_INSTR : Nat := 0x118
/-- R130. -/
abbrev rLANE_BANKCNT : Nat := 0x120
/-- R156. -/
abbrev rCOX_ID : Nat := 0x0
/-- R156. -/
abbrev rCOX_GNT : Nat := 0x4
/-- R156. -/
abbrev rCOX_SLOTS : Nat := 0x8
/-- R156. -/
abbrev rCOX_ADMIT : Nat := 0x10
/-- R156. -/
abbrev rCOX_LEN : Nat := 0x40
/-- R156. -/
abbrev rCOX_ERR : Nat := 0xc0
/-- R156. -/
abbrev rCOX_ERRINFO : Nat := 0xc4
/-- R156. -/
abbrev rCOX_GRANTCNT : Nat := 0xc8
/-- R156. -/
abbrev rCOX_SKIPCNT : Nat := 0xd0
/-- R156. -/
abbrev rCOX_REGRANTCNT : Nat := 0xd8
/-- R156. -/
abbrev rCOX_MCDISS : Nat := 0xdc
/-- R156. -/
abbrev rCOX_WCNT : Nat := 0x400
/-- R184. -/
abbrev rMEM_CFG : Nat := 0x4000
/-- R184. -/
abbrev rMEM_WIPESTAT : Nat := 0x4004
/-- R184. -/
abbrev rMEM_ZEROPEND : Nat := 0x4008
/-- R184. -/
abbrev rMEM_ZEROSHARE : Nat := 0x400c
/-- R184. -/
abbrev rMEM_SCRUBCFG : Nat := 0x4010
/-- R184. -/
abbrev rMEM_CECNT_SRAM : Nat := 0x4020
/-- R184. -/
abbrev rMEM_CECNT_DRAM : Nat := 0x4024
/-- R184. -/
abbrev rMEM_UECNT : Nat := 0x4028
/-- R184. -/
abbrev rMEM_UEADDR : Nat := 0x4030
/-- R184. -/
abbrev rMEM_UEINFO : Nat := 0x4038
/-- R184. -/
abbrev rMEM_RETIRED : Nat := 0x4040
/-- R184. -/
abbrev rMEM_RETPEND : Nat := 0x4044
/-- R184. -/
abbrev rMEM_KEYSTAT : Nat := 0x4048
/-- R184. -/
abbrev rMEM_SOWN : Nat := 0x5000
/-- R184. -/
abbrev rMEM_LOWN : Nat := 0x6000
/-- R203. -/
abbrev rSTEM_SLOTS : Nat := 0x3000
/-- R203. -/
abbrev rSTEM_CURSOR : Nat := 0x3008
/-- R203. -/
abbrev rSTEM_ERR : Nat := 0x3030
/-- R203. -/
abbrev rSTEM_ERRINFO : Nat := 0x3034
/-- R203. -/
abbrev rSTEM_ROWCNT : Nat := 0x3038
/-- R203. -/
abbrev rSTEM_BUSY : Nat := 0x3040
/-- R203. -/
abbrev rSTEM_WAITCNT : Nat := 0x3048
/-- R233. -/
abbrev rKVM_CFG : Nat := 0x8000
/-- R233. -/
abbrev rKVM_TABUSE : Nat := 0x8004
/-- R233. -/
abbrev rKVM_FREES : Nat := 0x8008
/-- R233. -/
abbrev rKVM_FREEL : Nat := 0x800c
/-- R233. -/
abbrev rKVM_DEFER : Nat := 0x8010
/-- R233. -/
abbrev rKVM_HOLD : Nat := 0x8014
/-- R233. -/
abbrev rKVM_ERR : Nat := 0x8018
/-- R233. -/
abbrev rKVM_ERRINFO : Nat := 0x801c
/-- R233. -/
abbrev rKVM_SPILLCNT : Nat := 0x8020
/-- R233. -/
abbrev rKVM_NOPAGECNT : Nat := 0x8024
/-- R233. -/
abbrev rKVM_EDITCNT : Nat := 0x8028
/-- R233. -/
abbrev rKVM_SUMCNT : Nat := 0x8030
/-- R233. -/
abbrev rKVM_FETCHCNT : Nat := 0x8038
/-- R233. -/
abbrev rKVM_SELBUSY : Nat := 0x8040
/-- R250. -/
abbrev rEMB_RCPART : Nat := 0x9000
/-- R250. -/
abbrev rEMB_HITCNT : Nat := 0x9008
/-- R250. -/
abbrev rEMB_MISSCNT : Nat := 0x9010
/-- R250. -/
abbrev rEMB_ROWCNT : Nat := 0x9018
/-- R250. -/
abbrev rEMB_IDXCNT : Nat := 0x9020
/-- R250. -/
abbrev rEMB_ERR : Nat := 0x9024
/-- R250. -/
abbrev rEMB_ERRINFO : Nat := 0x9028
/-- R250. -/
abbrev rEXD_STAT : Nat := 0xa000
/-- R250. -/
abbrev rEXD_ROUND : Nat := 0xa004
/-- R250. -/
abbrev rEXD_SENTCNT : Nat := 0xa008
/-- R250. -/
abbrev rEXD_DROPCNT : Nat := 0xa010
/-- R250. -/
abbrev rEXD_ERR : Nat := 0xa014
/-- R250. -/
abbrev rEXD_ERRINFO : Nat := 0xa018
/-- R283. -/
abbrev rFAB_ID : Nat := 0x2000
/-- R283. -/
abbrev rFAB_REF : Nat := 0x2004
/-- R283. -/
abbrev rFAB_RTIMEOUT : Nat := 0x2008
/-- R283. -/
abbrev rFAB_PORT : Nat := 0x2040
/-- R283. -/
abbrev rFAB_LASER : Nat := 0x20c0
/-- R283. -/
abbrev rFAB_TXBYTES : Nat := 0x20d0
/-- R283. -/
abbrev rFAB_RXBYTES : Nat := 0x20d8
/-- R283. -/
abbrev rFAB_FWDBYTES : Nat := 0x20e0
/-- R283. -/
abbrev rFAB_REPLAYCNT : Nat := 0x20e8
/-- R283. -/
abbrev rFAB_FECUNC : Nat := 0x20ec
/-- R283. -/
abbrev rFAB_ISOCNT : Nat := 0x20f0
/-- R283. -/
abbrev rFAB_ERR : Nat := 0x20f4
/-- R283. -/
abbrev rFAB_ERRINFO : Nat := 0x20f8
/-- R283. -/
abbrev rRED_RELCNT : Nat := 0x2100
/-- R283. -/
abbrev rRED_STALLCNT : Nat := 0x2108
/-- R283. -/
abbrev rRED_NONFIN : Nat := 0x210c
/-- R319. -/
abbrev rING_CTXBUSY : Nat := 0xb000
/-- R319. -/
abbrev rING_SAMPCNT : Nat := 0xb008
/-- R319. -/
abbrev rING_CONCCNT : Nat := 0xb010
/-- R319. -/
abbrev rING_PADCNT : Nat := 0xb014
/-- R319. -/
abbrev rING_BUDGETCNT : Nat := 0xb018
/-- R319. -/
abbrev rING_RESYNCCNT : Nat := 0xb01c
/-- R319. -/
abbrev rING_PARSEBYTES : Nat := 0xb020
/-- R319. -/
abbrev rING_TOKCNT : Nat := 0xb028
/-- R319. -/
abbrev rING_TABLES : Nat := 0xb030
/-- R319. -/
abbrev rING_ERR : Nat := 0xb038
/-- R319. -/
abbrev rING_ERRINFO : Nat := 0xb03c
/-- R319. -/
abbrev rING_CURSOR : Nat := 0xb100
/-- R345. -/
abbrev rVID_CFG : Nat := 0xc000
/-- R345. -/
abbrev rVID_PIPE : Nat := 0xc008
/-- R345. -/
abbrev rVID_SESSUSE : Nat := 0xc050
/-- R345. -/
abbrev rVID_ESESSUSE : Nat := 0xc058
/-- R345. -/
abbrev rVID_FRAMECNT : Nat := 0xc060
/-- R345. -/
abbrev rVID_CONCCNT : Nat := 0xc068
/-- R345. -/
abbrev rVID_WDOGCNT : Nat := 0xc06c
/-- R345. -/
abbrev rVID_BOUNDCNT : Nat := 0xc070
/-- R345. -/
abbrev rVID_ERR : Nat := 0xc074
/-- R345. -/
abbrev rVID_ERRINFO : Nat := 0xc078
/-- R345. -/
abbrev rVID_BUSY : Nat := 0xc080
/-- R346. -/
abbrev rq_QBASE : Nat := 0x0
/-- R346. -/
abbrev rq_QCFG : Nat := 0x8
/-- R346. -/
abbrev rq_QCTL : Nat := 0xc
/-- R346. -/
abbrev rq_WP : Nat := 0x10
/-- R346. -/
abbrev rq_RP : Nat := 0x14
/-- R346. -/
abbrev rq_WPX : Nat := 0x18
/-- R346. -/
abbrev rq_RPX : Nat := 0x1c
/-- R346. -/
abbrev rq_LOST : Nat := 0x20
/-- R346. -/
abbrev rq_GAPS : Nat := 0x24
/-- R346. -/
abbrev rq_RESETS : Nat := 0x28
/-- R346. -/
abbrev rq_DROPS : Nat := 0x2c
/-- R346. -/
abbrev rq_FLUSHES : Nat := 0x30
/-- R346. -/
abbrev rq_PENDDROP : Nat := 0x34
/-- R346. -/
abbrev rq_CRED : Nat := 0x38
/-- R385. -/
abbrev rHIF_LINK : Nat := 0x1000
/-- R385. -/
abbrev rHIF_NUMVF : Nat := 0x1004
/-- R385. -/
abbrev rHIF_ERR : Nat := 0x1008
/-- R385. -/
abbrev rHIF_ERRINFO : Nat := 0x100c
/-- R385. -/
abbrev rHIF_CMDCNT : Nat := 0x1010
/-- R385. -/
abbrev rHIF_DMARD : Nat := 0x1018
/-- R385. -/
abbrev rHIF_DMAWR : Nat := 0x1020
/-- R385. -/
abbrev rHIF_REEXEC : Nat := 0x1028
/-- R385. -/
abbrev rHIF_IDESTAT : Nat := 0x102c
/-- R385. -/
abbrev rHIF_TDISTAT : Nat := 0x1030
/-- R385. -/
abbrev rHIF_BADTLP : Nat := 0x1034
/-- R426. -/
abbrev rIDN_LCSTATE : Nat := 0x10000
/-- R426. -/
abbrev rIDN_SERIAL : Nat := 0x10008
/-- R426. -/
abbrev rIDN_FWVER : Nat := 0x10010
/-- R426. -/
abbrev rIDN_NONCE : Nat := 0x10020
/-- R426. -/
abbrev rIDN_MEAS : Nat := 0x10040
/-- R426. -/
abbrev rIDN_SESS : Nat := 0x10140
/-- R426. -/
abbrev rIDN_ERR : Nat := 0x10144
/-- R426. -/
abbrev rIDN_ERRINFO : Nat := 0x10148
/-- R426. -/
abbrev rIDN_SIGCNT : Nat := 0x10150
/-- R448. -/
abbrev rPWR_STATUS : Nat := 0xd000
/-- R448. -/
abbrev rPWR_VIN : Nat := 0xd004
/-- R448. -/
abbrev rPWR_IIN : Nat := 0xd008
/-- R448. -/
abbrev rPWR_PIN : Nat := 0xd00c
/-- R448. -/
abbrev rPWR_BRACECNT : Nat := 0xd010
/-- R448. -/
abbrev rPWR_LASTBRACE : Nat := 0xd018
/-- R448. -/
abbrev rPWR_LASTWAKE : Nat := 0xd020
/-- R448. -/
abbrev rPWR_WAKESTROKE : Nat := 0xd028
/-- R448. -/
abbrev rPWR_WAKEADDR : Nat := 0xd030
/-- R448. -/
abbrev rPWR_WTIMER : Nat := 0xd034
/-- R448. -/
abbrev rPWR_AUTOIDLE : Nat := 0xd038
/-- R448. -/
abbrev rPWR_CHGCNT : Nat := 0xd040
/-- R448. -/
abbrev rPWR_MODE : Nat := 0xd100
/-- R448. -/
abbrev rPWR_STATE : Nat := 0xd140
/-- R507. -/
abbrev rPWR_TJ : Nat := 0xd200
/-- R507. -/
abbrev rPWR_COOL : Nat := 0xd208
/-- R507. -/
abbrev rPWR_THMSTAT : Nat := 0xd20c
/-- R507. -/
abbrev rPWR_THMCNT : Nat := 0xd210
/-- R465. -/
abbrev rBOOT_STATUS : Nat := 0xe000
/-- R465. -/
abbrev rBOOT_COUNT : Nat := 0xe004
/-- R465. -/
abbrev rBOOT_LEVEL : Nat := 0xe008
/-- R465. -/
abbrev rBOOT_RETRY : Nat := 0xe010
/-- R465. -/
abbrev rBOOT_OPT : Nat := 0xe014
/-- R465. -/
abbrev rBOOT_FENCED : Nat := 0xe018
/-- R465. -/
abbrev rBOOT_SPARES : Nat := 0xe020
/-- R465. -/
abbrev rBOOT_REPPEND : Nat := 0xe024
/-- R465. -/
abbrev rBOOT_REPUSED : Nat := 0xe028
/-- R465. -/
abbrev rBOOT_WITHDRAWN : Nat := 0xe02c
/-- R465. -/
abbrev rBOOT_SECVER : Nat := 0xe030
/-- R465. -/
abbrev rBOOT_RECADDR : Nat := 0xe040
/-- R465. -/
abbrev rBOOT_RECLEN : Nat := 0xe048
/-- R465. -/
abbrev rBOOT_RECCTL : Nat := 0xe04c
/-- R465. -/
abbrev rBOOT_FWSTAT : Nat := 0xe050
/-- R480. -/
abbrev rTEL_TIME : Nat := 0xf000
/-- R480. -/
abbrev rTEL_LOGRP : Nat := 0xf008
/-- R480. -/
abbrev rTEL_LOGLOST : Nat := 0xf00c
/-- R480. -/
abbrev rTEL_CKPEND : Nat := 0xf010
/-- R480. -/
abbrev rTEL_HASHBYTES : Nat := 0xf018
/-- R480. -/
abbrev rTEL_CKERR : Nat := 0xf020
/-- R480. -/
abbrev rTEL_LOGENT : Nat := 0xf100

/-- Register map of the STRK block. -/
def strkRows : List RegRow :=
  [⟨rSTRK_CFG, 4, 4, .rw, 0x3⟩, ⟨rSTRK_COUNT, 8, 8, .ro, 0x0⟩, ⟨rSTRK_PERIOD, 4, 4, .ro, 0x186a00⟩, ⟨rSTRK_ALIGN, 4, 4, .ro, 0x0⟩,
   ⟨rSTRK_STATUS, 4, 4, .ro, 0x30⟩, ⟨rSTRK_OVRCNT, 4, 4, .rc, 0x0⟩, ⟨rSTRK_BNDLAT, 4, 4, .ro, 0x0⟩]

/-- Register map of the SEAT block. -/
def seatRows : List RegRow :=
  [⟨rSEAT_ID, 4, 4, .ro, 0x0⟩, ⟨rSEAT_GNT, 4, 4, .ro, 0x0⟩, ⟨rSEAT_ACCCFG, 4, 4, .rw, 0x0⟩, ⟨rSEAT_TREGCFG, 8, 8, .rw, 0x0⟩,
   ⟨rSEAT_SCRCFG, 8, 8, .rw, 0x0⟩, ⟨rSEAT_HALFSEL, 4, 4, .ro, 0x0⟩, ⟨rSEAT_ACCSTAT, 8, 64, .ro, 0x0⟩, ⟨rSEAT_CTXSTAT, 4, 4, .ro, 0x0⟩,
   ⟨rSEAT_ERR, 4, 4, .w1c, 0x0⟩, ⟨rSEAT_ERRINFO, 4, 4, .ro, 0x0⟩, ⟨rSEAT_ECCCNT, 4, 4, .rc, 0x0⟩, ⟨rSEAT_SWCNT, 4, 4, .rc, 0x0⟩,
   ⟨rSEAT_RERUNCNT, 4, 4, .rc, 0x0⟩, ⟨rSEAT_OVFCNT, 4, 4, .rc, 0x0⟩, ⟨rSEAT_BUSY, 8, 8, .ro, 0x0⟩, ⟨rLANE_CFG, 4, 4, .rw, 0x16⟩,
   ⟨rLANE_STAT, 4, 4, .ro, 0x0⟩, ⟨rLANE_SPARE, 4, 4, .ro, 0x0⟩, ⟨rLANE_BUSY, 8, 8, .ro, 0x0⟩, ⟨rLANE_INSTR, 8, 8, .ro, 0x0⟩,
   ⟨rLANE_BANKCNT, 4, 4, .rc, 0x0⟩]

/-- Register map of the COX block. -/
def coxRows : List RegRow :=
  [⟨rCOX_ID, 4, 4, .ro, 0x0⟩, ⟨rCOX_GNT, 4, 4, .ro, 0x0⟩, ⟨rCOX_SLOTS, 4, 4, .ro, 0x0⟩, ⟨rCOX_ADMIT, 8, 32, .ro, 0x0⟩,
   ⟨rCOX_LEN, 4, 128, .ro, 0x0⟩, ⟨rCOX_ERR, 4, 4, .w1c, 0x0⟩, ⟨rCOX_ERRINFO, 4, 4, .ro, 0x0⟩, ⟨rCOX_GRANTCNT, 8, 8, .ro, 0x0⟩,
   ⟨rCOX_SKIPCNT, 8, 8, .ro, 0x0⟩, ⟨rCOX_REGRANTCNT, 4, 4, .rc, 0x0⟩, ⟨rCOX_MCDISS, 4, 4, .rc, 0x0⟩, ⟨rCOX_WCNT, 16, 1024, .ro, 0x0⟩]

/-- Register map of the MEM block. -/
def memRows : List RegRow :=
  [⟨rMEM_CFG, 4, 4, .ro, 0x0⟩, ⟨rMEM_WIPESTAT, 4, 4, .ro, 0x0⟩, ⟨rMEM_ZEROPEND, 4, 4, .ro, 0x0⟩, ⟨rMEM_ZEROSHARE, 4, 4, .rw, 0x0⟩,
   ⟨rMEM_SCRUBCFG, 4, 4, .rw, 0x3e8⟩, ⟨rMEM_CECNT_SRAM, 4, 4, .rc, 0x0⟩, ⟨rMEM_CECNT_DRAM, 4, 4, .rc, 0x0⟩, ⟨rMEM_UECNT, 4, 4, .rc, 0x0⟩,
   ⟨rMEM_UEADDR, 8, 8, .ro, 0x0⟩, ⟨rMEM_UEINFO, 4, 4, .ro, 0x0⟩, ⟨rMEM_RETIRED, 4, 4, .ro, 0x0⟩, ⟨rMEM_RETPEND, 4, 4, .ro, 0x0⟩,
   ⟨rMEM_KEYSTAT, 4, 4, .ro, 0x0⟩, ⟨rMEM_SOWN, 1, 240, .ro, 0x0⟩, ⟨rMEM_LOWN, 1, 2048, .ro, 0x0⟩]

/-- Register map of the STEM block. -/
def stemRows : List RegRow :=
  [⟨rSTEM_SLOTS, 4, 4, .ro, 0x0⟩, ⟨rSTEM_CURSOR, 8, 32, .ro, 0x0⟩, ⟨rSTEM_ERR, 4, 4, .w1c, 0x0⟩, ⟨rSTEM_ERRINFO, 4, 4, .ro, 0x0⟩,
   ⟨rSTEM_ROWCNT, 8, 8, .ro, 0x0⟩, ⟨rSTEM_BUSY, 8, 8, .ro, 0x0⟩, ⟨rSTEM_WAITCNT, 4, 4, .rc, 0x0⟩]

/-- Register map of the KVM block. -/
def kvmRows : List RegRow :=
  [⟨rKVM_CFG, 4, 4, .ro, 0x400⟩, ⟨rKVM_TABUSE, 4, 4, .ro, 0x0⟩, ⟨rKVM_FREES, 4, 4, .ro, 0x0⟩, ⟨rKVM_FREEL, 4, 4, .ro, 0x0⟩,
   ⟨rKVM_DEFER, 4, 4, .ro, 0x0⟩, ⟨rKVM_HOLD, 4, 4, .ro, 0x0⟩, ⟨rKVM_ERR, 4, 4, .w1c, 0x0⟩, ⟨rKVM_ERRINFO, 4, 4, .ro, 0x0⟩,
   ⟨rKVM_SPILLCNT, 4, 4, .rc, 0x0⟩, ⟨rKVM_NOPAGECNT, 4, 4, .rc, 0x0⟩, ⟨rKVM_EDITCNT, 8, 8, .ro, 0x0⟩, ⟨rKVM_SUMCNT, 8, 8, .ro, 0x0⟩,
   ⟨rKVM_FETCHCNT, 8, 8, .ro, 0x0⟩, ⟨rKVM_SELBUSY, 8, 32, .ro, 0x0⟩]

/-- Register map of the EMB block. -/
def embRows : List RegRow :=
  [⟨rEMB_RCPART, 8, 8, .rw, 0x0⟩, ⟨rEMB_HITCNT, 8, 8, .ro, 0x0⟩, ⟨rEMB_MISSCNT, 8, 8, .ro, 0x0⟩, ⟨rEMB_ROWCNT, 8, 8, .ro, 0x0⟩,
   ⟨rEMB_IDXCNT, 4, 4, .rc, 0x0⟩, ⟨rEMB_ERR, 4, 4, .w1c, 0x0⟩, ⟨rEMB_ERRINFO, 4, 4, .ro, 0x0⟩, ⟨rEXD_STAT, 4, 4, .ro, 0x0⟩,
   ⟨rEXD_ROUND, 4, 4, .ro, 0x0⟩, ⟨rEXD_SENTCNT, 8, 8, .ro, 0x0⟩, ⟨rEXD_DROPCNT, 4, 4, .rc, 0x0⟩, ⟨rEXD_ERR, 4, 4, .w1c, 0x0⟩,
   ⟨rEXD_ERRINFO, 4, 4, .ro, 0x0⟩]

/-- Register map of the FAB block. -/
def fabRows : List RegRow :=
  [⟨rFAB_ID, 4, 4, .ro, 0x0⟩, ⟨rFAB_REF, 4, 4, .ro, 0x0⟩, ⟨rFAB_RTIMEOUT, 4, 4, .rw, 0x7d0⟩, ⟨rFAB_PORT, 8, 128, .ro, 0xf000⟩,
   ⟨rFAB_LASER, 4, 16, .ro, 0x0⟩, ⟨rFAB_TXBYTES, 8, 8, .ro, 0x0⟩, ⟨rFAB_RXBYTES, 8, 8, .ro, 0x0⟩, ⟨rFAB_FWDBYTES, 8, 8, .ro, 0x0⟩,
   ⟨rFAB_REPLAYCNT, 4, 4, .rc, 0x0⟩, ⟨rFAB_FECUNC, 4, 4, .rc, 0x0⟩, ⟨rFAB_ISOCNT, 4, 4, .rc, 0x0⟩, ⟨rFAB_ERR, 4, 4, .w1c, 0x0⟩,
   ⟨rFAB_ERRINFO, 4, 4, .ro, 0x0⟩, ⟨rRED_RELCNT, 8, 8, .ro, 0x0⟩, ⟨rRED_STALLCNT, 4, 4, .rc, 0x0⟩, ⟨rRED_NONFIN, 4, 4, .rc, 0x0⟩]

/-- Register map of the ING block. -/
def ingRows : List RegRow :=
  [⟨rING_CTXBUSY, 8, 8, .ro, 0x0⟩, ⟨rING_SAMPCNT, 8, 8, .ro, 0x0⟩, ⟨rING_CONCCNT, 4, 4, .rc, 0x0⟩, ⟨rING_PADCNT, 4, 4, .rc, 0x0⟩,
   ⟨rING_BUDGETCNT, 4, 4, .rc, 0x0⟩, ⟨rING_RESYNCCNT, 4, 4, .rc, 0x0⟩, ⟨rING_PARSEBYTES, 8, 8, .ro, 0x0⟩, ⟨rING_TOKCNT, 8, 8, .ro, 0x0⟩,
   ⟨rING_TABLES, 8, 8, .ro, 0x0⟩, ⟨rING_ERR, 4, 4, .w1c, 0x0⟩, ⟨rING_ERRINFO, 4, 4, .ro, 0x0⟩, ⟨rING_CURSOR, 8, 2048, .ro, 0x0⟩]

/-- Register map of the VID block. -/
def vidRows : List RegRow :=
  [⟨rVID_CFG, 4, 4, .rw, 0x0⟩, ⟨rVID_PIPE, 4, 72, .ro, 0x0⟩, ⟨rVID_SESSUSE, 8, 8, .ro, 0x0⟩, ⟨rVID_ESESSUSE, 4, 4, .ro, 0x0⟩,
   ⟨rVID_FRAMECNT, 8, 8, .ro, 0x0⟩, ⟨rVID_CONCCNT, 4, 4, .rc, 0x0⟩, ⟨rVID_WDOGCNT, 4, 4, .rc, 0x0⟩, ⟨rVID_BOUNDCNT, 4, 4, .rc, 0x0⟩,
   ⟨rVID_ERR, 4, 4, .w1c, 0x0⟩, ⟨rVID_ERRINFO, 4, 4, .ro, 0x0⟩, ⟨rVID_BUSY, 8, 8, .ro, 0x0⟩]

/-- Register map of the QUE block. -/
def queRows : List RegRow :=
  [⟨rq_QBASE, 8, 8, .ro, 0x0⟩, ⟨rq_QCFG, 4, 4, .ro, 0x0⟩, ⟨rq_QCTL, 4, 4, .w1s, 0x0⟩, ⟨rq_WP, 4, 4, .ro, 0x0⟩,
   ⟨rq_RP, 4, 4, .ro, 0x0⟩, ⟨rq_WPX, 4, 4, .ro, 0xffffffff⟩, ⟨rq_RPX, 4, 4, .ro, 0xffffffff⟩, ⟨rq_LOST, 4, 4, .ro, 0x0⟩,
   ⟨rq_GAPS, 4, 4, .ro, 0x0⟩, ⟨rq_RESETS, 4, 4, .ro, 0x0⟩, ⟨rq_DROPS, 4, 4, .ro, 0x0⟩, ⟨rq_FLUSHES, 4, 4, .ro, 0x0⟩,
   ⟨rq_PENDDROP, 4, 4, .ro, 0x0⟩, ⟨rq_CRED, 8, 8, .ro, 0x0⟩]

/-- Register map of the HIF block. -/
def hifRows : List RegRow :=
  [⟨rHIF_LINK, 4, 4, .ro, 0x0⟩, ⟨rHIF_NUMVF, 4, 4, .ro, 0x0⟩, ⟨rHIF_ERR, 4, 4, .w1c, 0x0⟩, ⟨rHIF_ERRINFO, 4, 4, .ro, 0x0⟩,
   ⟨rHIF_CMDCNT, 8, 8, .ro, 0x0⟩, ⟨rHIF_DMARD, 8, 8, .ro, 0x0⟩, ⟨rHIF_DMAWR, 8, 8, .ro, 0x0⟩, ⟨rHIF_REEXEC, 4, 4, .rc, 0x0⟩,
   ⟨rHIF_IDESTAT, 4, 4, .ro, 0x0⟩, ⟨rHIF_TDISTAT, 4, 4, .ro, 0x0⟩, ⟨rHIF_BADTLP, 4, 4, .rc, 0x0⟩]

/-- Register map of the IDN block. -/
def idnRows : List RegRow :=
  [⟨rIDN_LCSTATE, 4, 4, .ro, 0x0⟩, ⟨rIDN_SERIAL, 8, 8, .ro, 0x0⟩, ⟨rIDN_FWVER, 4, 4, .ro, 0x0⟩, ⟨rIDN_NONCE, 32, 32, .ro, 0x0⟩,
   ⟨rIDN_MEAS, 32, 256, .ro, 0x0⟩, ⟨rIDN_SESS, 4, 4, .ro, 0x0⟩, ⟨rIDN_ERR, 4, 4, .w1c, 0x0⟩, ⟨rIDN_ERRINFO, 4, 4, .ro, 0x0⟩,
   ⟨rIDN_SIGCNT, 8, 8, .ro, 0x0⟩]

/-- Register map of the PWR block. -/
def pwrRows : List RegRow :=
  [⟨rPWR_STATUS, 4, 4, .ro, 0x0⟩, ⟨rPWR_VIN, 4, 4, .ro, 0x0⟩, ⟨rPWR_IIN, 4, 4, .ro, 0x0⟩, ⟨rPWR_PIN, 4, 4, .ro, 0x0⟩,
   ⟨rPWR_BRACECNT, 4, 4, .rc, 0x0⟩, ⟨rPWR_LASTBRACE, 8, 8, .ro, 0x0⟩, ⟨rPWR_LASTWAKE, 4, 4, .ro, 0x0⟩, ⟨rPWR_WAKESTROKE, 8, 8, .ro, 0x0⟩,
   ⟨rPWR_WAKEADDR, 4, 4, .rw, 0x0⟩, ⟨rPWR_WTIMER, 4, 4, .rw, 0x0⟩, ⟨rPWR_AUTOIDLE, 4, 4, .rw, 0x10⟩, ⟨rPWR_CHGCNT, 8, 8, .ro, 0x0⟩,
   ⟨rPWR_MODE, 4, 32, .ro, 0x0⟩, ⟨rPWR_STATE, 4, 32, .ro, 0x0⟩, ⟨rPWR_TJ, 8, 8, .ro, 0x0⟩, ⟨rPWR_COOL, 4, 4, .ro, 0x0⟩,
   ⟨rPWR_THMSTAT, 4, 4, .ro, 0x0⟩, ⟨rPWR_THMCNT, 4, 4, .rc, 0x0⟩]

/-- Register map of the BOOT block. -/
def bootRows : List RegRow :=
  [⟨rBOOT_STATUS, 4, 4, .ro, 0x0⟩, ⟨rBOOT_COUNT, 4, 4, .ro, 0x0⟩, ⟨rBOOT_LEVEL, 8, 8, .ro, 0x0⟩, ⟨rBOOT_RETRY, 4, 4, .w1s, 0x0⟩,
   ⟨rBOOT_OPT, 4, 4, .rw, 0x0⟩, ⟨rBOOT_FENCED, 8, 8, .ro, 0x0⟩, ⟨rBOOT_SPARES, 4, 4, .ro, 0x0⟩, ⟨rBOOT_REPPEND, 4, 4, .ro, 0x0⟩,
   ⟨rBOOT_REPUSED, 4, 4, .ro, 0x0⟩, ⟨rBOOT_WITHDRAWN, 4, 4, .ro, 0x0⟩, ⟨rBOOT_SECVER, 4, 4, .ro, 0x0⟩, ⟨rBOOT_RECADDR, 8, 8, .rw, 0x0⟩,
   ⟨rBOOT_RECLEN, 4, 4, .rw, 0x0⟩, ⟨rBOOT_RECCTL, 4, 4, .rw, 0x0⟩, ⟨rBOOT_FWSTAT, 4, 4, .ro, 0x0⟩]

/-- Register map of the TEL block. -/
def telRows : List RegRow :=
  [⟨rTEL_TIME, 8, 8, .ro, 0x0⟩, ⟨rTEL_LOGRP, 4, 4, .rw, 0x0⟩, ⟨rTEL_LOGLOST, 4, 4, .ro, 0x0⟩, ⟨rTEL_CKPEND, 4, 4, .ro, 0x0⟩,
   ⟨rTEL_HASHBYTES, 8, 8, .ro, 0x0⟩, ⟨rTEL_CKERR, 4, 4, .w1c, 0x0⟩, ⟨rTEL_LOGENT, 64, 64, .ro, 0x0⟩]

/-- Register maps of the blocks that stand once. -/
def blockRows : List RegRow :=
  strkRows ++ memRows ++ stemRows ++ kvmRows ++ embRows ++ fabRows ++ ingRows ++ vidRows ++ hifRows ++ idnRows ++ pwrRows ++ bootRows ++ telRows

/-- The row that an offset lies in. -/
def rowAt (rows : List RegRow) (off : Nat) : Option RegRow :=
  rows.find? fun r => decide (r.off ≤ off) && decide (off < r.off + r.span)

/-- Page of a seat's registers: physical seat `u` = 16 × crew + seat (R364). -/
def seatPage (u : Nat) : Nat := 0x1000000 + 0x1000 * u

/-- Page of a crew's registers (R364). -/
def coxPage (c : Nat) : Nat := 0x800000 + 0x1000 * c

/-- Page of a queue descriptor (R364). -/
def quePage (n : Nat) : Nat := 0x100000 + 64 * n

end Sys2Proof.Machine
end

