-- ==== Sys2Proof/Machine/State.lean ====
section
/-! DEFINITION. The state of the block as plain data: every register, buffer, queue, counter and mode that the spec
gives the Ronkor 7208 (INVENTORY.md lists them), the reasons a command can stop, and the state after reset.
Plain registers stand in the register file `Dev.regs`, keyed by their byte offset in PF BAR0 (R364); what has
structure of its own stands in the records below, and the registers that show it are computed when read. -/
namespace Sys2Proof.Machine

/-- No command of this model faults: the spec gives the module no processor fault, and every failure it
describes is a status, event or register (a next state). The constructor is raised by nobody. Safe. -/
inductive Fault where
  | none
  deriving DecidableEq, Repr

/-- Why a command has no meaning. -/
inductive Refusal where
  /-- raised by Dispatch for a command that has no meaning yet. Safe. -/
  | notModelled (mnemonic : String)
  /-- raised by a meaning whose operand names a unit that the module does not have (physical seat 9–15, pipe 20–31,
  domain 113–127, optical lane 9–15): an ill-formed command. Safe. -/
  | noSuchUnit
  /-- raised by a seat or lane meaning whose word spells another defined command. Safe. -/
  | otherCommand
  deriving DecidableEq, Repr

/-- A store of the command in execution, to the model's one byte memory. -/
inductive Wr where
  | bytes (base : Nat) (data : Bytes)
  | fill (base : Nat) (len : Nat) (b : Byte)
  | copy (src : Nat) (dst : Nat) (len : Nat)
  deriving DecidableEq, Repr

/-- Running values of a conversion unit (R64, R65). -/
structure Running where
  amax : W32
  ovf : Nat
  unf : Nat
  nan : Nat
  inf : Nat
  elems : Nat
  deriving DecidableEq, Repr

/-- Status word of an accumulator tile (R91), but for MAPPED and OWNER, which SEAT_ACCCFG holds. -/
structure TileStat where
  kind : BitVec 2
  landed : Bool
  ovf : Bool
  accnf : Bool
  shift : BitVec 2
  rerun : Bool
  kblk : W16
  fmta : BitVec 4
  fmtb : BitVec 4
  split : BitVec 2
  /-- an MMA has been issued on the tile since its allocation and its last LOADACC (R88, CHAIN; log 26) -/
  mma : Bool
  deriving DecidableEq, Repr

/-- A scale slot (R95). `recVa` is the record's VA, 0 for none. -/
structure ScaleSlot where
  scale : W32
  rscale : W32
  tid : W32
  fmt : BitVec 4
  recVa : W64
  run : Running
  deriving DecidableEq, Repr

/-- A credit word (R32). AVAIL and LIMIT are 17 bits wide. -/
structure Credit where
  avail : BitVec 17
  limit : BitVec 17
  gnt : BitVec 4
  unit : Byte
  waitp : Bool
  waitc : Bool
  err : Bool
  deriving DecidableEq, Repr

/-- A grant of a tile index (R146–R149). -/
structure Grant where
  counter : Nat
  jobset : Nat
  index : Nat
  epoch : Nat
  i0 : Nat
  i1 : Nat
  i2 : Nat
  /-- a group member whose index is skipped: it takes the shared blocks only (R152) -/
  null : Bool
  /-- program position of the grant's first command -/
  pos0 : Nat
  /-- blocks landed per operand stream S0–S3: the tokens granted -/
  landed : Tbl Nat
  deriving DecidableEq, Repr

/-- A walk in progress in a context (R222–R226). -/
structure WalkCur where
  walk : Nat
  /-- blocks delivered -/
  next : Nat
  /-- the walk list -/
  pages : List Nat
  deriving DecidableEq, Repr

/-- A task context of a seat (R99). -/
structure Ctx where
  /-- command queue, class U, 32 entries -/
  queue : List SeatWord
  /-- commands of the grants that the cox has not pushed yet (R144) -/
  todo : List SeatWord
  /-- program position: seat commands issued since the context was loaded -/
  pos : Nat
  slots : Tbl ScaleSlot
  vrows : Nat
  vcols : Nat
  rstride : W32
  base : W64
  /-- grants held: the one being computed, and the one being filled -/
  comp : Option Grant
  fill : Option Grant
  walk : Option WalkCur
  half : Bool
  waitTok : Bool
  waitCred : Bool
  waitSb : Bool
  failed : Bool
  /-- key of the step in `Dev.steps` -/
  step : Option Nat
  deriving DecidableEq, Repr

/-- An MMA or LOADACC issued and not yet wholly landed (R82). -/
structure Flight where
  ctx : BitVec 2
  acc : BitVec 3
  word : SeatWord
  half : Bool
  blk : Nat
  nblk : Nat
  load : Bool
  deriving DecidableEq, Repr

/-- A DRAIN waiting in the epilogue queue (R84, R86). -/
structure Drain where
  ctx : BitVec 2
  word : SeatWord
  half : Bool
  vrows : Nat
  vcols : Nat
  rstride : W32
  base : W64
  deriving DecidableEq, Repr

/-- An open integer k-loop (R96): its commands, oldest first, and the half they read. -/
structure KLoop where
  cmds : List SeatWord
  half : Bool
  ctx : BitVec 2
  /-- elements saturated in the third pass (R97) -/
  sat : List Nat
  deriving DecidableEq, Repr

/-- A lane core (R108, R120). -/
structure LaneCore where
  /-- g1–g31; g0 reads 0 -/
  g : Tbl W32
  pc : Nat
  lstat : BitVec 6
  lidxLo : W32
  lidxHi : W32
  cycle : W32
  /-- collectives passed since kernel start, and the one waited at (R121) -/
  coll : Nat
  wait : Option LaneWord
  halted : Bool
  /-- per-slot running values (R116) -/
  runs : Tbl Running
  deriving DecidableEq, Repr

/-- The shared special registers of a seat's lane cores (R120). -/
structure LaneShared where
  vl : W32
  lfill : W32
  wbase : W32
  wpitch : W32
  wdim : W32
  wgeom : W32
  wfmt : W32
  wpad : W32
  deriving DecidableEq, Repr

/-- A seat (R76). Its byte storage is in `Dev.mem`; its counters and ERR registers in `Dev.regs`. -/
structure Seat where
  gnt : Gnt
  valid : Bool
  fenced : Bool
  wiping : Bool
  /-- logical number: 0–7 in use, 8 a reserve seat not brought in (R104) -/
  logical : BitVec 4
  acccfg : W32
  tregcfg : W64
  scrcfg : W64
  tiles : Tbl TileStat
  ctxs : Tbl Ctx
  running : BitVec 2
  flights : List Flight
  drains : List Drain
  kloops : Tbl KLoop
  /-- lane cores' kernel: running, its context, its masks (R87, R109) -/
  krun : Bool
  kctx : BitVec 2
  kword : SeatWord
  lanes : Tbl LaneCore
  shared : LaneShared
  /-- the copy the lanes other than 0 see until the next BAR -/
  seen : LaneShared
  /-- LANE_SPARE (R130) -/
  spare : W32
  /-- OR of LSTAT at the last HALT -/
  haltStat : BitVec 6
  deriving DecidableEq, Repr

/-- A work counter (R146, R156), with its pending re-grants and the grants not yet ended. -/
structure WCnt where
  next : Nat
  fin : Nat
  epoch : Nat
  jobset : Nat
  slot : BitVec 2
  active : Bool
  die : Bool
  /-- indices waiting for a re-grant, oldest first -/
  regrant : List Nat
  /-- re-grant records: index and current epoch (R149) -/
  recs : Tbl Nat
  /-- indices granted and not yet ended -/
  out : List Nat
  /-- complete under R137 -/
  done : Bool
  deriving DecidableEq, Repr

/-- A halo band (R192): its convolution descriptor, producer and consumer (crew, or 64 + stem descriptor), first row,
rows, rows published. -/
structure Band where
  conv : Nat
  prod : Nat
  cons : Nat
  first : Nat
  len : Nat
  avail : Nat
  deriving DecidableEq, Repr

/-- A crew: cox, weight cache, save engine (R146–R156, R170, R397). -/
structure Cox where
  gnt : Gnt
  valid : Bool
  fenced : Bool
  saving : Bool
  restoring : Bool
  wiping : Bool
  cacheGnt : Gnt
  cacheValid : Bool
  /-- lines held, by 16 × set + way: physical line address and data; next way of each set (R169) -/
  lines : Tbl (Nat × Bytes)
  rr : Tbl Nat
  /-- step key in each context slot, with what COX_SLOTS shows of it -/
  slots : Tbl Nat
  counters : Tbl WCnt
  deriving DecidableEq, Repr

/-- What the cox reads at admission (R131–R135, R138): the structures as bytes. -/
structure Prog where
  hdr : Bytes
  jobsets : List Bytes
  tmpls : List Bytes
  streams : List Bytes
  scales : List W64
  lens : List W32
  bind : List W32
  ctxres : Bytes
  access : List (W64 × Nat × Bool)
  convs : List Bytes
  stems : List Bytes
  walks : List Bytes
  embs : List Bytes
  disp : List Bytes
  copies : List Bytes
  buckets : List Bytes
  ingests : List Bytes
  group : Option Nat
  /-- captured GEN and LEN of each walked table (R211): walk index, GEN, LEN -/
  capt : List (Nat × W32 × W32)
  /-- pointer-list entries read (R132): key 2^32 × job set + i2 -/
  plist : Tbl Bytes
  /-- images of the scale records named, as they stood at admission, by VA (R63) -/
  recs0 : List (Nat × Bytes)
  deriving DecidableEq, Repr

/-- Where a step is in its life (R377 STEPSTAT: 0 queued, 1 held, 2 admitted, 3 suspended, 4 ended). -/
inductive StepSt where
  | queued | admitted | suspended | ended
  deriving DecidableEq, Repr

/-- Flags of R379. -/
structure StepFlags where
  late : Bool
  nonfinite : Bool
  ovf : Bool
  accnf : Bool
  embidx : Bool
  expdrop : Bool
  stall : Bool
  overrun : Bool
  lstat : BitVec 6
  qstat : Bool
  preempted : Bool
  deriving DecidableEq, Repr

/-- The bins of the phase clock (R474). -/
structure Bins where
  fwd : W64
  bwd : W64
  opt : W64
  other : W64
  ingw : W64
  fabw : W64
  red : W64
  deriving DecidableEq, Repr

/-- An item that has been issued and not ended: its kind (R29's table order), unit code, context or job within the
unit, and boundaries met since its start (R27). -/
structure Item where
  kind : Nat
  unitCode : W16
  sub : Nat
  seen : Nat
  deriving DecidableEq, Repr

/-- A bucket of a step (R274–R276). -/
structure Bucket where
  desc : Bytes
  tag : W16
  full : Bool
  chunksDone : List Nat
  /-- partial sums per chunk and level: key 8 × chunk + stage -/
  parts : Tbl Bytes
  nan : W32
  inf : W32
  ovf : W32
  firstNan : W16
  firstInf : W16
  stalls : Nat
  landed : Bool
  released : Bool
  deriving DecidableEq, Repr

/-- An embedding job in progress (R234–R239). -/
structure EmbJob where
  started : Bool
  cursor : Nat
  grouping : Bool
  /-- update: distinct rows with the FP32 sums of their gradients, ascending -/
  rows : List (Nat × List Nat)
  landed : Bool
  deriving DecidableEq, Repr

/-- A dispatch round in progress (R244). -/
structure Round where
  phase : Nat
  /-- fabric ranks of the members, and the expert map as read when the counts were taken -/
  ranks : List Nat
  emap : List W32
  /-- count vectors received, by source position -/
  counts : Tbl (List W32)
  /-- offsets returned, by holder position -/
  offs : Tbl (List W32)
  /-- sends landed, by source position; returns landed, by holder position -/
  sends : List Nat
  returns : List Nat
  /-- where this module's kept choices went: token, choice, member, expert slot, queue slot -/
  placed : List (Nat × Nat × Nat × Nat × Nat)
  /-- where the slots of this module's experts came from: local expert, slot, source position, token, choice -/
  origin : List (Nat × Nat × Nat × Nat × Nat)
  /-- result rows returned: key 8 × token + choice -/
  results : Tbl Bytes
  sent : Nat
  dropped : Nat
  lost : Nat
  deriving DecidableEq, Repr

/-- A copy collective in progress (R271). -/
structure CopyRun where
  /-- fabric ranks of the members (R270) -/
  ranks : List Nat
  started : Bool
  dones : List Nat
  complete : Bool
  deriving DecidableEq, Repr

/-- The final outcome of a sample's slot (R314–R316). -/
structure FinalSlot where
  flags : Nat
  reason : Nat
  outv : Nat
  action : Nat
  off : Nat
  ftag : Nat
  out : Nat
  deriving DecidableEq, Repr

/-- An ingest descriptor in progress (R284–R316). -/
structure IngRun where
  first : W64
  /-- per shard: parse position, and records found; 2^64 or more once parsing has ended -/
  parse : Tbl (Nat × Nat)
  /-- records found: key 2^32 × shard + index; offset and length of the body, and the reason of its damage or 0 -/
  recs : Tbl (Nat × Nat × Nat)
  /-- final slots: key slot number over all batches -/
  finals : Tbl FinalSlot
  batches : List Nat
  complete : Bool
  deriving DecidableEq, Repr

/-- A step (R28, R378, R390). -/
structure Step where
  g : Gnt
  inst : W32
  adm : W64
  fn : Fn
  tag : W32
  flags8 : Byte
  queueNo : BitVec 2
  phase : BitVec 2
  p0 : W64
  p1 : W64
  p2 : W64
  p3 : W64
  st : StepSt
  hold : Byte
  heldNoCrew : Nat
  elapsed : Nat
  strokes : Nat
  fl : StepFlags
  prog : Option Prog
  /-- resume set: the boundary at which it was suspended, and its set's number there -/
  rset : Option (W64 × Nat)
  /-- suspended at action 4 of the boundary just passed: its next stroke does not count (R28) -/
  fresh : Bool
  crews : List Nat
  items : List Item
  bins : Bins
  ecyc : Nat
  icyc : Nat
  alone : Bool
  /-- reason code with which the step fails, and whether it is cancelled instead -/
  failing : Option (Byte × Bool)
  /-- chosen for a forced preemption, or for a preemption, at the next boundary's action 4 (R396, R400) -/
  kill : Bool
  evict : Bool
  /-- job sets complete on every crew -/
  jsDone : List Nat
  buckets : List Bucket
  embs : Tbl EmbJob
  round : Option Round
  copies : Tbl CopyRun
  ings : Tbl IngRun
  /-- summary items done: key 2^22 × table + entry -/
  sums : List Nat
  /-- staging frames (R225); by their number: walk, group, page and table asked for; and the numbers landed -/
  staging : List Nat
  asked : Tbl (Nat × Nat × Nat × Nat)
  landed : List Nat
  /-- selection lists written: 2^32 × walk + query block (R219) -/
  sels : List Nat
  bands : List Band
  recsWritten : List W64
  endStatus : Byte
  endReason : Byte
  deriving DecidableEq, Repr

/-- What the private part of a crew block stands for (R397; log 62): the crew, the stroke of the save, the structures of
its cox and seats, and the steps saved with it, by their keys then. -/
structure Saved where
  crew : Nat
  stroke : W64
  cox : Cox
  /-- seats, by seat number -/
  seats : Tbl Seat
  steps : Tbl Step
  deriving DecidableEq, Repr

/-- A queue descriptor (R346), without the registers computed from it, and the entries of a queue held in
module storage. -/
structure Queue where
  qbase : W64
  cls : BitVec 2
  gnt : Gnt
  esz : BitVec 4
  nlog : BitVec 5
  int : Bool
  qid : BitVec 12
  flush : Bool
  enable : Bool
  fgen : Byte
  gapidx : Byte
  wp : W32
  rp : W32
  wpx : W32
  rpx : W32
  lost : W32
  gaps : W32
  resets : W32
  drops : W32
  flushes : W32
  penddrop : W32
  cred : Credit
  /-- entries ever written (R355) -/
  written : Nat
  /-- entries held in module storage or, for a memory queue, a copy of none; key is the slot -/
  ents : Tbl Bytes
  /-- class D: a DROPREST still discards the entries of this packet as they arrive (R356) -/
  dropping : Bool
  /-- class L: stroke count at the first drop not yet reported -/
  gapStroke : W64
  /-- boundaries at which R348 failed, for the three times in 1,024 strokes of R351 -/
  failsAt : List Nat
  /-- the descriptor at the latest snapshot, as its 64 bytes (R43, R350) -/
  snapImg : Bytes
  deriving DecidableEq, Repr

/-- A status reply (R371), without PH. -/
structure Reply where
  tag : W32
  status : Byte
  reason : Byte
  opcode : Byte
  res0 : W64
  res1 : W64
  stroke : W64
  deriving DecidableEq, Repr

/-- A command in execution in a ring (R373): its opcode and packet, chunks ended, cancellations of the present chunk,
bytes moved, and whether it waits for its boundary. -/
structure Cur where
  op : Byte
  cmd : HostCmd
  off : Nat
  tries : Nat
  started : Bool
  deriving DecidableEq, Repr

/-- A function page (R366) and the state behind it. -/
structure Func where
  openF : Bool
  feat : BitVec 128
  sqbase : W64
  cqbase : W64
  nlog : BitVec 5
  enable : Bool
  intcfg : W32
  err : BitVec 4
  /-- completion credits taken at fetch and not yet used (R368) -/
  cqHeld : Nat
  cur : Option Cur
  /-- replies not yet signalled (R381), and whether HOLDOFF runs -/
  unsig : Nat
  holdRun : Bool
  /-- MSI-X table: key vector; four words of 32 bits each (address low, address high, data, control) -/
  msix : Tbl (W64 × W32 × Bool)
  pba : BitVec 4
  d3 : Bool
  tdi : BitVec 2
  ide : Bool
  ideKeys : Bool
  /-- secure session: draw that keys it, and whether FINISH has come -/
  sess : Option (Nat × Bool)
  kem : Option Nat
  /-- the last status reply composed (model's own, log 6) -/
  reply : Option Reply
  /-- the last secure message response (model's own, log 6) -/
  resp : Option Bytes
  deriving DecidableEq, Repr

/-- A command whose reply or whole effect waits for a later event (R373, R376). -/
structure Waiting where
  op : Byte
  cmd : HostCmd
  /-- gauntlet concerned -/
  g : Gnt
  /-- a number of the command's own (step key, table, session, …) -/
  key : Nat
  deriving DecidableEq, Repr

/-- A tenancy key generation (R264, R418). -/
structure TKey where
  gen : BitVec 4
  key : Bytes
  ctr : W64
  deriving DecidableEq, Repr

/-- A reduction group (R273, R274). -/
structure RGroup where
  members : List W32
  work : W64
  limit : Nat
  tcnt : W16
  joins : List Nat
  /-- contributions and results (true) of buckets whose step is not admitted yet: sender and message -/
  early : List (Mid × Bool × RedMsg)
  deriving DecidableEq, Repr

/-- The accounting counters of the interval (R404). -/
structure Acct where
  seatcyc : W64
  stemcyc : W64
  embcyc : W64
  exdcyc : W64
  deccyc : W64
  vidcyc : W64
  hostb : W64
  dramb : W64
  fabb : W64
  qwait : W32
  suspwait : W32
  preempts : W16
  overruns : W16
  cancels : W16
  cerr : Bool
  deriving DecidableEq, Repr

/-- A gauntlet (R386–R389). -/
structure Gaunt where
  present : Bool
  inst : W32
  seed : W64
  saveva : W64
  savesz : W64
  share : W16
  crewmax : BitVec 7
  noauto : Bool
  pwait : Byte
  msram : Byte
  vt : W64
  /-- highest admission number given -/
  adm : W64
  queues : Tbl (List Nat)
  cursors : Tbl W64
  peers : Tbl W32
  ftag : W16
  keyCur : Option TKey
  keyPrev : Option TKey
  keyStaged : Option TKey
  /-- generation used for sending: none before the first TK_ACTIVATE (R419) -/
  sendGen : Option (BitVec 4)
  /-- a stage waits for its TK_ACTIVATE; the generation that sends from the next boundary (R418, R419) -/
  actPend : Bool
  actAt : Option (BitVec 4)
  groups : Tbl RGroup
  /-- JOIN messages of groups not created yet: group, sender, digest -/
  earlyJ : List (Nat × Mid × Bytes)
  /-- expert messages that arrived before the holder's step: sender, type, message -/
  earlyX : List (Mid × Nat × Bytes)
  toks : Tbl Bytes
  /-- KV pool: tier-2 extents (60 × die + extent) and tier-3 extents -/
  poolS : List Nat
  poolL : List Nat
  /-- pool frames in use: key frame number (4,096 × extent + frame; 16,384 × extent + frame) -/
  framesS : List Nat
  framesL : List Nat
  calib : List (W64 × Nat × List W32 × Nat)
  /-- ended steps kept for STEPSTAT: admission number, SLOWDOWN word -/
  kept : List (W64 × W64)
  telCfg : Byte
  strokeAcc : Bins
  acct : Acct
  /-- seat-cycles and IOD cycles that the virtual time has been charged for (R394) -/
  charged : Nat × Nat
  /-- admission number and STEPNUM of the completed step with the highest number (R467) -/
  lastStep : W64 × W64
  /-- a step with a write range has completed, or a host command has written, since the last boundary (R170); the same but
  for what the embedding engine writes (R240) -/
  wrote : Bool
  wroteRow : Bool
  /-- step-end entries that wait for boundary action 8 (R476) -/
  telPend : List Bytes
  acctBorn : Bool
  acctDied : Bool
  m7 : BitVec 256
  /-- items that extend M7 at the next boundary (R411) -/
  m7due : List Bytes
  /-- stroke entries were turned on, or EVERY changed, since the last boundary (R475) -/
  telFresh : Bool
  /-- teardown: 0 none; the order of R407 reached -/
  tearing : Nat
  /-- SRAM wipes that teardown waits for: (0, stacked extent), (1, crew), (2, 0) for the media partition (R407) -/
  wipes : List (Nat × Nat)
  /-- changes of GSET waiting for their boundary -/
  gset : List HostCmd
  /-- a checkpoint copies the crew blocks: suspended steps stay suspended (R469) -/
  ckpt : Bool
  /-- a checkpoint or a restore holds admission (R45, R472) -/
  drainHold : Bool
  /-- members whose part of the replica check has arrived, by position (R473) -/
  ckDones : List Nat
  /-- row-cache partition in effect, in units of 4 MiB (R250) -/
  rcpart : Nat
  deriving DecidableEq, Repr

/-- A KV table root (R207) and the page entries of its two copies. -/
structure KvRoot where
  gnt : Gnt
  hg : Nat
  fmt : BitVec 4
  dimc : BitVec 2
  gtag : Byte
  len : W32
  cap : W32
  segbase : W32
  gen : W32
  tab0 : W64
  tab1 : W64
  sum : W64
  pend : W32
  /-- steps walking GEN and GEN − 1 -/
  live : Nat
  livePrev : Nat
  /-- frames waiting for GEN − 1 to retire -/
  defer : List (Bool × Nat)
  /-- edits queued: kind (0 truncate, 1 pin, 2 unpin, 3 bring back, 4 spill), value, new frame -/
  edits : List (Nat × W64 × Nat)
  /-- stroke count (low 32 bits) at which each page entry was last read -/
  used : Tbl W32
  /-- spills whose copy has not landed: entry, target frame -/
  spills : List (Nat × Nat)
  deriving DecidableEq, Repr

/-- A decode context (R308). -/
structure DecCtx where
  busy : Bool
  step : Nat
  desc : Nat
  slot : Nat
  sample : W64
  g : Gnt
  /-- boundaries met since the first item, and items done -/
  seen : Nat
  item : Nat
  /-- outcome so far: reason (0 intact), pad -/
  reason : Nat
  pad : Bool
  outv : Nat
  trunc : Bool
  lens : List W32
  /-- field tag and output of the first damage -/
  ftag : Nat
  outNo : Nat
  deriving DecidableEq, Repr

/-- A record of a session's picture pool (R328). -/
structure PoolRec where
  state : Byte
  mark : Byte
  ltidx : Byte
  slots : Byte
  poc : W32
  disp : W64
  deriving DecidableEq, Repr

/-- A codec session (R330). -/
structure VSess where
  isOpen : Bool
  enc : Bool
  g : Gnt
  desc : Bytes
  pool : List Bytes
  /-- pool records, by buffer -/
  recs : Tbl PoolRec
  /-- frames decoded or encoded -/
  frames : Nat
  /-- order in which sessions became ready; 0 not ready (R333) -/
  readyAt : Nat
  taint : Bool
  discont : Bool
  /-- a status of R344 or R351 has stopped the session -/
  failed : Bool
  closing : Bool
  /-- a pipe holds a frame of the session -/
  busy : Bool
  /-- status counts of R338, and DISP of the last frame delivered -/
  counts : List W32
  lastDisp : W64
  /-- encode: bitstream buffers supplied: VA, bytes, used -/
  bufs : List (W64 × Nat × Nat)
  /-- decode: input not yet decoded: VA, bytes, PTS -/
  input : List (W64 × Nat × W64)
  /-- encode: frames waiting: FORCEI, VA of the descriptor, PTS -/
  encIn : List (Bool × W64 × W64)
  ended : Bool
  /-- output records of frames not delivered, by display index; those due, in order -/
  outs : Tbl Bytes
  due : List Nat
  /-- buffer of the most recent short-term reference -/
  lastRef : Option Nat
  deriving DecidableEq, Repr

/-- A codec pipe (R322, R345). -/
structure Pipe where
  busy : Bool
  live : Bool
  g : Gnt
  sess : Nat
  ingest : Bool
  buf : Nat
  /-- block rows done -/
  row : Nat
  out : Option VideoOut
  /-- encode: FORCEI, VA of the input descriptor -/
  enc : Bool × W64
  flags : Byte
  reason : Nat
  pts : W64
  fenced : Bool
  deriving DecidableEq, Repr

/-- An optical port (R252, R260, R283). -/
structure Port where
  state : BitVec 3
  lanes : BitVec 9
  sparefor : BitVec 4
  peermid : Mid
  peerport : BitVec 4
  bufgnt : BitVec 12
  droppend : Bool
  /-- next SEQ to send, next SEQ expected -/
  txSeq : W32
  rxSeq : W32
  /-- frames sent and not acknowledged, oldest first -/
  replay : List Frame
  /-- replays of the oldest frame, retrains that failed -/
  replays : Nat
  retrains : Nat
  /-- credits held towards the peer: key class -/
  creds : Tbl Nat
  /-- frames waiting for credits -/
  waitq : List Frame
  deriving DecidableEq, Repr

/-- A fabric configuration (R254). -/
structure FabCfg where
  mid : Mid
  node : BitVec 9
  slot : BitVec 3
  k : BitVec 4
  ref : Mid
  upport : BitVec 4
  /-- per port: enabled, expected MID, expected port -/
  portmap : List (Bool × Mid × BitVec 4)
  /-- output port for each destination MID -/
  route : Tbl (BitVec 4)
  limit : Tbl Nat
  digest : BitVec 256
  apply : W64
  deriving DecidableEq, Repr

/-- Supply and thermal causes of brace, and the MC's conditions for boot. -/
structure Supply where
  vin : W16
  vinOk : Bool
  enClosed : Bool
  flowOk : Bool
  ovHold : Bool
  brace : Bool
  supplyCause : Bool
  junction : Bool
  flow : Bool
  inlet : Bool
  minVin : W16
  braceAt : Nat
  resumeRun : Bool
  resumeDue : Bool
  /-- a brace boundary occurred in the interval -/
  inInterval : Bool
  lastTrip : Bool
  deriving DecidableEq, Repr

/-- A power domain (R434–R437): mode, state (0 on, 1 retention, 2 off, 3 changing), boundaries since it was needed. -/
structure Dom where
  mode : BitVec 2
  state : BitVec 2
  idle : Nat
  returned : Bool
  deriving DecidableEq, Repr

/-- A record of the boot journal (R457). -/
structure JRec where
  kind : Byte
  step : Byte
  bootnum : W32
  rseq : W32
  level : Byte
  reason : Byte
  detail : W64
  time : W32
  deriving DecidableEq, Repr

/-- An entry of the repair map (R460). -/
structure RepairRec where
  kind : Byte
  state : Byte
  trigger : Byte
  unit : W64
  spare : W32
  deriving DecidableEq, Repr

/-- State outside the volatile memories (R47): flash and OTP. -/
structure Persist where
  lcstate : BitVec 3
  lcPend : Option (BitVec 3)
  rma : BitVec 4
  secver : BitVec 7
  uds : BitVec 256
  udsErased : Bool
  chainErased : Bool
  serial : W64
  fwver : W32
  imgValid : Bool
  imgSec : BitVec 6
  imgDigest : BitVec 256
  fwWriting : Bool
  bootnum : W32
  /-- boot journal records, oldest first -/
  journal : List JRec
  jseq : W32
  /-- repair map -/
  repairs : List RepairRec
  levels : Tbl (BitVec 2)
  retry : W32
  opt : BitVec 2
  smbus : BitVec 7
  deriving DecidableEq, Repr

/-- The hatbox (R481–R494). -/
structure Hat where
  serial : W64
  log : List Bytes
  lseq : W64
  oldest : W64
  prev : BitVec 256
  sealcnt : W16
  signed : Option W64
  ready : Bool
  full : Bool
  measerr : Bool
  /-- ready line low at any time in the interval -/
  wasLow : Bool
  /-- the log has filled, and its GAP entry is not written yet (R489) -/
  gapDue : Bool
  lastLc : Byte
  rma : Bool
  fwDigest : BitVec 256
  /-- version of the running hatbox image, and the hatbox's security counter (R492, R493) -/
  fwver : W32
  secver : Nat
  fwPend : Option Bytes
  meshBroken : Bool
  /-- measurement of closed intervals waiting for their frames: EIN, MEASERR, ready low -/
  waiting : List (W64 × Bool × Bool)
  /-- BOOTNUM of the latest start that sent a frame, and the INTERVAL of the oldest interval not written -/
  bootnum : W32
  nextIv : W64
  /-- intervals refused while the log was full: INTERVAL, BOOTNUM, EIN -/
  refused : List (W64 × W32 × W64)
  /-- entries due after the GAP: kind, EIN, DETAIL -/
  deferred : List (Byte × W64 × Bytes)
  resp : Option Bytes
  deriving DecidableEq, Repr

/-- Identity and lifecycle (R409–R426) and the link (R360–R385). -/
structure Ident where
  meas : Tbl (BitVec 256)
  nonce : Nat
  resetDue : Bool
  /-- version of the running firmware (R413, R426) -/
  fwver : W32
  /-- security version of the running image (R451) -/
  fwsec : BitVec 6
  rate : BitVec 3
  width : BitVec 4
  lowrate : Bool
  l0p : Bool
  up : Bool
  numvf : BitVec 5
  deriving DecidableEq, Repr

/-- The stroke (R22–R25) and the accounting interval (R403). -/
structure Strk where
  k : BitVec 4
  kHeld : Option (BitVec 4)
  count : W64
  period : W32
  aligned : Bool
  alignErr : Bool
  offset : W32
  upTime : W64
  delay : W32
  delays : Nat
  /-- ns since VIN was qualified, as of the latest boundary; sum of nominal stroke lengths since reset in ns -/
  time : W64
  nominal : Nat
  interval : Nat
  ivFirst : W64
  ivStrokes : Nat
  bndlat : W32
  /-- boundaries taken since reset -/
  ticks : Nat
  /-- the hatbox's ready line was low, its log-full line high, at a boundary of the interval (R405) -/
  rdyLow : Bool
  logFull : Bool
  deriving DecidableEq, Repr

/-- The snapshot of boundary action 1 (R38): what a gauntlet may see of counters. -/
structure Snap where
  count : W64
  /-- steps with their gauntlet, admission number, state and hold reason -/
  steps : List (Gnt × W64 × Byte × Byte)
  accts : Tbl Acct
  /-- a message marked with the next boundary has already latched it (R37) -/
  early : Bool
  deriving DecidableEq, Repr

/-- PWAIT (R442–R446). -/
structure PWait where
  active : Bool
  deep : Bool
  dramoff : Bool
  /-- strokes since PWAIT, and intervals that ended during it: number, first stroke, strokes -/
  strokes : Nat
  late : List (W64 × W64 × Nat)
  braced : Bool
  /-- source of a wake that brace defers (R446), 0 for none -/
  wake : Nat
  deriving DecidableEq, Repr

/-- A checkpoint or restore in progress (R469–R472). -/
structure Ckpt where
  cmd : HostCmd
  restore : Bool
  /-- checkpoint: 0 waits for its boundary, 1 copying. Restore: 0 not begun, 1 hashing the copies, 2 writing them back,
  3 replica check, 4 ends at the next boundary -/
  phase : Nat
  stroke : W64
  shard : Nat
  off : Nat
  copied : Nat
  /-- VAs of the area and manifest ranges that R39 holds: base unit, units, written -/
  ranges : List (W64 × Nat × Bool)
  /-- SUSPEND mode: the save slots whose crew blocks are copied, in order -/
  blks : List Nat
  deriving DecidableEq, Repr

/-- The block but for its queue of commands. -/
structure Dev where
  /-- the options of the ordering code (R1): 1T memory, pigtails -/
  opt1T : Bool
  optPT : Bool
  mem : Tbl Byte
  wlog : List Wr
  free : Nat
  regs : Tbl W64
  strk : Strk
  sup : Supply
  seats : Tbl Seat
  coxes : Tbl Cox
  dies : Tbl (Tbl WCnt)
  steps : Tbl Step
  nextStep : Nat
  gaunts : Tbl Gaunt
  /-- translation entries: key 4,096 × gauntlet + index (tier-3 entries from 256, tier-4 from 2,304) -/
  xlate : Tbl W64
  /-- extent owner tables: owner in [3:0], state in [5:4] -/
  sown : Tbl Byte
  lown : Tbl Byte
  keys : BitVec 16
  /-- wipes running: stacked extents (60 × die + extent) and media SRAM; seats and caches carry their own flag -/
  wipeExt : List Nat
  wipeMedia : Bool
  queues : Tbl Queue
  evlog : Queue
  kv : Tbl KvRoot
  stems : Tbl (Nat × Nat × Nat × Bool × Bool)
  rowcache : List Nat
  decs : Tbl DecCtx
  /-- gauntlet that took a decode context last (R308) -/
  decTurn : Gnt
  sess : Tbl VSess
  pipes : Tbl Pipe
  /-- the last order number given under R333 -/
  readySeq : Nat
  ports : Tbl Port
  fab : Option FabCfg
  fabPend : Option FabCfg
  /-- frames handed to the ports, newest last (model's own, log 6) -/
  txFrames : List (Nat × Frame)
  /-- messages being received (R259): key (src × 16 + class) × 65,536 + FTAG -/
  rxBuf : Tbl Bytes
  funcs : Tbl Func
  waits : List Waiting
  bnds : List Waiting
  ident : Ident
  doms : Tbl Dom
  pwait : PWait
  /-- the candidate for which the next boundary seeks an automatic preemption (R396), by step key -/
  autoFor : Option Nat
  ckpts : Tbl Ckpt
  /-- save slots in use, key 64 × gauntlet + slot: the crew, and the number of its block once saved -/
  saves : Tbl (Nat × Option Nat)
  /-- what the private parts of crew blocks stand for, by block number (log 62) -/
  blocks : Tbl Saved
  /-- activity frames sent over the activity link at the latest sending (R483; model's own, log 6) -/
  actSent : List Bytes
  /-- accounting records ever written, by gauntlet number (R406) -/
  acctN : Tbl Nat
  pst : Persist
  hat : Hat
  snap : Snap
  busData : W64
  deriving DecidableEq, Repr

/-- The whole block: the device and its queue of waiting commands, first in, first out. -/
structure State where
  dev : Dev
  pending : List Instr
  deriving DecidableEq, Repr

/-- A unit's running values before any conversion. -/
def Running.reset : Running := { amax := 0, ovf := 0, unf := 0, nan := 0, inf := 0, elems := 0 }

/-- Status word of a tile after reset: LANDED set (R91). -/
def TileStat.reset : TileStat :=
  { kind := 0, landed := true, ovf := false, accnf := false, shift := 0, rerun := false, kblk := 0, fmta := 0
    fmtb := 0, split := 0, mma := false }

/-- An empty scale slot: scale and reciprocal 1.0 (log 1), no record. -/
def ScaleSlot.reset : ScaleSlot :=
  { scale := 0x3F800000, rscale := 0x3F800000, tid := 0, fmt := 0, recVa := 0, run := Running.reset }

/-- A credit word after reset (R32). -/
def Credit.reset : Credit :=
  { avail := 0, limit := 0, gnt := 0, unit := 0, waitp := false, waitc := false, err := false }

/-- An empty task context (R99). -/
def Ctx.reset : Ctx :=
  { queue := [], todo := [], pos := 0, slots := [], vrows := 64, vcols := 64, rstride := 0, base := 0, comp := none, fill := none
    walk := none, half := false, waitTok := false, waitCred := false, waitSb := false, failed := false
    step := none }

/-- A lane core after reset (R108, R120). -/
def LaneCore.reset : LaneCore :=
  { g := [], pc := 0, lstat := 0, lidxLo := 0, lidxHi := 0, cycle := 0, coll := 0, wait := none, halted := true
    runs := [] }

/-- The shared special registers after reset: VL 32, the rest 0 (R108, R120). -/
def LaneShared.reset : LaneShared :=
  { vl := 32, lfill := 0, wbase := 0, wpitch := 0, wdim := 0, wgeom := 0, wfmt := 0, wpad := 0 }

/-- A physical seat after reset: seats 0–7 carry their own numbers, seat 8 is in reserve (R104). -/
def Seat.reset (phys : Nat) : Seat :=
  { gnt := 0, valid := false, fenced := false, wiping := false, logical := BitVec.ofNat 4 phys, acccfg := 0
    tregcfg := 0, scrcfg := 0, tiles := [], ctxs := [], running := 0, flights := [], drains := [], kloops := []
    krun := false, kctx := 0, kword := 0, lanes := [], shared := LaneShared.reset, seen := LaneShared.reset
    spare := 0, haltStat := 0 }

/-- A crew after reset. -/
def Cox.reset : Cox :=
  { gnt := 0, valid := false, fenced := false, saving := false, restoring := false, wiping := false, cacheGnt := 0
    cacheValid := false, lines := [], rr := [], slots := [], counters := [] }

/-- A work counter after reset (R156). -/
def WCnt.reset : WCnt :=
  { next := 0, fin := 0, epoch := 0, jobset := 0, slot := 0, active := false, die := false, regrant := [], recs := []
    out := [], done := false }

/-- Empty bins (R474). -/
def Bins.reset : Bins := { fwd := 0, bwd := 0, opt := 0, other := 0, ingw := 0, fabw := 0, red := 0 }

/-- No flag set (R379). -/
def StepFlags.reset : StepFlags :=
  { late := false, nonfinite := false, ovf := false, accnf := false, embidx := false, expdrop := false
    stall := false, overrun := false, lstat := 0, qstat := false, preempted := false }

/-- A queue descriptor after reset (R346). -/
def Queue.reset : Queue :=
  { qbase := 0, cls := 0, gnt := 0, esz := 0, nlog := 0, int := false, qid := 0, flush := false, enable := false
    fgen := 0, gapidx := 0, wp := 0, rp := 0, wpx := 0xFFFFFFFF, rpx := 0xFFFFFFFF, lost := 0, gaps := 0
    resets := 0, drops := 0, flushes := 0, penddrop := 0, cred := Credit.reset, written := 0, ents := []
    dropping := false, gapStroke := 0, failsAt := [], snapImg := [] }

/-- A function page after reset: COUNT 1 (R366). -/
def Func.reset : Func :=
  { openF := false, feat := 0, sqbase := 0, cqbase := 0, nlog := 0, enable := false, intcfg := 1, err := 0
    cqHeld := 0, cur := none, unsig := 0, holdRun := false, msix := [], pba := 0,  d3 := false, tdi := 0, ide := false, ideKeys := false, sess := none, kem := none, reply := none, resp := none }

/-- Accounting counters at the start of an interval (R404). -/
def Acct.reset : Acct :=
  { seatcyc := 0, stemcyc := 0, embcyc := 0, exdcyc := 0, deccyc := 0, vidcyc := 0, hostb := 0, dramb := 0
    fabb := 0, qwait := 0, suspwait := 0, preempts := 0, overruns := 0, cancels := 0, cerr := false }

/-- A gauntlet number after reset; G0's settings are those of R387. -/
def Gaunt.reset (g : Nat) : Gaunt :=
  { present := false, inst := 0, seed := 0, saveva := 0, savesz := 0, share := if g = 0 then 1024 else 0
    crewmax := if g = 0 then 64 else 0, noauto := g == 0, pwait := if g = 0 then 16 else 0, msram := 0, vt := 0
    adm := 0, queues := [], cursors := [], peers := [], ftag := 0, keyCur := none, keyPrev := none
    keyStaged := none, sendGen := none, actPend := false, actAt := none, groups := [], earlyJ := [], earlyX := [], toks := [], poolS := [], poolL := []
    framesS := [], framesL := [], calib := [], kept := [], telCfg := 0, strokeAcc := Bins.reset
    acct := Acct.reset, charged := (0, 0), lastStep := (0, 0), wrote := false, wroteRow := false, telPend := [], acctBorn := false, acctDied := false, m7 := 0, m7due := [], telFresh := false, tearing := 0, wipes := [], gset := []
    ckpt := false, drainHold := false, ckDones := [], rcpart := 0 }

/-- A KV table root that is not in use (R207). -/
def KvRoot.reset : KvRoot :=
  { gnt := 0, hg := 0, fmt := 0, dimc := 0, gtag := 0, len := 0, cap := 0, segbase := 0, gen := 0, tab0 := 0
    tab1 := 0, sum := 0, pend := 0, live := 0, livePrev := 0, defer := [], edits := [], used := [], spills := [] }

/-- A decode context that holds no sample (R308). -/
def DecCtx.reset : DecCtx :=
  { busy := false, step := 0, desc := 0, slot := 0, sample := 0, g := 0, seen := 0, item := 0, reason := 0
    pad := false, outv := 0, trunc := false, lens := [], ftag := 0, outNo := 255 }

/-- A codec session number that is not open (R330). -/
def VSess.reset : VSess :=
  { isOpen := false, enc := false, g := 0, desc := [], pool := [], recs := [], frames := 0, readyAt := 0, taint := false
    discont := false, failed := false, closing := false, busy := false, counts := [], lastDisp := 0, bufs := []
    input := [], encIn := [], ended := false, outs := [], due := [], lastRef := none }

/-- An idle codec pipe (R322). -/
def Pipe.reset : Pipe :=
  { busy := false, live := false, g := 0, sess := 0, ingest := false, buf := 0, row := 0, out := none, enc := (false, 0)
    flags := 0, reason := 0, pts := 0, fenced := false }

/-- An optical port after reset: OFF, no spare lane in use (R283: reset 0x0000_0000_0000_F000). -/
def Port.reset : Port :=
  { state := 0, lanes := 0, sparefor := 15, peermid := 0, peerport := 0, bufgnt := 0, droppend := false, txSeq := 0
    rxSeq := 0, replay := [], replays := 0, retrains := 0, creds := [], waitq := [] }

/-- A domain after reset: managed by command, off (R434; log 1). -/
def Dom.reset : Dom := { mode := 0, state := 2, idle := 0, returned := false }

/-- The stroke after reset: k = 3, count 0, period 1,600,000 (R48). -/
def Strk.reset : Strk :=
  { k := 3, kHeld := none, count := 0, period := 0x186A00, aligned := false, alignErr := false, offset := 0
    upTime := 0, delay := 0, delays := 0, time := 0, nominal := 0, interval := 0, ivFirst := 0, ivStrokes := 0
    bndlat := 0, ticks := 0, rdyLow := false, logFull := false }

/-- Supply and cooling before power-on (log 1): not qualified, EN# open, no flow. -/
def Supply.reset : Supply :=
  { vin := 0, vinOk := false, enClosed := false, flowOk := false, ovHold := false, brace := false
    supplyCause := false, junction := false, flow := false, inlet := false, minVin := 0, braceAt := 0
    resumeRun := false, resumeDue := false, inInterval := false, lastTrip := false }

/-- Flash and OTP as shipped (log 1): DEPLOYED, serial number 1, valid image, empty journal and repair map. -/
def Persist.reset : Persist :=
  { lcstate := 2, lcPend := none, rma := 0, secver := 0, uds := 0, udsErased := false, chainErased := false
    serial := 1, fwver := 0, imgValid := true, imgSec := 0, imgDigest := 0, fwWriting := false, bootnum := 0
    journal := [], jseq := 0, repairs := [], levels := [], retry := 0, opt := 0, smbus := 0 }

/-- The hatbox as shipped (log 1): ready, its log empty. -/
def Hat.reset : Hat :=
  { serial := 1, log := [], lseq := 0, oldest := 0, prev := 0, sealcnt := 0, signed := none, ready := true
    full := false, measerr := false, wasLow := false, gapDue := false, lastLc := 2, rma := false, fwDigest := 0
    fwver := 0, secver := 0, fwPend := none, meshBroken := false, waiting := [], bootnum := 0, nextIv := 0, refused := [], deferred := []
    resp := none }

/-- Identity and link state after reset. -/
def Ident.reset : Ident :=
  { meas := [], nonce := 0, resetDue := false, fwver := 0, fwsec := 0, rate := 0, width := 0, lowrate := false, l0p := false, up := false
    numvf := 0 }

/-- The block right after reset, before boot: empty memory, every register at its reset value, nothing queued. -/
def Dev.reset : Dev :=
  { opt1T := false, optPT := false, mem := [], wlog := [], free := 0, regs := [], strk := Strk.reset, sup := Supply.reset, seats := []
    coxes := [], dies := [], steps := [], nextStep := 0, gaunts := [], xlate := [], sown := [], lown := [], keys := 0
    wipeExt := [], wipeMedia := false, queues := []
    evlog := { Queue.reset with cls := 1, esz := 6, nlog := 16, enable := true }
    kv := [], stems := [], rowcache := [], decs := [], decTurn := 15, sess := [], pipes := [], readySeq := 0, ports := [], fab := none
    fabPend := none, txFrames := [], rxBuf := [], funcs := [], waits := [], bnds := [], ident := Ident.reset
    doms := [], pwait := { active := false, deep := false, dramoff := false, strokes := 0, late := [], braced := false, wake := 0 }
    autoFor := none, ckpts := [], saves := [], blocks := [], actSent := [], acctN := [], pst := Persist.reset, hat := Hat.reset
    snap := { count := 0, steps := [], accts := [], early := false }, busData := 0 }

/-- The machine right after reset: the block as reset leaves it, no command waiting. -/
def State.reset : State := { dev := Dev.reset, pending := [] }

end Sys2Proof.Machine
end

