-- ==== Sys2Proof/Machine/Tbl.lean ====
section
/-! DEFINITION. Operations on sparse tables (`Tbl`): lists of key and value in rising order of key. The byte memory
and the register file are kept in one canonical form by `tset`, which lists no entry equal to the default. -/
namespace Sys2Proof.Machine

/-- The entry listed at a key. -/
def tfind {α : Type} : Tbl α → Nat → Option α
  | [], _ => none
  | (k, v) :: t, i => if k = i then some v else tfind t i

/-- The entry at a key, the default where none is listed. -/
def tget {α : Type} (d : α) (t : Tbl α) (i : Nat) : α := (tfind t i).getD d

/-- List an entry in its place. -/
def tput {α : Type} : Tbl α → Nat → α → Tbl α
  | [], i, v => [(i, v)]
  | (k, w) :: t, i, v => if i < k then (i, v) :: (k, w) :: t else if i = k then (i, v) :: t else (k, w) :: tput t i v

/-- Remove what is listed at a key. -/
def tdel {α : Type} : Tbl α → Nat → Tbl α
  | [], _ => []
  | (k, w) :: t, i => if k = i then tdel t i else (k, w) :: tdel t i

/-- Set a key in the canonical form for the default `d`. -/
def tset {α : Type} [DecidableEq α] (d : α) (t : Tbl α) (i : Nat) (v : α) : Tbl α :=
  if v = d then tdel t i else tput t i v

/-- The keys listed. -/
def tkeys {α : Type} (t : Tbl α) : List Nat := t.map (·.1)

/-- The entries listed. -/
def tvals {α : Type} (t : Tbl α) : List α := t.map (·.2)

/-- Change every entry listed. -/
def tmap {α : Type} (f : Nat → α → α) (t : Tbl α) : Tbl α := t.map fun p => (p.1, f p.1 p.2)

/-- Keys strictly rising. -/
def Rising {α : Type} : Tbl α → Bool
  | [] => true
  | [_] => true
  | (k, _) :: (j, w) :: t => decide (k < j) && Rising ((j, w) :: t)

/-- The canonical form: keys strictly rising, and no entry equal to the default. -/
def canonical {α : Type} [DecidableEq α] (d : α) (t : Tbl α) : Bool :=
  Rising t && t.all fun p => decide (p.2 ≠ d)

end Sys2Proof.Machine
end

