-- ==== Sys2Proof/Machine/Ops.lean ====
section
/-! DEFINITION. The named operations over the device: running a command, the byte memory, the register file, the
tables of units, translation (R157–R164), host DMA, queues (R346–R358), events (R477, R512) and replies (R369–R371,
R381). Every store of a command goes through `store`, and `run` applies the stores to the memory as it stood before
the command, so what memory holds afterwards is the command's list of stores and nothing else. -/
namespace Sys2Proof.Machine

/-! ### The byte memory -/

/-- Bytes from an address up; what nothing has written reads zero (log 2). -/
def readMem (m : Tbl Byte) : Nat → Nat → Bytes
  | _, 0 => []
  | a, n + 1 => tget 0 m a :: readMem m (a + 1) n

/-- Write bytes from an address up. -/
def writeMem (m : Tbl Byte) : Nat → Bytes → Tbl Byte
  | _, [] => m
  | a, b :: t => writeMem (tset 0 m a b) (a + 1) t

/-- Remove what is listed in a range. -/
def clearMem (m : Tbl Byte) (a n : Nat) : Tbl Byte := m.filter fun p => !(decide (a ≤ p.1) && decide (p.1 < a + n))

/-- Write the same byte over a range. -/
def fillMem (m : Tbl Byte) (a n : Nat) (b : Byte) : Tbl Byte :=
  if b = 0 then clearMem m a n else writeMem m a (List.replicate n b)

/-- Copy a range: the destination holds what the source held before. -/
def copyMem (m : Tbl Byte) (src dst n : Nat) : Tbl Byte :=
  (m.filter fun p => decide (src ≤ p.1) && decide (p.1 < src + n)).foldl
    (fun acc p => tset 0 acc (p.1 - src + dst) p.2) (clearMem m dst n)

/-- One store. -/
def applyWr (m : Tbl Byte) : Wr → Tbl Byte
  | .bytes a bs => writeMem m a bs
  | .fill a n b => fillMem m a n b
  | .copy s d n => copyMem m s d n

/-- The canonical form of the memory: addresses strictly rising, no zero listed (log 2). -/
abbrev Memory.wf (m : Tbl Byte) : Bool := canonical (0 : Byte) m

/-- A store of the command in execution (log 5). -/
def store (d : Dev) (w : Wr) : Dev := { d with mem := applyWr d.mem w, wlog := d.wlog ++ [w] }

/-- Store bytes at an address of the model's byte memory. -/
def putBytes (d : Dev) (a : Nat) (bs : Bytes) : Dev := store d (.bytes a bs)

/-- Run a command's effect on the device; the queue of commands stays as it is. -/
def run (f : Dev → Dev) (s : State) : Host.Outcome State Fault Refusal :=
  let d := f { s.dev with wlog := [] }
  .next { dev := { d with mem := d.wlog.foldl applyWr s.dev.mem, wlog := [] }, pending := s.pending }

/-- Run a command whose operands must name units that the module has. -/
def runIf (ok : Bool) (f : Dev → Dev) (s : State) : Host.Outcome State Fault Refusal :=
  if ok then run f s else .refused .noSuchUnit

/-! ### Where the memories lie in the model's address space (log 10) -/

/-- First byte of stacked SRAM; the offset is the package-wide stacked address of R177. -/
def stackBase : Nat := 0
/-- First byte of LPDDR5X; the offset is the physical address P of R165. -/
def lpBase : Nat := 2 ^ 42
/-- First byte of IOD media SRAM. -/
def mediaBase : Nat := 2 ^ 44
/-- First byte of a seat's storage (R76): H0, H1, ACC0–7, T0–15, kernel store. -/
def seatBase (u : Nat) : Nat := 2 ^ 45 + u * 2 ^ 23
/-- First byte of a half of a seat's scratchpad. -/
def halfBase (u : Nat) (h : Bool) : Nat := seatBase u + (if h then 2 ^ 21 else 0)
/-- First byte of an accumulator tile. -/
def accBase (u i : Nat) : Nat := seatBase u + 2 ^ 22 + 16384 * i
/-- First byte of a tile register. -/
def tregBase (u n : Nat) : Nat := seatBase u + 2 ^ 22 + 131072 + 16384 * n
/-- First byte of a seat's kernel store of 64 KiB (R107). -/
def kernBase (u : Nat) : Nat := seatBase u + 2 ^ 22 + 524288
/-- Bytes of a seat's storage that a wipe clears. -/
def seatSpan : Nat := 2 ^ 22 + 524288 + 65536
/-- First byte of the accounting record store (R406). -/
def acctBase : Nat := 2 ^ 47
/-- First byte of host memory; the offset is the bus address. -/
def hostBase : Nat := 2 ^ 64

/-- Bytes of the model's memory. -/
def peek (d : Dev) (a n : Nat) : Bytes := readMem d.mem a n

/-- Little-endian number of `n` bytes of the model's memory. -/
def peekN (d : Dev) (a n : Nat) : Nat := leNat (readMem d.mem a n)

/-! ### The register file -/

/-- Reset values of the registers that are held as words (R48, R130, R184, R283, R448). -/
def resetOf (off : Nat) : Nat :=
  if off = rMEM_SCRUBCFG then 0x3E8
  else if off = rFAB_RTIMEOUT then 0x7D0
  else if off = rPWR_AUTOIDLE then 0x10
  else if decide (0x1000000 ≤ off) && off % 0x1000 == rLANE_CFG then 0x16
  else 0

/-- A register held as a word. -/
def reg (d : Dev) (off : Nat) : Nat := (tget (BitVec.ofNat 64 (resetOf off)) d.regs off).toNat

/-- Set a register held as a word. -/
def setReg (d : Dev) (off v : Nat) : Dev :=
  { d with regs := tset (BitVec.ofNat 64 (resetOf off)) d.regs off (BitVec.ofNat 64 v) }

/-- A 32-bit counter that saturates (R478). -/
def inc32 (d : Dev) (off n : Nat) : Dev := setReg d off (satN 32 (reg d off + n))

/-- A 64-bit counter (R478). -/
def inc64 (d : Dev) (off n : Nat) : Dev := setReg d off (reg d off + n)

/-- R509: set a bit of an ERR register; ERRINFO records the failure only while ERR is zero. -/
def recordErr (d : Dev) (errOff infoOff bit info : Nat) : Dev :=
  let e := reg d errOff
  let d := if e = 0 then setReg d infoOff info else d
  setReg d errOff (e ||| 2 ^ bit)

/-- A free value (log 4): the counter advances. -/
def freeVal (d : Dev) : W64 × Dev := (Config.free d.free, { d with free := d.free + 1 })

/-! ### Units -/

/-- Number of a physical seat in tables and registers: 16 × crew + seat (R364). -/
def seatIdx (u : SeatAt) : Nat := 16 * u.crew.toNat + u.seat.toNat
/-- Number of the seat of a context. -/
def ctxIdx (c : CtxAt) : Nat := 16 * c.crew.toNat + c.seat.toNat
/-- Number of the seat of a lane core. -/
def laneIdx (l : LaneAt) : Nat := 16 * l.crew.toNat + l.seat.toNat

/-- A physical seat. -/
def seatOf (d : Dev) (u : Nat) : Seat := tget (Seat.reset (u % 16)) d.seats u
/-- Change a physical seat. -/
def modSeat (d : Dev) (u : Nat) (f : Seat → Seat) : Dev := { d with seats := tput d.seats u (f (seatOf d u)) }
/-- A task context of a seat. -/
def ctxOf (s : Seat) (c : Nat) : Ctx := tget Ctx.reset s.ctxs c
/-- Change a task context. -/
def modCtx (d : Dev) (u c : Nat) (f : Ctx → Ctx) : Dev :=
  modSeat d u fun s => { s with ctxs := tput s.ctxs c (f (ctxOf s c)) }
/-- Status of a tile. -/
def tileOf (s : Seat) (i : Nat) : TileStat := tget TileStat.reset s.tiles i
/-- Change the status of a tile. -/
def modTile (d : Dev) (u i : Nat) (f : TileStat → TileStat) : Dev :=
  modSeat d u fun s => { s with tiles := tput s.tiles i (f (tileOf s i)) }
/-- A crew. -/
def coxOf (d : Dev) (c : Nat) : Cox := tget Cox.reset d.coxes c
/-- Change a crew. -/
def modCox (d : Dev) (c : Nat) (f : Cox → Cox) : Dev := { d with coxes := tput d.coxes c (f (coxOf d c)) }
/-- A work counter of a crew. -/
def cntOf (x : Cox) (n : Nat) : WCnt := tget WCnt.reset x.counters n
/-- A gauntlet. -/
def gaunt (d : Dev) (g : Nat) : Gaunt := tget (Gaunt.reset g) d.gaunts g
/-- Change a gauntlet. -/
def modG (d : Dev) (g : Nat) (f : Gaunt → Gaunt) : Dev := { d with gaunts := tput d.gaunts g (f (gaunt d g)) }
/-- A function page. -/
def func (d : Dev) (f : Nat) : Func := tget Func.reset d.funcs f
/-- Change a function page. -/
def modF (d : Dev) (f : Nat) (h : Func → Func) : Dev := { d with funcs := tput d.funcs f (h (func d f)) }
/-- A queue descriptor. -/
def queue (d : Dev) (n : Nat) : Queue := tget Queue.reset d.queues n
/-- Change a queue descriptor. -/
def modQ (d : Dev) (n : Nat) (f : Queue → Queue) : Dev := { d with queues := tput d.queues n (f (queue d n)) }
/-- An optical port. -/
def portOf (d : Dev) (p : Nat) : Port := tget Port.reset d.ports p
/-- Change an optical port. -/
def modPort (d : Dev) (p : Nat) (f : Port → Port) : Dev := { d with ports := tput d.ports p (f (portOf d p)) }
/-- A KV table root. -/
def kvOf (d : Dev) (t : Nat) : KvRoot := tget KvRoot.reset d.kv t
/-- Change a KV table root. -/
def modKv (d : Dev) (t : Nat) (f : KvRoot → KvRoot) : Dev := { d with kv := tput d.kv t (f (kvOf d t)) }
/-- A decode context. -/
def decOf (d : Dev) (c : Nat) : DecCtx := tget DecCtx.reset d.decs c
/-- Change a decode context. -/
def modDec (d : Dev) (c : Nat) (f : DecCtx → DecCtx) : Dev := { d with decs := tput d.decs c (f (decOf d c)) }
/-- A codec session: decode sessions 0–63, encode sessions from 64. -/
def sessOf (d : Dev) (n : Nat) : VSess := tget VSess.reset d.sess n
/-- Change a codec session. -/
def modSess (d : Dev) (n : Nat) (f : VSess → VSess) : Dev := { d with sess := tput d.sess n (f (sessOf d n)) }
/-- A codec pipe. -/
def pipeOf (d : Dev) (p : Nat) : Pipe := tget Pipe.reset d.pipes p
/-- Change a codec pipe. -/
def modPipe (d : Dev) (p : Nat) (f : Pipe → Pipe) : Dev := { d with pipes := tput d.pipes p (f (pipeOf d p)) }
/-- A power domain. -/
def domOf (d : Dev) (n : Nat) : Dom := tget Dom.reset d.doms n
/-- Change a power domain. -/
def modDom (d : Dev) (n : Nat) (f : Dom → Dom) : Dev := { d with doms := tput d.doms n (f (domOf d n)) }
/-- Change the step of a key, where there is one. -/
def modStep (d : Dev) (k : Nat) (f : Step → Step) : Dev :=
  match tfind d.steps k with
  | some st => { d with steps := tput d.steps k (f st) }
  | none => d
/-- Key of the admitted or suspended step of a name (R393). -/
def findStep (d : Dev) (n : StepName) : Option Nat :=
  (d.steps.find? fun p => p.2.g == n.g && p.2.adm == n.adm && (p.2.st == .admitted || p.2.st == .suspended)).map (·.1)

/-- Nominal length of a stroke in ns (R22). -/
def strokeNs (k : BitVec 4) : Nat := 125000 * 2 ^ k.toNat
/-- Cycles of a stroke at the nominal clock (R22). -/
def strokeCycles (k : BitVec 4) : Nat := 200000 * 2 ^ k.toNat
/-- IOD cycles of a stroke at the nominal clock (R22). -/
def strokeIod (k : BitVec 4) : Nat := 150000 * 2 ^ k.toNat

/-! ### Host DMA (R384, R385) -/

/-- Add to the accounting counters of a gauntlet (R404). -/
def account (d : Dev) (g : Nat) (f : Acct → Acct) : Dev := modG d g fun x => { x with acct := f x.acct }

/-- Write host memory for a function. -/
def hostWr (d : Dev) (f a : Nat) (bs : Bytes) : Dev :=
  account (inc64 (putBytes d (hostBase + a) bs) rHIF_DMAWR bs.length) f fun x =>
    { x with hostb := x.hostb + BitVec.ofNat 64 bs.length }

/-- Bytes of host memory. -/
def hostPeek (d : Dev) (a n : Nat) : Bytes := peek d (hostBase + a) n

/-- Count bytes read from the host for a function. -/
def hostRdCount (d : Dev) (f n : Nat) : Dev :=
  account (inc64 d rHIF_DMARD n) f fun x => { x with hostb := x.hostb + BitVec.ofNat 64 n }

/-- Fire a vector of a function (R381): a masked vector sets its pending bit; in D3hot vectors do not fire (R384). -/
def fireVec (d : Dev) (f v : Nat) : Dev :=
  let x := func d f
  if x.d3 then d
  else match tfind x.msix v with
    | some (a, w, true) => modF d f fun y => { y with pba := y.pba ||| BitVec.ofNat 4 (2 ^ v), msix := tput y.msix v (a, w, true) }
    | some (a, w, false) => if d.ident.up then hostWr d f a.toNat (leBytes 4 w.toNat) else d
    | none => if d.ident.up then hostWr d f 0 (leBytes 4 0) else d

/-- Set a bit of FN_ERR; vector 3 reports it (R366, R381). -/
def fnErr (d : Dev) (f bit : Nat) : Dev :=
  fireVec (modF d f fun x => { x with err := x.err ||| BitVec.ofNat 4 (2 ^ bit) }) f 3

/-! ### Translation (R157–R164) -/

/-- Why an access fails: the reason code of R164, and for an owner mismatch what MEMISO records. -/
structure XErr where
  code : Nat
  iso : Option (Nat × Nat × Nat)
  deriving DecidableEq, Repr

/-- Where a translated access goes: the tier and the model's byte address, or the peer's rank and VA. -/
inductive Phys where
  | here (tier : Nat) (a : Nat)
  | peer (rank : Nat) (va : Nat)
  deriving DecidableEq, Repr

/-- XLATE, PERM and TIER (R164). -/
def cXLATE : Nat := 0x18
/-- PERM (R164). -/
def cPERM : Nat := 0x19
/-- TIER (R164). -/
def cTIER : Nat := 0x1A

/-- Window of a VA: tier, entry index in the gauntlet's table, offset in the extent (R158). -/
def window (va : Nat) : Option (Nat × Nat × Nat) :=
  if va < 2 ^ 36 then some (2, va / 2 ^ 28, va % 2 ^ 28)
  else if decide (0x40000000000 ≤ va) && decide (va < 0x60000000000) then
    let o := va - 0x40000000000
    some (3, 256 + o / 2 ^ 30, o % 2 ^ 30)
  else if decide (0x800000000000 ≤ va) && decide (va < 0x810000000000) then
    let o := va - 0x800000000000
    some (4, 2304 + o / 2 ^ 30, o % 2 ^ 30)
  else none

/-- A translation entry (R160). -/
def xentry (d : Dev) (g i : Nat) : Nat := (tget (0 : W64) d.xlate (4096 * g + i)).toNat

/-- Translate a VA of a gauntlet for a read or a write. Tier-4 entries answer the peer's VA (R160, R269). -/
def translate (d : Dev) (g va : Nat) (wr : Bool) : Except XErr Phys :=
  match window va with
  | none => .error ⟨cXLATE, none⟩
  | some (t, i, off) =>
    let e := xentry d g i
    if !(bitOf e 0) || fld e 7 4 != g || fld e 10 8 != t then .error ⟨cXLATE, none⟩
    else
      let ok := if wr then bitOf e 2 else bitOf e 1
      if t = 2 then
        let x := 60 * fld e 19 18 + fld e 17 12
        let o := (tget (0 : Byte) d.sown x).toNat
        let a := x * 2 ^ 28 + off
        if fld o 3 0 != g || fld o 5 4 != 1 then .error ⟨cXLATE, some (a, g, fld o 3 0)⟩
        else if !ok then .error ⟨cPERM, none⟩ else .ok (.here 2 (stackBase + a))
      else if t = 3 then
        let x := fld e 22 12
        let o := (tget (0 : Byte) d.lown x).toNat
        let a := x * 2 ^ 30 + off
        if fld o 3 0 != g || fld o 5 4 != 1 then .error ⟨cXLATE, some (a, g, fld o 3 0)⟩
        else if !ok then .error ⟨cPERM, none⟩ else .ok (.here 3 (lpBase + a))
      else if !ok then .error ⟨cPERM, none⟩
      else
        let w := if bitOf e 18 then 0x40000000000 + fld e 29 19 * 2 ^ 30 else fld e 29 19 * 2 ^ 30
        .ok (.peer (fld e 17 12) (w + off))

/-- The pieces of a range between multiples of 256 MiB, which no extent boundary divides. -/
def pieceList : Nat → Nat → Nat → List (Nat × Nat)
  | 0, _, _ => []
  | fuel + 1, va, n =>
    if n = 0 then []
    else
      let k := min n (2 ^ 28 - va % 2 ^ 28)
      (va, k) :: pieceList fuel (va + k) (n - k)

/-- The pieces of a range. -/
def ranges (va n : Nat) : List (Nat × Nat) := pieceList (n / 2 ^ 28 + 2) va n

/-- Translate a whole range; the answer is the model's addresses and lengths, in order. Tier 4 is not allowed
(R167). -/
def transRange (d : Dev) (g va n : Nat) (wr : Bool) : Except XErr (List (Nat × Nat × Nat)) :=
  (ranges va n).mapM fun p =>
    match translate d g p.1 wr with
    | .error e => .error e
    | .ok (.peer ..) => .error ⟨cTIER, none⟩
    | .ok (.here t a) => .ok (t, a, p.2)

/-- Bytes of LPDDR5X in a translated range. -/
def dramOf (l : List (Nat × Nat × Nat)) : Nat := (l.filter (·.1 == 3)).foldl (fun a p => a + p.2.2) 0

/-- Count LPDDR5X bytes to a gauntlet (R404). -/
def dramCount (d : Dev) (g : Nat) (l : List (Nat × Nat × Nat)) : Dev :=
  let n := dramOf l
  if n = 0 then d else account d g fun x => { x with dramb := x.dramb + BitVec.ofNat 64 n }

/-- Read gauntlet memory. -/
def vaRead (d : Dev) (g va n : Nat) : Except XErr Bytes :=
  match transRange d g va n false with
  | .error e => .error e
  | .ok l => .ok (l.flatMap fun p => peek d p.2.1 p.2.2)

/-- Read gauntlet memory for a unit, counting the LPDDR5X bytes (R404). -/
def vaGet (d : Dev) (g va n : Nat) : Except XErr (Bytes × Dev) :=
  match transRange d g va n false with
  | .error e => .error e
  | .ok l => .ok (l.flatMap fun p => peek d p.2.1 p.2.2, dramCount d g l)

/-- Write pieces of a run of bytes. -/
def putPieces (d : Dev) : List (Nat × Nat × Nat) → Bytes → Dev
  | [], _ => d
  | (_, a, n) :: t, bs => putPieces (putBytes d a (bs.take n)) t (bs.drop n)

/-- Write gauntlet memory. -/
def vaWrite (d : Dev) (g va : Nat) (bs : Bytes) : Except XErr Dev :=
  match transRange d g va bs.length true with
  | .error e => .error e
  | .ok l => .ok (dramCount (putPieces d l bs) g l)

/-- Fill gauntlet memory with zeros. -/
def vaZero (d : Dev) (g va n : Nat) : Except XErr Dev :=
  match transRange d g va n true with
  | .error e => .error e
  | .ok l => .ok (dramCount (l.foldl (fun d p => store d (.fill p.2.1 p.2.2 0)) d) g l)

/-- Copy within gauntlet memory, piece by piece of the source. -/
def vaCopy (d : Dev) (g src dst n : Nat) : Except XErr Dev :=
  match transRange d g src n false with
  | .error e => .error e
  | .ok _ =>
    match transRange d g dst n true with
    | .error e => .error e
    | .ok _ =>
      let pts := (ranges src n).flatMap fun p => (ranges (dst + (p.1 - src)) p.2).map fun q => (p.1 + (q.1 - (dst + (p.1 - src))), q.1, q.2)
      .ok (pts.foldl (fun d q =>
        match translate d g q.1 false, translate d g q.2.1 true with
        | .ok (.here _ a), .ok (.here _ b) => store d (.copy a b q.2.2)
        | _, _ => d) d)

/-! ### Queues (R346–R358) -/

/-- Occupancy (R347). -/
def occ (q : Queue) : Nat := (q.wp - q.rp).toNat

/-- The check of R348. -/
def qOk (q : Queue) : Bool := q.wp == ~~~q.wpx && q.rp == ~~~q.rpx && decide (occ q ≤ 2 ^ q.nlog.toNat)

/-- Set WP with its inverted copy. -/
def setWp (q : Queue) (v : W32) : Queue := { q with wp := v, wpx := ~~~v }
/-- Set RP with its inverted copy. -/
def setRp (q : Queue) (v : W32) : Queue := { q with rp := v, rpx := ~~~v }

/-- Slot of a count (R347). -/
def slotOf (q : Queue) (v : W32) : Nat := v.toNat % 2 ^ q.nlog.toNat

/-- Place an entry: in module storage, or in its owner's memory where a VA names the queue (R347). -/
def putEntry (d : Dev) (n : Nat) (i : W32) (bs : Bytes) : Dev :=
  let q := queue d n
  if q.int then modQ d n fun q => { q with ents := tput q.ents (slotOf q i) bs }
  else match vaWrite d q.gnt.toNat (q.qbase.toNat + slotOf q i * 2 ^ q.esz.toNat) bs with
    | .ok d => d
    | .error _ => d

/-- The entry at a count. -/
def getEntry (d : Dev) (n : Nat) (i : W32) : Bytes :=
  let q := queue d n
  if q.int then tget [] q.ents (slotOf q i)
  else match vaRead d q.gnt.toNat (q.qbase.toNat + slotOf q i * 2 ^ q.esz.toNat) (2 ^ q.esz.toNat) with
    | .ok b => b
    | .error _ => []

/-- ESEQ of the n-th entry ever written (R355). -/
def eseqOf (n : Nat) : Nat := n % (2 ^ 32 - 1)

/-- A class E write to a sound queue held in module storage: overwrites the oldest entry of a full queue (R355). -/
def rawE (q : Queue) (body : Bytes) : Queue :=
  let q := if occ q = 2 ^ q.nlog.toNat then
      { setRp q (q.rp + 1) with lost := BitVec.ofNat 32 (satN 32 (q.lost.toNat + 1)) } else q
  let n := q.written + 1
  let q := { q with written := n, ents := tput q.ents (slotOf q q.wp) (leBytes 4 (eseqOf n) ++ body) }
  setWp q (q.wp + 1)

/-- The reset of R351 as far as the descriptor shows it; answers the entries discarded too. -/
def resetQ (q : Queue) (stroke : Nat) : Queue × Nat :=
  let disc := min (occ q) (2 ^ q.nlog.toNat)
  let fails := (stroke :: q.failsAt).filter fun f => decide (stroke < f + 1024)
  let q1 := { q with wp := q.rp, wpx := ~~~q.rp, rpx := ~~~q.rp, ents := [], fgen := q.fgen + 1, penddrop := 0,
                     cred := { q.cred with avail := q.cred.limit },
                     resets := BitVec.ofNat 32 (satN 32 (q.resets.toNat + 1)), dropping := false, failsAt := fails,
                     enable := q.enable && decide (fails.length < 3),
                     lost := if q.cls = 1 then BitVec.ofNat 32 (satN 32 (q.lost.toNat + disc)) else q.lost }
  (q1, disc)

/-- A gap marker (R353). -/
def gapMarker (gapidx : Byte) (dropped : Nat) (stroke : W64) (size : Nat) : Bytes :=
  padTo size ([0xFF, gapidx, 0, 0] ++ leBytes 4 (satN 32 dropped) ++ leBytes 8 stroke.toNat)

/-- The marker that a class L queue gets at a reset, as its first entry (R351). -/
def resetMarker (d : Dev) (n disc : Nat) : Dev :=
  let q := queue d n
  if q.cls = 0 then
    let d := modQ d n fun q => { q with gapidx := q.gapidx + 1 }
    let q := queue d n
    let d := putEntry d n q.wp (gapMarker q.gapidx disc d.strk.count (2 ^ q.esz.toNat))
    modQ d n fun q => setWp q (q.wp + 1)
  else d

/-- Descriptor of a gauntlet's event queue (log 11). -/
def evQ (g : Nat) : Nat := 4 * g + 2
/-- Descriptor of a gauntlet's telemetry queue (log 11). -/
def tnQ (g : Nat) : Nat := 4 * g + 3

/-- Time of an event between boundaries: a free value within the stroke (log 7). -/
def timeNow (d : Dev) : Nat × Dev :=
  let (v, d) := freeVal d
  (d.strk.time.toNat + v.toNat % strokeNs d.strk.k, d)

/-- Body of an event entry after ESEQ (R477, R512). -/
def eventBody (code gnt reason stroke time inst : Nat) (detail : List Nat) : Bytes :=
  leBytes 2 code ++ leBytes 1 gnt ++ leBytes 1 reason ++ leBytes 8 stroke ++ leBytes 8 time ++ leBytes 4 inst ++
    leBytes 4 0 ++ padTo 32 (detail.flatMap (leBytes 8))

/-- Write to the event log ring; a ring that fails R348 is reset first (R351, R480). -/
def logPush (d : Dev) (body : Bytes) : Dev :=
  if qOk d.evlog then { d with evlog := rawE d.evlog body }
  else { d with evlog := rawE (resetQ d.evlog d.strk.count.toNat).1 body }

/-- QPTR event of a forced reset (R351, R477). -/
def qptrEvent (d : Dev) (q : Queue) (disc : Nat) : Bytes × Dev :=
  let (t, d) := timeNow d
  let ev := eventBody 4 q.gnt.toNat 0x50 d.strk.count.toNat t (gaunt d q.gnt.toNat).inst.toNat [q.qid.toNat, disc]
  (ev, logPush d ev)

/-- Write an event to a gauntlet's event queue. A queue that fails R348 is reset, and its QPTR event is its first entry
and goes to the event log (R351). The vector fires when the queue was empty (R381; log 12). -/
def pushEv (d : Dev) (g : Nat) (body : Bytes) : Dev :=
  let n := evQ g
  let q := queue d n
  if !q.enable then d
  else
    let d := if qOk q then modQ d n fun q => rawE q body
      else
        let (q1, disc) := resetQ q d.strk.count.toNat
        let (ev, d) := qptrEvent d q disc
        modQ d n fun _ => if q1.enable then rawE (rawE q1 ev) body else q1
    if occ q == 0 then fireVec d g 1 else d

/-- Write an entry to a class E queue held in module storage other than an event queue. -/
def pushE (d : Dev) (n v : Nat) (body : Bytes) : Dev :=
  let q := queue d n
  if !q.enable then d
  else
    let d := if qOk q then modQ d n fun q => rawE q body
      else
        let (q1, disc) := resetQ q d.strk.count.toNat
        let (ev, d) := qptrEvent d q disc
        let d := pushEv d q.gnt.toNat ev
        modQ d n fun _ => if q1.enable then rawE q1 body else q1
    if occ q == 0 then fireVec d q.gnt.toNat v else d

/-- Write an event to the event log and to the event queues of the gauntlets given (R477). -/
def event (d : Dev) (code : Nat) (g : Option Nat) (reason : Nat) (detail : List Nat) (dest : List Nat) : Dev :=
  let (t, d) := timeNow d
  let b := eventBody code (g.getD 0xFF) reason d.strk.count.toNat t
    ((g.map fun g => (gaunt d g).inst.toNat).getD 0) detail
  dest.foldl (fun d h => if (gaunt d h).present then pushEv d h b else d) (logPush d b)

/-- Every gauntlet that exists. -/
def allG (d : Dev) : List Nat := (List.range 16).filter fun g => (gaunt d g).present

/-- R162: an owner mismatch is logged, to G0 only. -/
def noteX (d : Dev) (e : XErr) : Dev :=
  match e.iso with
  | some (a, g, o) => event d 0x06 (some g) 0 [a, g, o] []
  | none => d

/-- Whether a descriptor is a host ring, and of which function (log 11). -/
def ringOf (n : Nat) : Option (Nat × Bool) :=
  if n < 64 then (if n % 4 = 0 then some (n / 4, false) else if n % 4 = 1 then some (n / 4, true) else none) else none

/-- A forced reset of a queue (R351), with its event and its further effect. Host rings are of class U (R359) and take no marker. -/
def forceReset (d : Dev) (n : Nat) : Dev :=
  let q := queue d n
  let (q1, disc) := resetQ q d.strk.count.toNat
  let d := modQ d n fun _ => q1
  let d := if (ringOf n).isSome then d else resetMarker d n disc
  let d := event d 0x04 (some q.gnt.toNat) 0x50 [q.qid.toNat, disc] [q.gnt.toNat]
  match ringOf n with
  | some (f, false) => fnErr d f 0
  | some (f, true) => fnErr (fnErr d f 0) f 1
  | none => d

/-! ### Replies (R369–R372, R381) -/

/-- Agreed feature bits. -/
def feat (d : Dev) (f bit : Nat) : Bool := (func d f).feat.toNat.testBit bit

/-- Count a reply towards vector 0 (R381). -/
def countReply (d : Dev) (f : Nat) (noirq : Bool) : Dev :=
  if noirq then d
  else
    let x := func d f
    let cnt := max 1 (fld x.intcfg.toNat 15 0)
    let hold := fld x.intcfg.toNat 31 16
    let n := x.unsig + 1
    if decide (cnt ≤ n) || !feat d f 1 then
      fireVec (modF d f fun x => { x with unsig := 0, holdRun := false }) f 0
    else modF d f fun x => { x with unsig := n, holdRun := decide (hold ≠ 0) }

/-- Bytes of a reply (R371). -/
def replyBytes (r : Reply) (ph : Nat) : Bytes :=
  leBytes 4 r.tag.toNat ++ [r.status, r.reason, r.opcode, BitVec.ofNat 8 ph] ++ leBytes 8 r.res0.toNat ++
    leBytes 8 r.res1.toNat ++ leBytes 8 r.stroke.toNat

/-- Write a reply to the completion ring of a function (R367–R369), using a credit taken at fetch. -/
def postReply (d : Dev) (f : Nat) (r : Reply) (noirq : Bool) : Dev :=
  let d := modF d f fun x => { x with reply := some r, cqHeld := x.cqHeld - 1 }
  let x := func d f
  if !x.enable then d
  else if !d.ident.up then fnErr d f 1
  else
    let n := 4 * f + 1
    let q := queue d n
    if !qOk q then forceReset d n
    else
      let ph := (q.wp.toNat / 2 ^ q.nlog.toNat + 1) % 2
      let d := hostWr d f (x.cqbase.toNat + 32 * slotOf q q.wp) (replyBytes r ph)
      let d := modQ d n fun q => setWp q (q.wp + 1)
      countReply d f noirq

/-- Record a reason code in the ERR register of the chapter it belongs to (R372, R425, R479). -/
def noteCode (d : Dev) (f op code : Nat) : Dev :=
  if decide (0x58 ≤ code) && decide (code ≤ 0x61) then
    recordErr d rHIF_ERR rHIF_ERRINFO (code - 0x58) (f + op * 16 + code * 4096)
  else if decide (0x70 ≤ code) && decide (code ≤ 0x73) then
    recordErr d rIDN_ERR rIDN_ERRINFO (code - 0x70) (f + code * 16)
  else if decide (0x88 ≤ code) && decide (code ≤ 0x8B) then setReg d rTEL_CKERR (reg d rTEL_CKERR ||| 2 ^ (code - 0x88))
  else d

/-- Answer a command: status, reason and results. -/
def reply (d : Dev) (h : HostCmd) (op status code res0 res1 : Nat) : Dev :=
  let d := noteCode d h.fn.toNat op code
  postReply d h.fn.toNat
    { tag := h.tag, status := BitVec.ofNat 8 status, reason := BitVec.ofNat 8 code, opcode := BitVec.ofNat 8 op
      res0 := BitVec.ofNat 64 res0, res1 := BitVec.ofNat 64 res1, stroke := d.strk.count } (h.flags.toNat.testBit 0)

/-- STATUS OK. -/
def replyOk (d : Dev) (h : HostCmd) (op res0 res1 : Nat) : Dev := reply d h op 0 0 res0 res1
/-- STATUS REJECTED: found invalid before any effect. -/
def replyRej (d : Dev) (h : HostCmd) (op code : Nat) : Dev := reply d h op 1 code 0 0
/-- STATUS FAILED. -/
def replyFail (d : Dev) (h : HostCmd) (op code res1 : Nat) : Dev := reply d h op 2 code 0 res1

/-- A command ends (R373): it is counted, and its ring goes on. -/
def endCmd (d : Dev) (f : Nat) : Dev := inc64 (modF d f fun x => { x with cur := none }) rHIF_CMDCNT 1

/-! ### Steps -/

/-- A step fails with a status, the first one kept (R102, R155, R164); STEPFAIL gives its admission number and the
unit (R477). It ends at the next boundary (log 13). -/
def failStep (d : Dev) (k code unitCode : Nat) : Dev :=
  match tfind d.steps k with
  | none => d
  | some st =>
    if st.st = .ended then d
    else
      let d := event d 0x08 (some st.g.toNat) code [st.adm.toNat, unitCode] [st.g.toNat]
      modStep d k fun st => { st with failing := st.failing <|> some (BitVec.ofNat 8 code, false) }

/-- An access of a step fails translation (R162, R164). -/
def failX (d : Dev) (k : Nat) (e : XErr) (unitCode : Nat) : Dev := failStep (noteX d e) k e.code unitCode

/-- Change the flags of a step. -/
def modFl (d : Dev) (k : Nat) (f : StepFlags → StepFlags) : Dev := modStep d k fun st => { st with fl := f st.fl }

/-- Unit code (R510). -/
def unitCode (cls idx : Nat) : Nat := 4096 * cls + idx

/-- A step may issue items (R34): admitted, not suspended, not failing, and no crew of it is still restoring (R399). -/
def canRun (d : Dev) (k : Nat) : Bool :=
  match tfind d.steps k with
  | some st => st.st == .admitted && st.failing.isNone && !(st.crews.any fun c => (coxOf d c).restoring)
  | none => false

/-- Serial-number order over 8 bits (R37): a mark is newer. -/
def markNewer (m c : Byte) : Bool := decide (0 < (m - c).toNat) && decide ((m - c).toNat < 128)

end Sys2Proof.Machine
end

