-- ==== Sys2Proof/Machine/Flags.lean ====
section
/-! DEFINITION. Flags and running values: what a conversion gathers (R65, R70, R72), how it is merged into a scale
record (R64, R65), the update at completion (R68), and LSTAT (R120). -/
namespace Sys2Proof.Machine

/-- The greater of two non-negative binary32 magnitudes. -/
def amaxOf (a b : Nat) : Nat := if a % 2 ^ 31 < b % 2 ^ 31 then b % 2 ^ 31 else a % 2 ^ 31

/-- A record AMAX as a merge takes it: not a non-negative finite number counts as +0 (R65). -/
def cleanAmax (a : Nat) : Nat := if isFin32 a && !a.testBit 31 then a % 2 ^ 32 else 0

/-- Gather an element y whose conversion raised `c` (R64, R65). -/
def gather (r : Running) (y : Nat) (c : Cnt) : Running :=
  { amax := if isFin32 y then BitVec.ofNat 32 (amaxOf r.amax.toNat y) else r.amax
    ovf := r.ovf + b2n (c == .ovf), unf := r.unf + b2n (c == .unf), nan := r.nan + b2n (c == .nan)
    inf := r.inf + b2n (c == .inf), elems := r.elems + 1 }

/-- A gathered element sets NONFINITE (R72). -/
def nonfin (c : Cnt) : Bool := c == .nan || c == .inf

/-- Merge of running values: maximum and saturating addition (R65, R116). -/
def mergeRun (a b : Running) : Running :=
  { amax := BitVec.ofNat 32 (amaxOf a.amax.toNat b.amax.toNat), ovf := satN 32 (a.ovf + b.ovf)
    unf := satN 32 (a.unf + b.unf), nan := satN 32 (a.nan + b.nan), inf := satN 32 (a.inf + b.inf)
    elems := a.elems + b.elems }

/-- A 32-bit field of a structure. -/
def w32At (bs : Bytes) (off : Nat) : Nat := leAt bs off 4
/-- A 64-bit field of a structure. -/
def w64At (bs : Bytes) (off : Nat) : Nat := leAt bs off 8

/-- Merge running values into a scale record (R64, R65). -/
def mergeRec (rc : Bytes) (r : Running) : Bytes :=
  let add (off n : Nat) (b : Bytes) : Bytes := patch b off (leBytes 4 (satN 32 (w32At b off + n)))
  let b := patch rc 8 (leBytes 4 (amaxOf (cleanAmax (w32At rc 8)) r.amax.toNat))
  let b := add 0x24 r.inf (add 0x20 r.nan (add 0x1C r.unf (add 0x18 r.ovf b)))
  let b := patch b 0x28 (leBytes 8 (w64At b 0x28 + r.elems))
  patch b 0x38 (leBytes 4 (w32At b 0x38 ||| b2n (decide (0 < r.nan) || decide (0 < r.inf))))

/-- A scale record's CTRL that fails a step: POLICY 2 or 3, or a reserved bit (R64). -/
def ctrlBad (ctrl : Nat) : Bool := decide (2 ≤ fld ctrl 5 4) || decide (fld ctrl 31 10 ≠ 0)

/-- FMAX of a format as an exact number (R68): magnitude and power of two. -/
def fmaxOf (fmt : Nat) : Option (Nat × Int) :=
  match fmt with
  | 0 => some (2 ^ 24 - 1, 104)
  | 1 => some (255, 120)
  | 2 => some (65504, 0)
  | 3 => some (448, 0)
  | 4 => some (57344, 0)
  | 5 => some (127, 0)
  | _ => none

/-- a × 2^i ≤ b × 2^j. -/
def leDy (a : Nat) (i : Int) (b : Nat) (j : Int) : Bool :=
  let l := min i j
  decide (a * 2 ^ (i - l).toNat ≤ b * 2 ^ (j - l).toNat)

/-- The smallest e with AMAX / 2^e ≤ FMAX / 2^MARGIN, clamped to −126 … 126 (R68), searched upwards. -/
def scaleExp (m : Nat) (e : Int) (fm : Nat) (fe : Int) (margin : Nat) : Nat → Int → Int
  | 0, x => x
  | k + 1, x => if leDy m (e - x) fm (fe - margin) then x else scaleExp m e fm fe margin k (x + 1)

/-- binary32 code of 2^e, −126 ≤ e ≤ 127. -/
def pow32 (e : Int) : Nat := (127 + e).toNat * 2 ^ 23

/-- Update of a scale record at completion of the step that wrote it (R68). -/
def completeRec (rc : Bytes) (step : Nat) : Bytes :=
  let amax := cleanAmax (w32At rc 8)
  let ctrl := w32At rc 0x14
  let old := w32At rc 0
  let b := match fld ctrl 5 4, fmaxOf (fld ctrl 3 0), v32 amax with
    | 1, some (fm, fe), .fin _ m e =>
      if m = 0 then rc
      else
        let x := scaleExp m e fm fe (fld ctrl 9 6) 252 (-126)
        patch (patch rc 0 (leBytes 4 (pow32 x))) 4 (leBytes 4 (pow32 (-x)))
    | _, _, _ => rc
  let auto := b2n (w32At b 0 != old)
  let st := w32At b 0x38
  let b := patch b 0x38 (leBytes 4 (st - st % 4 + st % 2 + 2 * auto))
  patch (patch (patch b 0xC (leBytes 4 amax)) 8 (leBytes 4 0)) 0x30 (leBytes 8 step)

end Sys2Proof.Machine
end

