-- ==== Sys2Proof/Machine/Operands.lean ====
section
/-! DEFINITION. Operand forms: fields of lane-core instructions (R111, R116, R117, R122, R123, R126) and of seat
commands (R84–R87), lane-core registers (R108, R120), tile and window accesses (R106, R117, R126), and the operands
of matrix products (R52, R80). -/
namespace Sys2Proof.Machine

/-! ### Lane-core instruction fields -/

/-- Opcode of a lane-core instruction (R111). -/
def lOp (w : LaneWord) : Nat := fld w.toNat 5 0
/-- Bits [10:6]. -/
def lRd (w : LaneWord) : Nat := fld w.toNat 10 6
/-- Bits [15:11]. -/
def lRs1 (w : LaneWord) : Nat := fld w.toNat 15 11
/-- Bits [20:16]. -/
def lRs2 (w : LaneWord) : Nat := fld w.toNat 20 16
/-- Bits [25:21]. -/
def lRs3 (w : LaneWord) : Nat := fld w.toNat 25 21
/-- Bits [31:26]. -/
def lFunc (w : LaneWord) : Nat := fld w.toNat 31 26
/-- Bits [31:16]. -/
def lImm (w : LaneWord) : Nat := fld w.toNat 31 16

/-- Opcodes that R112 defines. -/
def lOpDefined (o : Nat) : Bool :=
  (decide (1 ≤ o) && decide (o ≤ 0x0C)) || (decide (0x10 ≤ o) && decide (o ≤ 0x12)) || (decide (0x18 ≤ o) && decide (o ≤ 0x1A)) ||
  o == 0x1C || o == 0x1D || (decide (0x20 ≤ o) && decide (o ≤ 0x22)) || o == 0x3F

/-- Reserved func, cond and fields of each opcode (R112; R116, R117, R122, R123, R126): the word is
legal. A register field of the format that the operation does not use is ignored (log 20). -/
def lLegal (w : LaneWord) : Bool :=
  let x := w.toNat
  let f := lFunc w
  match lOp w with
  | 0x01 => decide (f ≤ 17)
  | 0x02 | 0x03 | 0x04 | 0x05 | 0x07 => true
  | 0x06 => decide (fld (lImm w) 6 5 ≤ 2)
  | 0x08 => decide (f ≤ 9)
  | 0x09 => decide (f ≤ 3)
  | 0x0A => decide (f ≤ 8)
  | 0x0B => fld x 31 29 == 0
  | 0x0C => decide (f ≤ 8)
  | 0x10 | 0x11 =>
    let acc := x.testBit 20
    let size := fld x 22 21
    let fmt := fld x 26 23
    (!acc || (!x.testBit 19 && decide (2 ≤ size) && fmt == 0)) && (size != 3 || lRd w % 2 == 0) &&
    (if lOp w = 0x11 then fmt == 0
     else fmt == 0 || ((fmt == 1 || fmt == 2) && size == 1) || ((fmt == 3 || fmt == 4 || fmt == 5) && size == 0))
  | 0x12 => fld x 31 21 == 0
  | 0x18 => decide (fld x 18 16 ≤ 5)
  | 0x19 | 0x1A | 0x1C | 0x1D => true
  | 0x20 => fld x 31 23 == 0 && fld x 22 21 != 3
  | 0x21 => fld x 31 24 == 0 && fld x 22 21 != 3 && !(x.testBit 15 && x.testBit 14)
  | 0x22 | 0x3F => fld x 31 6 == 0
  | _ => false

/-! ### Lane-core registers -/

/-- A lane core of a seat, by its logical number. -/
def laneOf (s : Seat) (n : Nat) : LaneCore := tget LaneCore.reset s.lanes n

/-- Change a lane core. -/
def modLane (d : Dev) (u n : Nat) (f : LaneCore → LaneCore) : Dev :=
  modSeat d u fun s => { s with lanes := tput s.lanes n (f (laneOf s n)) }

/-- A general register: g0 reads 0 (R108). -/
def gReg (x : LaneCore) (i : Nat) : Nat := if i = 0 then 0 else (tget (0 : W32) x.g i).toNat

/-- Write a general register: writes to g0 are discarded (R108). -/
def gSet (x : LaneCore) (i v : Nat) : LaneCore :=
  if i = 0 then x else { x with g := tset (0 : W32) x.g i (BitVec.ofNat 32 v) }

/-- Set sticky flags of LSTAT (R120). -/
def lFlag (x : LaneCore) (f : Nat) : LaneCore := { x with lstat := x.lstat ||| BitVec.ofNat 6 f }

/-- The shared special registers as a lane sees them: lane 0 its own writes, the others what the last BAR showed
(R120). -/
def sharedFor (s : Seat) (n : Nat) : LaneShared := if n = 0 then s.shared else s.seen

/-- Read a special register (R120); a register that is not defined reads zero (R12). -/
def csrRead (s : Seat) (n : Nat) (x : LaneCore) (i : Nat) : Nat :=
  let h := sharedFor s n
  match i with
  | 0x00 => n
  | 0x01 => s.kctx.toNat
  | 0x02 => x.lstat.toNat
  | 0x03 => x.lidxLo.toNat
  | 0x04 => x.lidxHi.toNat
  | 0x05 => x.cycle.toNat
  | 0x08 => h.vl.toNat
  | 0x09 => h.lfill.toNat
  | 0x10 => h.wbase.toNat
  | 0x11 => h.wpitch.toNat
  | 0x12 => h.wdim.toNat
  | 0x13 => h.wgeom.toNat
  | 0x14 => h.wfmt.toNat
  | 0x15 => h.wpad.toNat
  | _ => 0

/-- VL as it is held: [5:0] 1–32, 0 written as 1 and values above 32 as 32 (R120). -/
def vlHeld (v : Nat) : Nat := let x := fld v 5 0; if x = 0 then 1 else min x 32

/-- Write a shared special register; reserved fields read zero (R8). -/
def sharedWrite (h : LaneShared) (i v : Nat) : LaneShared :=
  let w := BitVec.ofNat 32 v
  match i with
  | 0x08 => { h with vl := BitVec.ofNat 32 (vlHeld v) }
  | 0x09 => { h with lfill := w }
  | 0x10 => { h with wbase := w }
  | 0x11 => { h with wpitch := w }
  | 0x12 => { h with wdim := w }
  | 0x13 => { h with wgeom := BitVec.ofNat 32 (fld v 23 0) }
  | 0x14 => { h with wfmt := BitVec.ofNat 32 (fld v 3 0) }
  | 0x15 => { h with wpad := w }
  | _ => h

/-- Write a per-lane special register: LSTAT by W1C, LIDXB by value; the others ignore writes (R120). -/
def laneCsrWrite (x : LaneCore) (i v : Nat) : LaneCore :=
  match i with
  | 0x02 => { x with lstat := x.lstat &&& ~~~(BitVec.ofNat 6 v) }
  | 0x03 => { x with lidxLo := BitVec.ofNat 32 v }
  | 0x04 => { x with lidxHi := BitVec.ofNat 32 v }
  | _ => x

/-! ### Seat command fields -/

/-- Opcode of a seat command (R84). -/
def cOp (w : SeatWord) : Nat := fld w.toNat 5 0
/-- A field of a seat command, by its bit numbers in the tables of R85–R87. -/
def cF (w : SeatWord) (hi lo : Nat) : Nat := fld w.toNat hi lo

/-- Accumulator tiles named by ACCRD, ACCWR and registers named by TRD, TWR of a LANE command (R87). -/
def kAccRd (w : SeatWord) : Nat := cF w 13 6
/-- ACCWR. -/
def kAccWr (w : SeatWord) : Nat := cF w 21 14
/-- TRD. -/
def kTRd (w : SeatWord) : Nat := cF w 37 22
/-- TWR. -/
def kTWr (w : SeatWord) : Nat := cF w 53 38

/-! ### Tile accesses of lane cores (R106, R117) -/

/-- The masks of the LANE command allow an access to a tile (R106). -/
def scopeOk (s : Seat) (acc : Bool) (tile : Nat) (wr : Bool) : Bool :=
  let w := s.kword
  if acc then (kAccWr w).testBit tile || (!wr && (kAccRd w).testBit tile)
  else (kTWr w).testBit tile || (!wr && (kTRd w).testBit tile)

/-- First byte of a tile named by a lane-core instruction. -/
def tileBase (u : Nat) (acc : Bool) (tile : Nat) : Nat := if acc then accBase u tile else tregBase u tile

/-- Where TLD and TST go: base, byte offset, bytes; or the reason code they fail with (R117, R129). -/
def tileAccess (s : Seat) (u : Nat) (x : LaneCore) (w : LaneWord) (wr : Bool) : Except Nat (Nat × Nat) :=
  let v := w.toNat
  let acc := v.testBit 20
  let tile := if acc then fld v 18 16 else fld v 19 16
  let size := fld v 22 21
  let idx := gReg x (lRs1 w) + fld v 31 27
  let es := if size = 0 then 1 else if size = 1 then 2 else 4
  let n := if size = 3 then 8 else es
  if size = 3 ∧ idx % 2 = 1 then .error 0x08
  else if !scopeOk s acc tile wr then .error 0x05
  else if 16384 < idx * es + n then .error 0x04
  else .ok (tileBase u acc tile + idx * es, n)

/-- An element widened as TLD widens it (R117). -/
def widen (fmt : Nat) (x : Nat) : Nat :=
  match fmt with
  | 1 => (pack32 (bf16.unpack x)).1
  | 2 => (pack32 (half16.unpack x)).1
  | 3 => (pack32 (e4m3.unpack x)).1
  | 4 => (pack32 (e5m2.unpack x)).1
  | 5 => wrapZ 32 (sext 8 x)
  | _ => x

/-- WLD (R126): the value delivered, or the reason code it fails with. `base` is the region's first byte in the
compute half and `span` its size. -/
def windowLoad (d : Dev) (h : LaneShared) (base span : Nat) (rp rt : Nat) : Except Nat Nat :=
  let g := h.wgeom.toNat
  let sx := fld g 3 0
  let sy := fld g 7 4
  let dx := fld g 11 8
  let dy := fld g 15 12
  let fmt := fld h.wfmt.toNat 3 0
  let ok (v : Nat) := decide (1 ≤ v) && decide (v ≤ 8)
  if !(ok sx && ok sy && ok dx && ok dy && decide (fmt ≤ 5)) then .error 0x08
  else
    let iy : Int := (fld rp 31 16 * sy : Nat) - (fld g 23 20 : Nat) + (fld rt 7 4 * dy : Nat)
    let ix : Int := (fld rp 15 0 * sx : Nat) - (fld g 19 16 : Nat) + (fld rt 3 0 * dx : Nat)
    let W : Int := (fld h.wdim.toNat 15 0 : Nat)
    let H : Int := (fld h.wdim.toNat 31 16 : Nat)
    if iy < 0 ∨ H ≤ iy ∨ ix < 0 ∨ W ≤ ix then .ok h.wpad.toNat
    else
      let es := fmtBits fmt / 8
      let off := h.wbase.toNat + (iy.toNat * h.wpitch.toNat + ix.toNat) * es
      if span < off + es then .error 0x04
      else
        let x := peekN d (base + off) es
        .ok (if fmt = 5 then ofInt32 (sext 8 x) else if fmt = 0 then x else widen fmt x)

/-! ### Seat regions and operands (R78, R80, R81) -/

/-- BASE and SIZE of a context's region in bytes (R78, R104). -/
def regionOf (s : Seat) (c : Nat) : Nat × Nat :=
  let v := s.scrcfg.toNat
  (fld v (16 * c + 7) (16 * c) * 65536, fld v (16 * c + 15) (16 * c + 8) * 65536)

/-- An accumulator tile is allocated to a context (SEAT_ACCCFG, R104). -/
def accOwned (s : Seat) (c i : Nat) : Bool :=
  let v := s.acccfg.toNat
  v.testBit (4 * i + 3) && fld v (4 * i + 1) (4 * i) == c
/-- An accumulator tile is in mapped mode (R90). -/
def accMapped (s : Seat) (i : Nat) : Bool := s.acccfg.toNat.testBit (4 * i + 2)
/-- A tile register is allocated to a context (SEAT_TREGCFG). -/
def tregOwned (s : Seat) (c n : Nat) : Bool :=
  let v := s.tregcfg.toNat
  v.testBit (4 * n + 3) && fld v (4 * n + 1) (4 * n) == c

/-- The accumulator of a pairing (R54): 1 FP32, 2 INT32; none where the pairing is not allowed. -/
def pairing (fa fb split : Nat) : Option Nat :=
  if fa = 0 then (if split ≠ 0 ∧ split ≠ 3 ∧ (fb = 0 ∨ fb = 1) then some 1 else none)
  else if split ≠ 0 then none
  else if fa = 1 ∧ fb = 1 then some 1
  else if fa = 2 ∧ fb = 2 then some 1
  else if (fa = 3 ∨ fa = 4) ∧ (fb = 3 ∨ fb = 4 ∨ fb = 7) then some 1
  else if fa = 5 ∧ (fb = 5 ∨ fb = 6) then some 2
  else none

/-- The k-block of a pairing (R54). -/
def kblockOf (fa : Nat) : Nat := if fa = 3 ∨ fa = 4 ∨ fa = 5 then 128 else 64

/-- Bytes of an operand of depth K: 64 elements for each k, 4-bit elements packed (R52, R80). -/
def operandBytes (fmt k : Nat) : Nat := k * 64 * fmtBits fmt / 8

/-- One element of an operand stored k-major at a byte address: element i of depth k (R80). -/
def operandElem (d : Dev) (base fmt k i : Nat) : Nat :=
  if fmtBits fmt = 4 then
    let b := peekN d (base + k * 32 + i / 2) 1
    if i % 2 = 0 then b % 16 else b / 16
  else peekN d (base + (k * 64 + i) * (fmtBits fmt / 8)) (fmtBits fmt / 8)

end Sys2Proof.Machine
end

