-- ==== Sys2Proof/Machine/SeatOps.lean ====
section
/-! DEFINITION. What the seat and lane-core meanings share: failing a context (R102), releasing its resources (R89,
R511), kernels (R108, R109), scale slots and their records (R63, R65, R95). -/
namespace Sys2Proof.Machine

/-- Clear the 4-bit fields of the positions given. -/
def clearNib (v : Nat) (l : List Nat) : Nat := l.foldl (fun a i => a - (fld a (4 * i + 3) (4 * i)) * 2 ^ (4 * i)) v

/-- Release the tiles of a context: allocations cleared, kinds empty (R89, R102). -/
def releaseTiles (s : Seat) (c : Nat) : Seat :=
  let acc := (List.range 8).filter (accOwned s c)
  let trg := (List.range 16).filter (tregOwned s c)
  { s with
    acccfg := BitVec.ofNat 32 (clearNib s.acccfg.toNat acc)
    tregcfg := BitVec.ofNat 64 (clearNib s.tregcfg.toNat trg)
    tiles := acc.foldl (fun t i => tput t i { tileOf s i with kind := 0, rerun := false, landed := true, mma := false }) s.tiles
    flights := s.flights.filter fun f => f.ctx.toNat != c
    drains := s.drains.filter fun q => q.ctx.toNat != c
    kloops := s.kloops.filter fun k => k.2.ctx.toNat != c }

/-- Stop the kernel of a seat: every lane core stops (R129). -/
def stopKernel (s : Seat) : Seat :=
  { s with krun := false, lanes := tmap (fun _ x => { x with halted := true, wait := none }) s.lanes }

/-- The rest of a context's queue is discarded and its tiles are released (R102). -/
def dropCtx (s : Seat) (c : Nat) : Seat :=
  let s := releaseTiles s c
  let s := if s.krun ∧ s.kctx.toNat = c then stopKernel s else s
  { s with ctxs := tput s.ctxs c { ctxOf s c with queue := [], todo := [], failed := true, waitTok := false, waitCred := false,
                                                  waitSb := false } }

/-! ### Items under way (R27) -/

/-- An item starts. -/
def itemStart (d : Dev) (k kind uc sub : Nat) : Dev :=
  modStep d k fun st =>
    if st.items.any fun i => i.kind == kind && i.unitCode.toNat == uc && i.sub == sub then st
    else { st with items := st.items ++ [{ kind := kind, unitCode := BitVec.ofNat 16 uc, sub := sub, seen := 0 }] }

/-- An item ends. -/
def itemEnd (d : Dev) (k kind uc sub : Nat) : Dev :=
  modStep d k fun st =>
    { st with items := st.items.filter fun i => !(i.kind == kind && i.unitCode.toNat == uc && i.sub == sub) }

/-- A context fails (R102): SEAT_ERR and SEAT_ERRINFO, the step's failure with its event, the queue and the tiles. -/
def seatFail (d : Dev) (u c op code : Nat) : Dev :=
  let d := recordErr d (seatPage u + rSEAT_ERR) (seatPage u + rSEAT_ERRINFO) code (c + op * 4 + code * 256)
  let k := (ctxOf (seatOf d u) c).step
  let d := modSeat d u fun s => dropCtx s c
  match k with
  | some k => itemEnd (failStep d k code (unitCode 0 u)) k 1 (unitCode 0 u) c
  | none => d

/-- The kernel of a seat fails (R129). -/
def kernFail (d : Dev) (u code : Nat) : Dev := seatFail d u (seatOf d u).kctx.toNat 0x06 code

/-- An operation of a seat for the step of a context. -/
def stepOfCtx (d : Dev) (u c : Nat) : Option Step :=
  match (ctxOf (seatOf d u) c).step with
  | some k => tfind d.steps k
  | none => none

/-- A scale slot of a context (R95). -/
def slotOfCtx (x : Ctx) (i : Nat) : ScaleSlot := tget ScaleSlot.reset x.slots i

/-- Change a scale slot. -/
def modSlot (d : Dev) (u c i : Nat) (f : ScaleSlot → ScaleSlot) : Dev :=
  modCtx d u c fun x => { x with slots := tput x.slots i (f (slotOfCtx x i)) }

/-- A step has written a scale record (R68). -/
def noteRec (d : Dev) (k : Nat) (va : W64) : Dev :=
  if va = 0 then d
  else modStep d k fun st => if st.recsWritten.contains va then st else { st with recsWritten := st.recsWritten ++ [va] }

/-- The step of a context has converted into the record of a slot (R68); NONFINITE where a gathered element asks for
it (R72). -/
def noteConv (d : Dev) (u c i : Nat) (nonfinite : Bool) : Dev :=
  let x := ctxOf (seatOf d u) c
  match x.step with
  | none => d
  | some k =>
    let d := noteRec d k (slotOfCtx x i).recVa
    if nonfinite then modFl d k fun f => { f with nonfinite := true } else d

/-- Merge running values into the record at a VA (R65); an access that fails fails the step. -/
def mergeInto (d : Dev) (k g va : Nat) (r : Running) (uc : Nat) : Dev :=
  if va = 0 ∨ r = Running.reset then d
  else match vaRead d g va 64 with
    | .error e => failX d k e uc
    | .ok b => match vaWrite d g va (mergeRec b r) with
      | .error e => failX d k e uc
      | .ok d => d

/-- Merge the running values of a context's slots into their records when a token covers the writes (R65), and clear
them. A stale grant's values are dropped (R66). -/
def mergeSlots (d : Dev) (u c : Nat) (keep : Bool) : Dev :=
  let x := ctxOf (seatOf d u) c
  let d := match x.step with
    | none => d
    | some k => match tfind d.steps k with
      | none => d
      | some st => if keep then
          x.slots.foldl (fun d p => mergeInto d k st.g.toNat p.2.recVa.toNat p.2.run (unitCode 0 u)) d
        else d
  modCtx d u c fun x => { x with slots := tmap (fun _ p => { p with run := Running.reset }) x.slots }

/-- The state of a lane core at kernel start (R108, R120). -/
def laneStart (n entry arg : Nat) (base : W64) : LaneCore :=
  let x := { LaneCore.reset with pc := entry, halted := false, lidxLo := BitVec.ofNat 32 base.toNat,
                                 lidxHi := BitVec.ofNat 32 (base.toNat / 2 ^ 32) }
  gSet (gSet x 1 n) 2 arg

/-- Start a kernel on the 32 lane cores (R87, R108). -/
def startKernel (s : Seat) (c : Nat) (w : SeatWord) (base : W64) : Seat :=
  let h := { s.shared with vl := 32, lfill := 0 }
  { s with krun := true, kctx := BitVec.ofNat 2 c, kword := w, shared := h, seen := h
           lanes := (List.range 32).map fun n => (n, laneStart n (cF w 95 64) (cF w 127 96) base) }

end Sys2Proof.Machine
end

