-- ==== Sys2Proof/Machine/Prog.lean ====
section
/-! DEFINITION. The structures of a step program as the cox holds them (R131–R143, R188, R198, R221): their fields, the
grids and skipped tiles of R136 and R145, the counters of a crew (R146, R156), and walk lists (R219, R222). -/
namespace Sys2Proof.Machine

/-! ### Step header (R131) -/

/-- A program with nothing in it: what an ended step's key stands for. -/
def Prog.none : Prog :=
  { hdr := [], jobsets := [], tmpls := [], streams := [], scales := [], lens := [], bind := [], ctxres := [], access := []
    convs := [], stems := [], walks := [], embs := [], disp := [], copies := [], buckets := [], ingests := []
    group := Option.none, capt := [], plist := [], recs0 := [] }

/-- The program of a step. -/
def progOf (st : Step) : Prog := st.prog.getD Prog.none

/-- STEPNUM. -/
def pStepnum (p : Prog) : Nat := w64At p.hdr 0
/-- BUDGET. -/
def pBudget (p : Prog) : Nat := leAt p.hdr 8 2
/-- CTXMASK[3:0]. -/
def pCtxs (p : Prog) : List Nat := setBits 4 (leAt p.hdr 0xB 1)
/-- Context slot of a step in the cox registers: its lowest context (log 23). -/
def pSlot (p : Prog) : Nat := ((pCtxs p).head?).getD 0

/-! ### Job sets (R135) -/

/-- Entry of a job set. -/
def jsOf (p : Prog) (j : Nat) : Bytes := p.jobsets.getD j []
/-- CFG. -/
def jsCfg (b : Bytes) : Nat := w32At b 8
/-- NTMPL. -/
def jsNtmpl (b : Bytes) : Nat := fld (jsCfg b) 4 0
/-- Step-local counter number. -/
def jsWcnt (b : Bytes) : Nat := fld (jsCfg b) 10 5
/-- BARRIER. -/
def jsBarrier (b : Bytes) : Bool := (jsCfg b).testBit 11
/-- PL. -/
def jsPl (b : Bytes) : Bool := (jsCfg b).testBit 12
/-- CREWAX. -/
def jsCrewax (b : Bytes) : Nat := fld (jsCfg b) 14 13
/-- ROWAX. -/
def jsRowax (b : Bytes) : Nat := fld (jsCfg b) 16 15
/-- COLAX. -/
def jsColax (b : Bytes) : Nat := fld (jsCfg b) 18 17
/-- KLEN. -/
def jsKlen (b : Bytes) : Nat := fld (jsCfg b) 22 19
/-- GS, 0 read as 1. -/
def jsGs (b : Bytes) : Nat := max 1 (fld (jsCfg b) 26 23)
/-- GD, 0 read as 1. -/
def jsGd (b : Bytes) : Nat := max 1 (fld (jsCfg b) 31 27)
/-- NT of an axis. -/
def jsNt (b : Bytes) (a : Nat) : Nat := w32At b (0x10 + 4 * a)
/-- TSZ of an axis. -/
def jsTsz (b : Bytes) (a : Nat) : Nat := leAt b (0x1C + 2 * a) 2
/-- SKL. -/
def jsSkl (b : Bytes) : Nat := leAt b 0x22 2
/-- Length selector of an axis. -/
def jsLsel (b : Bytes) (a : Nat) : Nat := fld (jsSkl b) (4 * a + 3) (4 * a)
/-- RSSEL. -/
def jsRssel (b : Bytes) : Nat := fld (jsSkl b) 13 12
/-- Stream descriptor of a slot: S0–S3 are 0–3, SR is 4; none where VALID is clear. -/
def jsStream (b : Bytes) (i : Nat) : Option Nat :=
  let v := w64At b 0x30
  if v.testBit (50 + i) then some (fld v (10 * i + 9) (10 * i)) else none

/-! ### Stream descriptors (R138) -/

/-- A stream descriptor. -/
def sdOf (p : Prog) (n : Nat) : Bytes := p.streams.getD n []
/-- CTL. -/
def sdCtl (b : Bytes) : Nat := w32At b 8
/-- FMT. -/
def sdFmt (b : Bytes) : Nat := fld (sdCtl b) 3 0
/-- NDIM. -/
def sdNdim (b : Bytes) : Nat := fld (sdCtl b) 6 4
/-- NBLK. -/
def sdNblk (b : Bytes) : Nat := fld (sdCtl b) 31 16
/-- First block slot, in bytes from the region base. -/
def sdSoff (b : Bytes) : Nat := fld (w32At b 0x10) 14 0 * 64
/-- Dimension entry. -/
def sdDim (b : Bytes) (k : Nat) : Nat := leAt b (0x30 + 16 * k) 16
/-- LSEL of a dimension. -/
def sdLsel (b : Bytes) (k : Nat) : Nat := fld (w32At b 0x14) (4 * k + 3) (4 * k)
/-- PSEL of a dimension. -/
def sdPsel (b : Bytes) (k : Nat) : Nat := fld (w32At b 0x14) (2 * k + 21) (2 * k + 20)
/-- SIZE of a dimension; 1 for one that is not used. -/
def sdSize (b : Bytes) (k : Nat) : Nat := if k < sdNdim b then fld (sdDim b k) 51 36 else 1
/-- Elements of a block. -/
def sdElems (b : Bytes) : Nat := (List.range (sdNdim b)).foldl (fun a k => a * sdSize b k) 1
/-- Bytes of a block slot (R139). -/
def sdBlk (b : Bytes) : Nat := alignUp ((sdElems b * fmtBits (sdFmt b) + 7) / 8) 64

/-- Index vector of an element of a block, e[0] fastest (R139). -/
def sdIndex (b : Bytes) (lin : Nat) : List Nat :=
  ((List.range (sdNdim b)).foldl (fun (a : Nat × List Nat) k => (a.1 / sdSize b k, a.2 ++ [a.1 % sdSize b k])) (lin, [])).2

/-- Position p[d] of an element (R139). -/
def sdPos (b : Bytes) (i : List Nat) (blk k e : Nat) : Int :=
  let x := sdDim b k
  let gax := fld x 54 52
  sext 8 (fld x 63 56) + ((if gax = 7 then 0 else fld x 111 96 * i.getD gax 0) + fld x 127 112 * blk + e : Nat)

/-! ### Lengths, pointer lists and grids (R136, R143, R145) -/

/-- Key of a pointer-list entry in `Prog.plist`. -/
def plKey (j i2 : Nat) : Nat := j * 2 ^ 32 + i2

/-- The pointer-list entry of a tile, as the cox holds it or as memory holds it (R132, R143). -/
def plEntry (d : Dev) (g : Nat) (p : Prog) (j i2 : Nat) : Except XErr Bytes :=
  let b := jsOf p j
  if !jsPl b then .ok []
  else match tfind p.plist (plKey j i2) with
    | some e => .ok e
    | none => vaRead d g ((w64At b 0x28 + 64 * i2) % 2 ^ 64) 64

/-- The length that a selector names for a tile (R143): none where it names none. -/
def lenOf (p : Prog) (b ent : Bytes) (sel : Nat) : Option Nat :=
  if sel = 0 then none
  else if jsPl b && decide (sel ≤ 4) then some (w32At ent (0x20 + 4 * (sel - 1)))
  else some (((p.lens.getD (sel - 1) 0)).toNat)

/-- Part of a crew along CREWAX (R136): first coordinate and size. -/
def crewPart (st : Step) (b : Bytes) (crew : Nat) : Nat × Nat :=
  let nt := jsNt b (jsCrewax b)
  if jsGd b ≠ 1 then (0, nt)
  else
    let c := st.crews.length
    let r := (st.crews.findIdx (· == crew))
    let lo := (r * nt + c - 1) / c
    let hi := ((r + 1) * nt + c - 1) / c
    (lo, hi - lo)

/-- Sizes of a crew's part of the grid. -/
def gridOf (st : Step) (b : Bytes) (crew : Nat) : List Nat :=
  (List.range 3).map fun a => if a = jsCrewax b then (crewPart st b crew).2 else jsNt b a

/-- Index count of the crew's grid (R146). -/
def gridSize (st : Step) (b : Bytes) (crew : Nat) : Nat := (gridOf st b crew).foldl (· * ·) 1

/-- Global coordinates of an index (R136). -/
def coordsOf (st : Step) (b : Bytes) (crew t : Nat) : List Nat :=
  let n := gridOf st b crew
  let n0 := n.getD 0 1
  let n1 := n.getD 1 1
  let c := [t % n0, t / n0 % n1, t / (n0 * n1)]
  let (lo, _) := crewPart st b crew
  (List.range 3).map fun a => c.getD a 0 + (if a = jsCrewax b then lo else 0)

/-- A tile is skipped (R145). -/
def skipped (d : Dev) (st : Step) (j crew t : Nat) : Except XErr Bool :=
  let p := progOf st
  let b := jsOf p j
  let i := coordsOf st b crew t
  if jsLsel b 0 = 0 ∧ jsLsel b 1 = 0 ∧ jsLsel b 2 = 0 then .ok false
  else match plEntry d st.g.toNat p j (i.getD 2 0) with
    | .error e => .error e
    | .ok ent => .ok ((List.range 3).any fun a =>
        match lenOf p b ent (jsLsel b a) with
        | none => false
        | some l => decide (l ≤ i.getD a 0 * jsTsz b a))

/-- The first index from `t` on, below the end, that is not skipped; how many were (R147). -/
def skipFrom (d : Dev) (st : Step) (j crew : Nat) : Nat → Nat → Nat → Except XErr (Nat × Nat)
  | 0, t, n => .ok (t, n)
  | k + 1, t, n =>
    match skipped d st j crew t with
    | .error e => .error e
    | .ok false => .ok (t, n)
    | .ok true => skipFrom d st j crew k (t + 1) (n + 1)

/-! ### Work counters (R146, R151) -/

/-- Key of a shared counter in its die's table: step key and job set. -/
def dieKey (k j : Nat) : Nat := 64 * k + j

/-- A work counter as the crew sees it: its own, or the shared one it is bound to. -/
def cntGet (d : Dev) (crew n : Nat) : WCnt :=
  let x := coxOf d crew
  let c := cntOf x n
  if c.die then
    let k := tget 0 x.slots c.slot.toNat
    { tget WCnt.reset (tget [] d.dies (crew / 16)) (dieKey k c.jobset) with
      jobset := c.jobset, slot := c.slot, active := c.active, die := true, done := c.done }
  else c

/-- Change the shared part of a work counter. -/
def cntMod (d : Dev) (crew n : Nat) (f : WCnt → WCnt) : Dev :=
  let x := coxOf d crew
  let c := cntOf x n
  if c.die then
    let t := tget [] d.dies (crew / 16)
    let key := dieKey (tget 0 x.slots c.slot.toNat) c.jobset
    { d with dies := tput d.dies (crew / 16) (tput t key (f (tget WCnt.reset t key))) }
  else modCox d crew fun x => { x with counters := tput x.counters n (f (cntOf x n)) }

/-- Exhausted: NEXT has reached END and no re-grant is pending (R147). -/
def cntEmpty (c : WCnt) : Bool := decide (c.fin ≤ c.next) && c.regrant.isEmpty

/-- The crew counter that serves a job set of the step in a slot. -/
def cntOfJs (x : Cox) (slot j : Nat) : Option Nat :=
  (x.counters.find? fun p => p.2.active && p.2.slot.toNat == slot && p.2.jobset == j).map (·.1)

/-- The job set that a step-local counter number serves. -/
def jsOfWcnt (p : Prog) (w : Nat) : Option Nat := (p.jobsets.findIdx? fun b => jsWcnt b == w)

/-- The job sets of a bound context, in the order of its list (R134). -/
def boundJs (p : Prog) (seat c : Nat) : List Nat :=
  let w := ((p.bind.getD (4 * seat + c) 0)).toNat
  if seat < 8 ∧ (pCtxs p).contains c then
    (List.range 4).filterMap fun i => if w.testBit (24 + i) then jsOfWcnt p (fld w (6 * i + 5) (6 * i)) else none
  else []

/-- The physical seat that carries a logical number in a crew (R16). -/
def physOf (d : Dev) (crew l : Nat) : Option Nat :=
  (List.range 9).find? fun s => (seatOf d (16 * crew + s)).logical.toNat == l && decide (l < 8)

/-- The contexts bound to a job set in a crew, in ascending logical seat, then context (R151): physical seat number
and context. -/
def boundCtxs (d : Dev) (p : Prog) (crew j : Nat) : List (Nat × Nat) :=
  (List.range 8).flatMap fun l => (List.range 4).filterMap fun c =>
    if (boundJs p l c).contains j then (physOf d crew l).map fun s => (16 * crew + s, c) else none

/-- The multicast groups of a job set in a crew (R151). -/
def groupsOf (l : List (Nat × Nat)) (gs : Nat) : List (List (Nat × Nat)) :=
  (List.range (l.length / gs)).map fun i => (l.drop (i * gs)).take gs

/-- Every context of the group of a context: the crew's members, and for a die group those of the other crews in
ascending crew number. Empty where there is no group, or where the seat of a member is fenced (R154). -/
def groupOf (d : Dev) (st : Step) (j crew u c : Nat) : List (Nat × Nat) :=
  let p := progOf st
  let b := jsOf p j
  if jsGs b = 1 ∧ jsGd b = 1 then []
  else
    let l := if jsGd b = 1 then
        ((groupsOf (boundCtxs d p crew j) (jsGs b)).find? fun g => g.contains (u, c)).getD []
      else st.crews.flatMap fun cr => (boundCtxs d p cr j).take (jsGs b)
    if l.any fun m => (seatOf d m.1).fenced then [] else l

/-- A job set's grants wait for an engine of the step: a bucket not released (R276), a copy collective not complete
(R270), an ingest descriptor not complete (R287), an embedding job that has not landed (R236), a dispatch round before its compute or after its combine (R244). -/
def jsWaits (st : Step) (j : Nat) : Bool :=
  let p := progOf st
  (st.buckets.any fun b => !b.released && fld (w32At b.desc 0x1C) 20 13 == j) ||
  (st.ings.any fun c => !c.2.complete && fld (w32At (p.ingests.getD c.1 []) 0x30) 13 6 == j) ||
  (st.copies.any fun c => !c.2.complete && leAt (p.copies.getD c.1 []) 2 1 == j) ||
  ((List.range p.embs.length).any fun i => leAt (p.embs.getD i []) 7 1 == j && !((tfind st.embs i).any fun e => e.landed)) ||
  (match st.round, p.disp.head? with
    | some r, some b => (leAt b 0x45 1 == j && decide (r.phase < 4)) || (leAt b 0x46 1 == j && decide (r.phase < 6))
    | _, _ => false)

/-! ### Walks (R219–R224, R228) -/

/-- Fields of a walk descriptor (R221). -/
def wkMode (w : Bytes) : Nat := leAt w 0 1
/-- JS. -/
def wkJs (w : Bytes) : Nat := leAt w 1 1
/-- TABID. -/
def wkTab (w : Bytes) : Nat := fld (leAt w 2 2) 9 0
/-- STRM. -/
def wkStrm (w : Bytes) : Nat := w32At w 4
/-- RSTART and REND. -/
def wkRpt (w : Bytes) : Nat × Nat := (fld (leAt w 8 1) 3 0, fld (leAt w 8 1) 7 4)
/-- NSLOT. -/
def wkNslot (w : Bytes) : Nat := leAt w 9 1
/-- NSTAGE. -/
def wkNstage (w : Bytes) : Nat := leAt w 0xA 1
/-- WIN. -/
def wkWin (w : Bytes) : Nat := leAt w 0xC 2
/-- NSEL. -/
def wkNsel (w : Bytes) : Nat := leAt w 0xE 2
/-- NAPP. -/
def wkNapp (w : Bytes) : Nat := w32At w 0x38

/-- A walk of a step. -/
def walkOf (p : Prog) (i : Nat) : Bytes := p.walks.getD i []

/-- The reading walk of a job set (log 24): the first descriptor of mode 0 or 1 that names it. -/
def walkFor (p : Prog) (j : Nat) : Option Nat := p.walks.findIdx? fun w => decide (wkMode w ≤ 1) && wkJs w == j

/-- The captured LEN of a walk's table (R211). -/
def captLen (p : Prog) (i : Nat) : Nat := ((p.capt.find? fun x => x.1 == i).map (·.2.2.toNat)).getD 0
/-- The captured GEN. -/
def captGen (p : Prog) (i : Nat) : Nat := ((p.capt.find? fun x => x.1 == i).map (·.2.1.toNat)).getD 0

/-- A segment of a sequence (R228): rank, table, first position, length. -/
structure Seg where
  rank : Nat
  tab : Nat
  base : Nat
  len : Nat
  deriving DecidableEq, Repr

/-- Entries of a segment map: 16 bytes each, to the first of length zero, 64 at most (log 22). -/
def segList : Nat → Bytes → List Seg
  | 0, _ => []
  | n + 1, b =>
    if w32At b 8 = 0 then []
    else ⟨leAt b 0 1, fld (leAt b 2 2) 9 0, w32At b 4, w32At b 8⟩ :: segList n (b.drop 16)

/-- The rules of R228 on a segment map. -/
def segOk : List Seg → Bool
  | [] => true
  | [_] => true
  | a :: b :: t => b.base == a.base + a.len && a.len % 64 == 0 && segOk (b :: t)

/-- The segment map of a walk; none for the local table only. -/
def segMap (d : Dev) (g : Nat) (w : Bytes) : Except XErr (Option (List Seg)) :=
  let va := w64At w 0x18
  if va = 0 then .ok none
  else match vaRead d g va 1024 with
    | .error e => .error e
    | .ok b => .ok (some (segList 64 b))

/-- Total length of a walk's sequence (R219). -/
def seqLen (p : Prog) (i : Nat) (m : Option (List Seg)) : Nat :=
  match m with
  | none => captLen p i
  | some l => l.foldl (fun a s => a + s.len) 0

/-- q0 of a query block (R219). -/
def q0Of (d : Dev) (g : Nat) (w : Bytes) (q : Nat) : Except XErr Int :=
  match vaRead d g ((w64At w 0x10 + 4 * q) % 2 ^ 64) 4 with
  | .error e => .error e
  | .ok b => .ok (sext 32 (leNat b))

/-- wl of R219: the last page of a query block, −1 for none. -/
def wlOf (q0 : Int) (len : Nat) : Int := (min (q0 + 63) ((len : Int) - 1)) / 64

/-- wf of R219: the first window page. -/
def wfOf (w : Bytes) (q0 wl : Int) : Int := if wkWin w = 0 then wl + 1 else max 0 ((q0 - wkWin w + 1) / 64)

/-- Pages a to b. -/
def pagesTo (a b : Int) : List Nat := if b < a then [] else (List.range (b - a + 1).toNat).map fun i => (a.toNat + i)

/-- Entries of a selection list (R220). -/
def selEntries (b : Bytes) : List Nat :=
  (List.range (min 512 (w32At b 0))).map fun i => leAt b (64 + 4 * i) 3

/-- The walk list of a query block (R222). Mode 1 needs its selection list: none while the selector has not written
it. Entries of 32 bits follow the header. -/
def walkPages (d : Dev) (g : Nat) (st : Step) (i q : Nat) : Except XErr (Option (List Nat)) :=
  let p := progOf st
  let w := walkOf p i
  if wkMode w = 0 then
    match q0Of d g w q with
    | .error e => .error e
    | .ok q0 => .ok (some (pagesTo 0 (wlOf q0 (captLen p i))))
  else if !st.sels.contains (i * 2 ^ 32 + q) then .ok none
  else match vaRead d g ((w64At w 0x30 + 2112 * q) % 2 ^ 64) 2112 with
    | .error e => .error e
    | .ok b => .ok (some (selEntries b ++ pagesTo (w32At b 8) (sext 32 (w32At b 12))))

/-- Query block of a tile (R222). -/
def qOf (w : Bytes) (i : List Nat) : Nat := i.getD (fld (wkStrm w) 25 24) 0

/-! ### Convolutions and bands (R188, R190–R194) -/

/-- Whether a tile's rows are published in every band that holds them (R194): image n, row oy of the consumer. -/
def bandsReady (st : Step) (conv : Bytes) (ci cons i2 : Nat) : Bool :=
  let h := leAt conv 4 2
  let oh := max 1 (leAt conv 8 2)
  let g := w32At conv 0x10
  let n := i2 / oh
  let top : Int := ((i2 % oh) * fld g 15 12 : Nat) - (fld (w32At conv 0x14) 7 0 : Nat)
  let lo := (max 0 top).toNat
  let hi : Int := min ((h : Int) - 1) (top + ((fld g 7 4 - 1) * fld g 23 20 : Nat))
  if hi < lo then true
  else
    let a := n * h + lo
    let z := n * h + hi.toNat
    st.bands.all fun x => x.conv != ci || x.cons != cons ||
      (decide (z < x.first) || decide (x.first + x.len ≤ a) || decide (min z (x.first + x.len - 1) < x.first + x.avail))

/-- A granted tile's blocks may move: every band row it reads is published (R194). -/
def haloReady (st : Step) (j crew : Nat) (i : List Nat) : Bool :=
  let p := progOf st
  ((List.range p.convs.length).all fun ci =>
    let cv := p.convs.getD ci []
    if leAt cv 1 1 = j then bandsReady st cv ci crew (i.getD 2 0) else true)

end Sys2Proof.Machine
end

