-- ==== Sys2Proof/Machine/CoxOps.lean ====
section
/-! DEFINITION. What the cox and its stream engine do for a tile job: blocks read and written (R139–R142, R149), the
weight cache (R169), key and value placement (R205, R206, R215), command patching (R144, R224) and the end of a tile job
(R141, R137). -/
namespace Sys2Proof.Machine

/-! ### The weight cache (R169) -/

/-- A line of the crew's cache by its physical line address; a miss fetches the whole line into the next way of its set
(R169; the set is the line address modulo 2,048, log 21). -/
def cacheLine (d : Dev) (crew g la : Nat) : Bytes × Dev :=
  let x := coxOf d crew
  let set := la % 2048
  match (List.range 16).findSome? fun w => match tfind x.lines (16 * set + w) with
      | some (l, bs) => if l = la then some bs else none
      | none => none with
  | some bs => (bs, d)
  | none =>
    let bs := peek d (512 * la) 512
    let way := tget 0 x.rr set
    let d := modCox d crew fun x => { x with lines := tput x.lines (16 * set + way) (la, bs), rr := tput x.rr set ((way + 1) % 16) }
    (bs, dramCount d g [(if 512 * la < lpBase then 2 else 3, 512 * la, 512)])

/-- Bytes through the cache. -/
def cacheRead (d : Dev) (crew g : Nat) : Nat → Nat → Bytes × Dev
  | _, 0 => ([], d)
  | a, n + 1 =>
    let (l, d1) := cacheLine d crew g (a / 512)
    let (t, d2) := cacheRead d1 crew g (a + 1) n
    (l.getD (a % 512) 0 :: t, d2)

/-- A read of a stream: through the cache where WC is set. -/
def streamGet (d : Dev) (crew g va n : Nat) (wc : Bool) : Except XErr (Bytes × Dev) :=
  if !wc then vaGet d g va n
  else match transRange d g va n false with
    | .error e => .error e
    | .ok l => .ok (l.foldl (fun (a : Bytes × Dev) p =>
        let (b, d) := cacheRead a.2 crew g p.2.1 p.2.2
        (a.1 ++ b, d)) ([], d))

/-! ### Stream blocks (R139) -/

/-- Address of an element and the nibble it stands in: `off` counts elements from the base. -/
def elemAddr (base : Nat) (off : Int) (bits : Nat) : Nat × Nat :=
  if bits = 4 then (wrapZ 64 (base + off / 2), (off % 2).toNat) else (wrapZ 64 (base + off * ((bits / 8 : Nat) : Int)), 0)

/-- Base address of a stream for a tile. -/
def sdBase (b ent : Bytes) : Nat :=
  if (sdCtl b).testBit 14 then w64At ent (8 * fld (sdCtl b) 13 12) else w64At b 0

/-- Effective stride of a dimension (R139; the pointer-list strides are unsigned, log 25). -/
def sdStride (b ent : Bytes) (k : Nat) : Int :=
  match sdPsel b k with
  | 1 => (w32At ent 0x38 : Nat)
  | 2 => (w32At ent 0x3C : Nat)
  | _ => sext 36 (fld (sdDim b k) 35 0)

/-- Effective extent of a dimension. -/
def sdExtent (p : Prog) (js b ent : Bytes) (k : Nat) : Nat :=
  let e := fld (sdDim b k) 95 64
  match lenOf p js ent (sdLsel b k) with
  | some l => min e l
  | none => e

/-- Positions of an element in every dimension, whether it lies inside, and its offset in elements. -/
def sdElem (p : Prog) (js b ent : Bytes) (i : List Nat) (blk lin : Nat) : List Int × Bool × Int :=
  let e := sdIndex b lin
  let ps := (List.range (sdNdim b)).map fun k => sdPos b i blk k (e.getD k 0)
  let ins := (List.range (sdNdim b)).all fun k =>
    let x := ps.getD k 0
    decide (0 ≤ x) && decide (x < (sdExtent p js b ent k : Nat))
  (ps, ins, (List.range (sdNdim b)).foldl (fun a k => a + ps.getD k 0 * sdStride b ent k) 0)

/-- Values packed in their format (R52). -/
def packVals (bits : Nat) : List Nat → Bytes
  | [] => []
  | [v] => if bits = 4 then [BitVec.ofNat 8 (v % 16)] else leBytes (bits / 8) v
  | v :: w :: t =>
    if bits = 4 then BitVec.ofNat 8 (v % 16 + 16 * (w % 16)) :: packVals bits t
    else leBytes (bits / 8) v ++ (leBytes (bits / 8) w ++ packVals bits t)

/-- Read elements `lin`, `lin` + 1, … of a block of an operand stream. -/
def blockVals (d : Dev) (g crew : Nat) (p : Prog) (js b ent : Bytes) (i : List Nat) (blk : Nat) :
    Nat → Nat → Except XErr (List Nat × Dev)
  | _, 0 => .ok ([], d)
  | lin, n + 1 =>
    let bits := fmtBits (sdFmt b)
    let (_, ins, off) := sdElem p js b ent i blk lin
    if !ins then
      match blockVals d g crew p js b ent i blk (lin + 1) n with
      | .error e => .error e
      | .ok (t, d) => .ok (w32At b 0xC % 2 ^ bits :: t, d)
    else
      let (a, nib) := elemAddr (sdBase b ent) off bits
      match streamGet d crew g a (if bits = 4 then 1 else bits / 8) ((sdCtl b).testBit 8) with
      | .error e => .error e
      | .ok (bs, d) =>
        let v := leNat bs
        match blockVals d g crew p js b ent i blk (lin + 1) n with
        | .error e => .error e
        | .ok (t, d) => .ok ((if bits = 4 then v / 16 ^ nib % 16 else v) :: t, d)

/-- An operand block as it stands in its slot (R139, R142). -/
def operandBlock (d : Dev) (g crew : Nat) (p : Prog) (js b ent : Bytes) (i : List Nat) (blk : Nat) :
    Except XErr (Bytes × Dev) :=
  match blockVals d g crew p js b ent i blk 0 (sdElems b) with
  | .error e => .error e
  | .ok (vs, d) => .ok (packVals (fmtBits (sdFmt b)) vs, d)

/-- Write an element; a 4-bit element changes its own four bits only (R139). -/
def putElem (d : Dev) (g a nib bits v : Nat) : Except XErr Dev :=
  if bits = 4 then
    match vaRead d g a 1 with
    | .error e => .error e
    | .ok b =>
      let o := leNat b
      vaWrite d g a (leBytes 1 (if nib = 0 then o / 16 * 16 + v % 16 else o % 16 + 16 * (v % 16)))
  else vaWrite d g a (leBytes (bits / 8) v)

/-! ### Key and value pages (R205, R206) -/

/-- Groups of heads of a table. -/
def kvHg (r : KvRoot) : Nat := r.hg
/-- Head dimension. -/
def kvDim (r : KvRoot) : Nat := 64 * (r.dimc.toNat + 1)

/-- Physical address of an entry of a copy of a table (R207). -/
def kvEntryAddr (r : KvRoot) (gen i : Nat) : Nat := (if gen % 2 = 0 then r.tab0 else r.tab1).toNat + 8 * i

/-- A page-table entry of a copy (R207). -/
def kvEntry (d : Dev) (r : KvRoot) (gen i : Nat) : Nat :=
  peekN d (stackBase + kvEntryAddr r gen i) 8

/-- What the walker checks of an entry (R206). -/
def kvEntryOk (e g gtag : Nat) : Bool :=
  e.testBit 0 && (fld e 4 2 == 2 || fld e 4 2 == 3) && (e.testBit 1 == (fld e 4 2 == 3)) && fld e 7 6 == 0 &&
  fld e 11 8 == g && fld e 19 12 == gtag && fld e 63 52 == 0 &&
  (if fld e 4 2 = 2 then fld e 51 40 == 0 && decide (fld e 37 32 < 60) else fld e 51 45 == 0)

/-- First byte of the frame that an entry names. -/
def kvFrame (e : Nat) : Nat :=
  if fld e 4 2 = 2 then stackBase + (60 * fld e 39 38 + fld e 37 32) * 2 ^ 28 + fld e 31 20 * 65536
  else lpBase + fld e 44 34 * 2 ^ 30 + fld e 33 20 * 65536

/-- Offset of a key element in a frame, in elements (R205). -/
def kvKOff (dd s : Nat) : Nat := dd * 64 + s
/-- Offset of a value element. -/
def kvVOff (dd s : Nat) : Nat := 16384 + dd / 64 * 4096 + s * 64 + dd % 64

/-- Group of a walk for a tile (R221). -/
def wkGroup (w ent : Bytes) : Nat :=
  if (wkStrm w).testBit 30 then w32At ent 0x2C else fld (wkStrm w) 29 26

/-- The walk descriptor of mode 2 that a result stream of a job set writes through, and whether it is its K stream
(R215). -/
def appendFor (p : Prog) (j sr : Nat) : Option (Nat × Bool) :=
  match p.walks.findIdx? fun w => wkMode w == 2 && wkJs w == j && (fld (wkStrm w) 9 0 == sr || fld (wkStrm w) 19 10 == sr) with
  | none => none
  | some i => some (i, fld (wkStrm (walkOf p i)) 9 0 == sr)

/-- A step fails in the KV page manager or a walk: KVM_ERR, KVM_ERRINFO and the step's failure (R232, R233). -/
def kvFail (d : Dev) (k g tab code uc : Nat) : Dev :=
  failStep (recordErr d rKVM_ERR rKVM_ERRINFO (code - 0x28) (g + 16 * tab + code * 2 ^ 16)) k code uc

/-- A KV page entry fails its check (R206): KVTABLE, and a MEMISO event with the entry's address and both gauntlets. -/
def kvBad (d : Dev) (k g tab addr e uc : Nat) : Dev := kvFail (event d 0x06 (some g) 0 [addr, g, fld e 11 8] []) k g tab 0x29 uc

/-- Write one element of an append (R215). Outside NAPP or DIM nothing is written. -/
def putAppend (d : Dev) (k g crew : Nat) (p : Prog) (wi : Nat) (isK : Bool) (ent : Bytes) (ps : List Int) (bits v : Nat) : Dev :=
  let w := walkOf p wi
  let r := kvOf d (wkTab w)
  let dd := ps.getD 0 0
  let x := ps.getD 1 0
  if dd < 0 ∨ (kvDim r : Int) ≤ dd ∨ x < 0 ∨ (wkNapp w : Int) ≤ x then d
  else
    let pos := captLen p wi + x.toNat
    let n := pos / 64 * kvHg r + wkGroup w ent
    let e := kvEntry d r (captGen p wi) n
    if !kvEntryOk e g r.gtag.toNat then kvBad d k g (wkTab w) (kvEntryAddr r (captGen p wi) n) e (unitCode 1 crew)
    else
      let o := if isK then kvKOff dd.toNat (pos % 64) else kvVOff dd.toNat (pos % 64)
      putBytes d (kvFrame e + o * (bits / 8)) (leBytes (bits / 8) v)

/-- Write the elements of a block of a result stream (R139, R141). `src` is the block's slot in scratch. -/
def putBlock (k g crew : Nat) (p : Prog) (js b ent : Bytes) (i : List Nat) (blk src : Nat)
    (app : Option (Nat × Bool)) (d : Dev) (lin : Nat) : Except XErr Dev :=
  let bits := fmtBits (sdFmt b)
  let (ps, ins, off) := sdElem p js b ent i blk lin
  if !ins then .ok d
  else
    let v := if bits = 4 then peekN d (src + lin / 2) 1 / 16 ^ (lin % 2) % 16 else peekN d (src + lin * (bits / 8)) (bits / 8)
    match app with
    | some (wi, isK) => .ok (putAppend d k g crew p wi isK ent ps bits v)
    | none =>
      let (a, nib) := elemAddr (sdBase b ent) off bits
      putElem d g a nib bits v

/-- Write every block of a tile job's result stream. -/
def putResult (d : Dev) (k : Nat) (st : Step) (crew u c : Nat) (gr : Grant) : Except XErr Dev :=
  let p := progOf st
  let js := jsOf p gr.jobset
  let i := [gr.i0, gr.i1, gr.i2]
  match jsStream js 4 with
  | none => .ok d
  | some n =>
    let b := sdOf p n
    match plEntry d st.g.toNat p gr.jobset gr.i2 with
    | .error e => .error e
    | .ok ent =>
      let x := ctxOf (seatOf d u) c
      let h := if (sdCtl b).testBit 11 then !x.half else x.half
      let base := halfBase u h + (regionOf (seatOf d u) c).1 + sdSoff b
      (List.range (sdNblk b)).foldl (fun a blk => (List.range (sdElems b)).foldl (fun a lin =>
        match a with
        | .error e => .error e
        | .ok d => putBlock k st.g.toNat crew p js b ent i blk (base + blk * sdBlk b) (appendFor p gr.jobset n) d lin) a) (.ok d)

/-! ### Tokens (R34, R140) -/

/-- The walk of a context's computed tile and the instance of its repeat body that holds its next command (R224). -/
def instanceOf (p : Prog) (gr : Grant) (pos wi : Nat) : Nat :=
  let (rs, re) := wkRpt (walkOf p wi)
  (pos - gr.pos0 - rs) / (re - rs + 1)

/-- A stream of a job set is the K or V stream of its walk (R223). -/
def walkStream (p : Prog) (j n : Nat) : Option Nat :=
  match walkFor p j with
  | none => none
  | some i => if fld (wkStrm (walkOf p i)) 9 0 == n || fld (wkStrm (walkOf p i)) 19 10 == n then some i else none

/-- The tokens of every block that lies in a range of the compute half are held. -/
def tokensHeld (p : Prog) (x : Ctx) (a n : Nat) : Bool :=
  match x.comp with
  | none => true
  | some gr =>
    let js := jsOf p gr.jobset
    (List.range 4).all fun i =>
      match jsStream js i with
      | none => true
      | some s =>
        let b := sdOf p s
        match walkStream p gr.jobset s with
        | some wi =>
          let ring := wkNslot (walkOf p wi) * sdBlk b
          if overlaps a n (sdSoff b) ring then
            match x.walk with
            | some wc => decide (instanceOf p gr x.pos wi < wc.next)
            | none => false
          else true
        | none =>
          (List.range (sdNblk b)).all fun k =>
            !(overlaps a n (sdSoff b + k * sdBlk b) (sdBlk b)) || decide (k < tget 0 gr.landed i)

/-! ### Patching (R144, R224) -/

/-- Replace a field of a command word. -/
def cSet (w : SeatWord) (hi lo v : Nat) : SeatWord :=
  BitVec.ofNat 128 (w.toNat - fld w.toNat hi lo * 2 ^ lo + v % 2 ^ (hi + 1 - lo) * 2 ^ lo)

/-- A template entry's command and patch word. -/
def tmplEntry (t : Bytes) (n : Nat) : SeatWord × Nat := (BitVec.ofNat 128 (leAt t (32 * n) 16), w32At t (32 * n + 16))

/-- Patch one command for a tile. -/
def patchCmd (p : Prog) (js ent : Bytes) (i : List Nat) (w : SeatWord) (pw : Nat) : SeatWord :=
  let row := jsRowax js
  let col := jsColax js
  let w := if pw.testBit 0 then
      let lr := (lenOf p js ent (jsLsel js row)).getD (64 * jsNt js row)
      let lc := (lenOf p js ent (jsLsel js col)).getD (64 * jsNt js col)
      let r0 := 64 * i.getD row 0
      let c0 := 64 * i.getD col 0
      let rstride := match jsRssel js with
        | 1 => w32At ent 0x38
        | 2 => w32At ent 0x3C
        | _ => w32At js 0xC
      let ib := if jsPl js then w64At ent 0x30 else 0
      cSet (cSet (cSet (cSet w 12 6 (min 64 (lr - r0))) 19 13 (min 64 (lc - c0))) 63 32 rstride) 127 64 (ib + r0 * rstride + c0)
    else w
  if pw.testBit 1 then
    match lenOf p js ent (jsKlen js) with
    | none => w
    | some l =>
      let koff := fld pw 30 16
      let kb := if pw.testBit 2 then 128 else 64
      if l ≤ koff then (if koff = 0 then cSet w 39 24 kb else 0)
      else cSet w 39 24 (min (cF w 39 24) (kb * ((l - koff + kb - 1) / kb)))
  else w

/-- Move an address of a walk ring by a slot (R224). -/
def ringMove (p : Prog) (wi b a : Nat) (strm : Nat) : Nat :=
  let sd := sdOf p strm
  let ns := wkNslot (walkOf p wi)
  let s := sdSoff sd / 64
  if decide (s ≤ a) && decide (a < s + ns * (sdBlk sd / 64)) then a + b % ns * (sdBlk sd / 64) else a

/-- A command of instance `b` of a repeat body (R224). -/
def repeatCmd (p : Prog) (wi b : Nat) (w : SeatWord) : SeatWord :=
  let ks := fld (wkStrm (walkOf p wi)) 9 0
  let vs := fld (wkStrm (walkOf p wi)) 19 10
  let mv (a : Nat) : Nat := let a1 := ringMove p wi b a ks; if a1 = a then ringMove p wi b a vs else a1
  match cOp w with
  | 1 =>
    let w := if cF w 21 21 = 0 then cSet w 78 64 (mv (cF w 78 64)) else w
    if cF w 22 22 = 0 then cSet w 94 80 (mv (cF w 94 80)) else w
  | 6 => cSet w 127 112 b
  | _ => w

/-- The commands of a tile job (R144, R224): `blocks` is the length of the walk list, none without a walk. -/
def tileCmds (p : Prog) (js tmpl ent : Bytes) (i : List Nat) (walk : Option (Nat × Nat)) : List SeatWord :=
  let n := jsNtmpl js
  let one (k : Nat) : SeatWord := let (w, pw) := tmplEntry tmpl k; patchCmd p js ent i w pw
  match walk with
  | none => (List.range n).map one
  | some (wi, blocks) =>
    let (rs, re) := wkRpt (walkOf p wi)
    ((List.range rs).map one) ++
    ((List.range blocks).flatMap fun b => (List.range (re + 1 - rs)).map fun k => repeatCmd p wi b (one (rs + k))) ++
    ((List.range (n - re - 1)).map fun k => one (re + 1 + k))

/-- The cox pushes commands while the context's queue has a credit (R99). -/
def refill (x : Ctx) : Ctx :=
  let n := 32 - x.queue.length
  { x with queue := x.queue ++ x.todo.take n, todo := x.todo.drop n }

/-! ### The end of a tile job (R84, R137, R141, R149) -/

/-- A grant's epoch is stale: its index has a record with another epoch (R149). -/
def stale (c : WCnt) (gr : Grant) : Bool :=
  match tfind c.recs gr.index with
  | some e => e != gr.epoch
  | none => false

/-- The tile job of a context ends: its result blocks are written if its epoch is sound, the running values go to
their records (R65, R66), and the counter learns of it. -/
def endJob (d : Dev) (u c : Nat) : Dev :=
  let x := ctxOf (seatOf d u) c
  let crew := u / 16
  match x.step, x.comp <|> x.fill with
  | some k, some gr =>
    match tfind d.steps k with
    | none => d
    | some st =>
      let old := stale (cntGet d crew gr.counter) gr
      let clear (d : Dev) : Dev :=
        itemEnd (modCtx d u c fun x => if x.comp.isSome then { x with comp := none, walk := none } else { x with fill := none, walk := none })
          k 1 (unitCode 0 u) c
      let d1 := if old then .ok d else putResult d k st crew u c gr
      match d1 with
      | .error e => clear (failX d k e (unitCode 1 crew))
      | .ok d =>
        let d := mergeSlots d u c (!old)
        let d := if old then d else cntMod d crew gr.counter fun w => { w with out := w.out.filter (· != gr.index) }
        clear d
  | _, _ => d

end Sys2Proof.Machine
end

