-- ==== Sys2Proof/Machine/Lane.lean ====
section
/-! DEFINITION. The lane cores (R106–R130): one command is one instruction of one lane core. The operand `w` is the word
that the lane core fetched (log 16). A lane core that is not running a kernel, or that waits at a collective, executes
nothing: the command then changes nothing (log 19). -/
namespace Sys2Proof.Machine

/-- A lane core executes: its kernel runs, it has not halted, it waits at no collective, its step may run. -/
def laneReady (d : Dev) (u n : Nat) : Bool :=
  let s := seatOf d u
  let x := laneOf s n
  s.krun && !x.halted && x.wait.isNone &&
  match (ctxOf s s.kctx.toNat).step with
  | some k => canRun d k
  | none => false

/-- What every instruction goes through: the fetch (R112), the legality of the word (R112), the count of instructions
retired (R130); then its own effect, or the reason code the kernel fails with. -/
def laneGo (l : LaneAt) (w : LaneWord) (f : Dev → Seat → LaneCore → Except Nat Dev) (d : Dev) : Dev :=
  let u := (laneIdx l)
  let s := seatOf d u
  let x := laneOf s l.lane.toNat
  if !laneReady d u l.lane.toNat then d
  else if decide (65536 ≤ x.pc) || x.pc % 4 != 0 || !lLegal w then kernFail d u 0x08
  else match f d s x with
    | .error c => kernFail d u c
    | .ok d => inc64 d (seatPage u + rLANE_INSTR) 1

/-- A command of opcode `op`: refused where the word spells another defined instruction or the seat does not exist. -/
def laneCmd (op : Nat) (l : LaneAt) (w : LaneWord) (f : Dev → Seat → LaneCore → Except Nat Dev) (s : State) :
    Host.Outcome State Fault Refusal :=
  if !l.wf then .refused .noSuchUnit
  else if lOp w ≠ op && lOpDefined (lOp w) then .refused .otherCommand
  else run (laneGo l w f) s

/-- The next instruction. -/
def lNext (x : LaneCore) : LaneCore := { x with pc := (x.pc + 4) % 2 ^ 32 }

/-- An instruction that changes its own lane core only: the new lane core. -/
def lanePure (l : LaneAt) (f : Seat → LaneCore → LaneCore) : Dev → Seat → LaneCore → Except Nat Dev :=
  fun d s x => .ok (modLane d (laneIdx l) l.lane.toNat fun _ => lNext (f s x))

/-- A result with flags. -/
def lRes (x : LaneCore) (rd : Nat) (r : Nat × FFlags) : LaneCore := lFlag (gSet x rd r.1) r.2

/-- IOP (R112, R113). -/
def iop (f a b c : Nat) : Nat :=
  let sa := sext 32 a
  let sb := sext 32 b
  let sh := b % 32
  match f with
  | 0 => (a + b) % 2 ^ 32
  | 1 => (a + 2 ^ 32 - b) % 2 ^ 32
  | 2 => a * b % 2 ^ 32
  | 3 => wrapZ 32 (sa * sb / (2 ^ 32 : Nat))
  | 4 => a * b / 2 ^ 32
  | 5 => a &&& b
  | 6 => a ||| b
  | 7 => a ^^^ b
  | 8 => a * 2 ^ sh % 2 ^ 32
  | 9 => a >>> sh
  | 10 => wrapZ 32 (sa / (2 ^ sh : Nat))
  | 11 => b2n (decide (sa < sb))
  | 12 => b2n (decide (a < b))
  | 13 => if sa < sb then a else b
  | 14 => if sa < sb then b else a
  | 15 => min a b
  | 16 => max a b
  | _ => if c ≠ 0 then a else b

/-- IOP. -/
def execLaneIop (l : LaneAt) (w : LaneWord) (s : State) : Host.Outcome State Fault Refusal :=
  laneCmd 0x01 l w (lanePure l fun _ x =>
    gSet x (lRd w) (iop (lFunc w) (gReg x (lRs1 w)) (gReg x (lRs2 w)) (gReg x (lRs3 w)))) s

/-- ADDI: rd = rs1 + sign-extended imm16 (R112). -/
def execLaneAddi (l : LaneAt) (w : LaneWord) (s : State) : Host.Outcome State Fault Refusal :=
  laneCmd 0x02 l w (lanePure l fun _ x => gSet x (lRd w) (wrapZ 32 (gReg x (lRs1 w) + sext 16 (lImm w)))) s

/-- ANDI (R112). -/
def execLaneAndi (l : LaneAt) (w : LaneWord) (s : State) : Host.Outcome State Fault Refusal :=
  laneCmd 0x03 l w (lanePure l fun _ x => gSet x (lRd w) (gReg x (lRs1 w) &&& lImm w)) s

/-- ORI (R112). -/
def execLaneOri (l : LaneAt) (w : LaneWord) (s : State) : Host.Outcome State Fault Refusal :=
  laneCmd 0x04 l w (lanePure l fun _ x => gSet x (lRd w) (gReg x (lRs1 w) ||| lImm w)) s

/-- XORI (R112). -/
def execLaneXori (l : LaneAt) (w : LaneWord) (s : State) : Host.Outcome State Fault Refusal :=
  laneCmd 0x05 l w (lanePure l fun _ x => gSet x (lRd w) (gReg x (lRs1 w) ^^^ lImm w)) s

/-- SHI: imm[4:0] shift amount, imm[6:5] SLL, SRL, SRA (R112). -/
def execLaneShi (l : LaneAt) (w : LaneWord) (s : State) : Host.Outcome State Fault Refusal :=
  laneCmd 0x06 l w (lanePure l fun _ x =>
    gSet x (lRd w) (iop (8 + fld (lImm w) 6 5) (gReg x (lRs1 w)) (fld (lImm w) 4 0) 0)) s

/-- LUI (R112). -/
def execLaneLui (l : LaneAt) (w : LaneWord) (s : State) : Host.Outcome State Fault Refusal :=
  laneCmd 0x07 l w (lanePure l fun _ x => gSet x (lRd w) (lImm w * 65536)) s

/-- FOP (R112, R114). -/
def execLaneFop (l : LaneAt) (w : LaneWord) (s : State) : Host.Outcome State Fault Refusal :=
  laneCmd 0x08 l w (lanePure l fun _ x =>
    lRes x (lRd w) ((fop32 (lFunc w) (gReg x (lRs1 w)) (gReg x (lRs2 w))).getD (0, 0))) s

/-- FMA: ±(rs1 × rs2) ± rs3, rounded once (R112). -/
def execLaneFma (l : LaneAt) (w : LaneWord) (s : State) : Host.Outcome State Fault Refusal :=
  laneCmd 0x09 l w (lanePure l fun _ x =>
    lRes x (lRd w) (fma32 (gReg x (lRs1 w)) (gReg x (lRs2 w)) (gReg x (lRs3 w))
      ((lFunc w).testBit 0) ((lFunc w).testBit 1))) s

/-- FCVT (R112, R114). -/
def execLaneFcvt (l : LaneAt) (w : LaneWord) (s : State) : Host.Outcome State Fault Refusal :=
  laneCmd 0x0A l w (lanePure l fun _ x => lRes x (lRd w) ((fcvt32 (lFunc w) (gReg x (lRs1 w))).getD (0, 0))) s

/-- Random bits of an element for a step (R73, R74). -/
def srFor (d : Dev) (st : Step) (tid idx : Nat) : Nat :=
  srbits (gaunt d st.g.toNat).seed.toNat ((st.prog.map fun p => w64At p.hdr 0).getD 0) tid idx

/-- Conversion of y through a scale slot (R62 from y onwards): the bits and the count. -/
def slotConvert (d : Dev) (st : Option Step) (sl : ScaleSlot) (y idx : Nat) (sr inf sat : Bool) : Nat × Cnt :=
  let z := mul32 y sl.rscale.toNat
  let bits := match st with
    | some st => if sr then some (srFor d st sl.tid.toNat idx) else none
    | none => none
  convert sl.fmt.toNat y z bits inf sat

/-- CVT: conversion through a scale slot of the issuing context (R116). -/
def execLaneCvt (l : LaneAt) (w : LaneWord) (s : State) : Host.Outcome State Fault Refusal :=
  laneCmd 0x0B l w (fun d sx x =>
    let u := (laneIdx l)
    let c := sx.kctx.toNat
    let i := fld w.toNat 24 21
    let sl := slotOfCtx (ctxOf sx c) i
    if sl.fmt = 6 ∨ sl.fmt = 7 ∨ sl.fmt = 8 then .error 0x02
    else
      let y := gReg x (lRs1 w)
      let idx := (x.lidxHi.toNat * 2 ^ 32 + x.lidxLo.toNat + gReg x (lRs2 w)) % 2 ^ 64
      let (b, cnt) := slotConvert d (stepOfCtx d u c) sl y idx (w.toNat.testBit 25) (w.toNat.testBit 26) (w.toNat.testBit 27)
      let g := w.toNat.testBit 28
      let x := gSet x (lRd w) b
      let x := if g then { x with runs := tput x.runs i (gather (tget Running.reset x.runs i) y cnt) } else x
      .ok (noteConv (modLane d u l.lane.toNat fun _ => lNext x) u c i (g && nonfin cnt))) s

/-- XFN (R115). -/
def execLaneXfn (l : LaneAt) (w : LaneWord) (s : State) : Host.Outcome State Fault Refusal :=
  laneCmd 0x0C l w (lanePure l fun _ x => lRes x (lRd w) (xfn32 (lFunc w) (gReg x (lRs1 w)))) s

/-- TLD: load from a tile register or a mapped accumulator tile (R117). -/
def execLaneTld (l : LaneAt) (w : LaneWord) (s : State) : Host.Outcome State Fault Refusal :=
  laneCmd 0x10 l w (fun d sx x =>
    match tileAccess sx (laneIdx l) x w false with
    | .error c => .error c
    | .ok (a, n) =>
      let rd := lRd w
      let x := if n = 8 then gSet (gSet x rd (peekN d a 4)) (rd + 1) (peekN d (a + 4) 4)
        else gSet x rd (widen (fld w.toNat 26 23) (peekN d a n))
      .ok (modLane d (laneIdx l) l.lane.toNat fun _ => lNext x)) s

/-- TST: store to a tile register or a mapped accumulator tile (R117). -/
def execLaneTst (l : LaneAt) (w : LaneWord) (s : State) : Host.Outcome State Fault Refusal :=
  laneCmd 0x11 l w (fun d sx x =>
    match tileAccess sx (laneIdx l) x w true with
    | .error c => .error c
    | .ok (a, n) =>
      let rd := lRd w
      let bs := if n = 8 then leBytes 4 (gReg x rd) ++ leBytes 4 (gReg x (rd + 1)) else leBytes n (gReg x rd)
      .ok (modLane (putBytes d a bs) (laneIdx l) l.lane.toNat fun _ => lNext x)) s

/-- WLD: window gather from the compute half of the issuing context's region (R126). -/
def execLaneWld (l : LaneAt) (w : LaneWord) (s : State) : Host.Outcome State Fault Refusal :=
  laneCmd 0x12 l w (fun d sx x =>
    let c := sx.kctx.toNat
    let (b, n) := regionOf sx c
    match windowLoad d (sharedFor sx l.lane.toNat) (halfBase (laneIdx l) (ctxOf sx c).half + b) n
        (gReg x (lRs1 w)) (gReg x (lRs2 w)) with
    | .error e => .error e
    | .ok v => .ok (modLane d (laneIdx l) l.lane.toNat fun _ => lNext (gSet x (lRd w) v))) s

/-- Conditions of BR (R112). -/
def brTaken (cond a b : Nat) : Bool :=
  match cond with
  | 0 => a == b
  | 1 => a != b
  | 2 => decide (sext 32 a < sext 32 b)
  | 3 => decide (sext 32 b ≤ sext 32 a)
  | 4 => decide (a < b)
  | _ => decide (b ≤ a)

/-- A target that counts instructions from the branching one (R111). -/
def jumpTo (pc : Nat) (off : Int) : Nat := wrapZ 32 (pc + 4 * off)

/-- BR: rs1 in [10:6], rs2 in [15:11], cond in [18:16], offset in [31:19] (R111, R112). -/
def execLaneBr (l : LaneAt) (w : LaneWord) (s : State) : Host.Outcome State Fault Refusal :=
  laneCmd 0x18 l w (fun d _ x =>
    let t := brTaken (fld w.toNat 18 16) (gReg x (lRd w)) (gReg x (lRs1 w))
    .ok (modLane d (laneIdx l) l.lane.toNat fun _ =>
      if t then { x with pc := jumpTo x.pc (sext 13 (fld w.toNat 31 19)) } else lNext x)) s

/-- JAL: the address of the next instruction to rd (R111). -/
def execLaneJal (l : LaneAt) (w : LaneWord) (s : State) : Host.Outcome State Fault Refusal :=
  laneCmd 0x19 l w (fun d _ x =>
    .ok (modLane d (laneIdx l) l.lane.toNat fun _ =>
      { gSet x (lRd w) (x.pc + 4) with pc := jumpTo x.pc (sext 21 (fld w.toNat 31 11)) })) s

/-- JALR: jump to rs1 + imm16, sign-extended (log 20), and link. -/
def execLaneJalr (l : LaneAt) (w : LaneWord) (s : State) : Host.Outcome State Fault Refusal :=
  laneCmd 0x1A l w (fun d _ x =>
    .ok (modLane d (laneIdx l) l.lane.toNat fun _ =>
      { gSet x (lRd w) (x.pc + 4) with pc := wrapZ 32 (gReg x (lRs1 w) + sext 16 (lImm w)) })) s

/-- CSRR: rd = special register imm16 (R120). CYCLE reads a free value (log 7). -/
def execLaneCsrr (l : LaneAt) (w : LaneWord) (s : State) : Host.Outcome State Fault Refusal :=
  laneCmd 0x1C l w (fun d sx x =>
    if lImm w = 5 then
      let (v, d) := freeVal d
      let v := BitVec.ofNat 32 v.toNat
      .ok (modLane d (laneIdx l) l.lane.toNat fun _ => lNext (gSet { x with cycle := v } (lRd w) v.toNat))
    else .ok (modLane d (laneIdx l) l.lane.toNat fun _ => lNext (gSet x (lRd w) (csrRead sx l.lane.toNat x (lImm w))))) s

/-- CSRW: special register imm16 = rs1; shared registers by lane 0 only (R120). -/
def execLaneCsrw (l : LaneAt) (w : LaneWord) (s : State) : Host.Outcome State Fault Refusal :=
  laneCmd 0x1D l w (fun d _ x =>
    let v := gReg x (lRs1 w)
    let d := modLane d (laneIdx l) l.lane.toNat fun _ => lNext (laneCsrWrite x (lImm w) v)
    .ok (if l.lane.toNat = 0 then modSeat d (laneIdx l) fun s => { s with shared := sharedWrite s.shared (lImm w) v } else d)) s

/-- A lane core reaches a collective and waits there (R121); a lane core that has halted short of it fails the
kernel. -/
def reachColl (l : LaneAt) (w : LaneWord) : Dev → Seat → LaneCore → Except Nat Dev :=
  fun d s x =>
    if (List.range 32).any fun n => (laneOf s n).halted && decide ((laneOf s n).coll < x.coll + 1) then .error 0x0A
    else .ok (modLane d (laneIdx l) l.lane.toNat fun _ => { x with coll := x.coll + 1, wait := some w })

/-- PERM (R121, R122). -/
def execLanePerm (l : LaneAt) (w : LaneWord) (s : State) : Host.Outcome State Fault Refusal :=
  laneCmd 0x20 l w (reachColl l w) s

/-- RED (R121, R123). -/
def execLaneRed (l : LaneAt) (w : LaneWord) (s : State) : Host.Outcome State Fault Refusal :=
  laneCmd 0x21 l w (reachColl l w) s

/-- BAR (R121). -/
def execLaneBar (l : LaneAt) (w : LaneWord) (s : State) : Host.Outcome State Fault Refusal :=
  laneCmd 0x22 l w (reachColl l w) s

/-- HALT: the lane core's running values go to the slots (R116); a lane core that waits at a collective this one never
reached fails the kernel (R121). -/
def execLaneHalt (l : LaneAt) (w : LaneWord) (s : State) : Host.Outcome State Fault Refusal :=
  laneCmd 0x3F l w (fun d sx x =>
    if (List.range 32).any fun n => (laneOf sx n).wait.isSome && decide (x.coll < (laneOf sx n).coll) then .error 0x0A
    else
      let u := (laneIdx l)
      let d := x.runs.foldl (fun d p => modSlot d u sx.kctx.toNat p.1 fun sl => { sl with run := mergeRun sl.run p.2 }) d
      .ok (modLane d u l.lane.toNat fun _ => { x with halted := true, runs := [] })) s

/-- LANE_KERNEL_HALT: every lane core has executed HALT, the LANE command completes (R109); LSTAT is reported
(R120). -/
def execLaneKernelHalt (u : SeatAt) (s : State) : Host.Outcome State Fault Refusal :=
  runIf u.wf (fun d =>
    let i := (seatIdx u)
    let sx := seatOf d i
    if !sx.krun || (List.range 32).any (fun n => !(laneOf sx n).halted) then d
    else
      let f := (List.range 32).foldl (fun a n => a ||| (laneOf sx n).lstat) (0 : BitVec 6)
      let (v, d) := freeVal d
      let (b, d) := freeVal d
      let d := inc32 (inc64 d (seatPage i + rLANE_BUSY) (v.toNat % 2 ^ 31 + 1)) (seatPage i + rLANE_BANKCNT) (b.toNat % 2 ^ 31)
      let d := modSeat d i fun s => { s with krun := false, haltStat := f }
      match (ctxOf sx sx.kctx.toNat).step with
      | some k => modFl d k fun g => { g with lstat := g.lstat ||| f }
      | none => d) s

/-- PERM on the registers of one lane core, from those of all as they stood (R122). -/
def permLane (s : Seat) (w : LaneWord) (n : Nat) (x : LaneCore) : LaneCore :=
  let h := sharedFor s n
  let vl := h.vl.toNat
  if vl ≤ n then x
  else
    let i := gReg x (lRs2 w) % 32
    if i < vl then gSet x (lRd w) (gReg (laneOf s i) (lRs1 w))
    else
      let x := lFlag x 1
      match fld w.toNat 22 21 with
      | 0 => gSet x (lRd w) 0
      | 1 => gSet x (lRd w) h.lfill.toNat
      | _ => x

/-- Identity of a reduction (R124). -/
def redIdent (op kind : Nat) : Nat :=
  if kind = 0 then (if op = 0 then 0x80000000 else if op = 1 then 0xFF800000 else 0x7F800000)
  else (if op = 0 then 0 else if op = 1 then 0x80000000 else 0x7FFFFFFF)

/-- Combination of a reduction of FP32 values, or of INT32 by MAX and MIN (R124). -/
def redComb (op kind a b : Nat) : Nat :=
  if kind = 0 then (if op = 0 then add32 a b else fminmax (op == 1) a b)
  else if op = 1 then (if sext 32 a < sext 32 b then b else a) else (if sext 32 b < sext 32 a then b else a)

/-- One level of the tree: neighbours combined (R124). -/
def redLevel {α : Type} (f : α → α → α) : List α → List α
  | a :: b :: t => f a b :: redLevel f t
  | l => l

/-- The fixed tree over 64 inputs (R124). -/
def redTree {α : Type} (f : α → α → α) (l : List α) : List α :=
  redLevel f (redLevel f (redLevel f (redLevel f (redLevel f (redLevel f l)))))

/-- Result of the reduction of one row or column (R124). -/
def redOne (op kind n : Nat) (xs : List Nat) : Nat :=
  let v := (List.range 64).map fun i => if i < n then xs.getD i 0 else redIdent op kind
  if op = 0 ∧ kind = 1 then wrapZ 32 (satI32 (((redTree (· + ·) (v.map (sext 32))).head?).getD 0))
  else ((redTree (redComb op kind) v).head?).getD 0

/-- RED over a tile (R123): the 256 bytes of results, or the reason code. -/
def redTile (d : Dev) (u : Nat) (s : Seat) (w : LaneWord) : Except Nat (Nat × Bytes) :=
  let v := w.toNat
  let sa := v.testBit 15
  let ts := if sa then fld v 13 11 else fld v 14 11
  let td := fld v 19 16
  let cnt := gReg (laneOf s 0) (lRd w)
  let n := fld cnt 6 0
  let row := fld cnt 13 8
  if n = 0 ∨ 64 < n then .error 0x08
  else if !(scopeOk s sa ts false && scopeOk s false td true) then .error 0x05
  else
    let base := tileBase u sa ts
    let el (i j : Nat) : Nat := peekN d (base + 256 * i + 4 * j) 4
    let res := (List.range 64).map fun i =>
      redOne (fld v 22 21) (fld v 23 23) n ((List.range 64).map fun j => if v.testBit 20 then el j i else el i j)
    .ok (tregBase u td + 256 * row, res.flatMap (leBytes 4))

/-- COLLECTIVE_PROCEED: all 32 lane cores have reached their n-th collective (R121). -/
def execCollectiveProceed (u : SeatAt) (s : State) : Host.Outcome State Fault Refusal :=
  runIf u.wf (fun d =>
    let i := (seatIdx u)
    let sx := seatOf d i
    let ws := (List.range 32).map fun n => (laneOf sx n).wait
    match ws.head?.join with
    | none => d
    | some w0 =>
      let can := match (ctxOf sx sx.kctx.toNat).step with
        | some k => canRun d k
        | none => false
      if !sx.krun || !can || ws.any Option.isNone then d
      else
        let same (w : LaneWord) := lOp w == lOp w0 && (lOp w0 != 0x21 || w == w0)
        if ws.any fun o => !(o.map same).getD false then kernFail d i 0x0A
        else
          let go (d : Dev) : Dev := modSeat d i fun s =>
            { s with lanes := tmap (fun _ x => lNext { x with wait := none }) s.lanes }
          match lOp w0 with
          | 0x20 => go (modSeat d i fun s => { s with
              lanes := (List.range 32).map fun n => (n, permLane sx (((laneOf sx n).wait).getD 0) n (laneOf sx n)) })
          | 0x21 => match redTile d i sx w0 with
            | .error c => kernFail d i c
            | .ok (a, bs) => go (putBytes d a bs)
          | _ => go (modSeat d i fun s => { s with seen := s.shared })) s

/-- LANE_WATCHDOG: the kernel ran for 2^WDOG cycles (R129). -/
def execLaneWatchdog (u : SeatAt) (s : State) : Host.Outcome State Fault Refusal :=
  runIf u.wf (fun d => if (seatOf d (seatIdx u)).krun then kernFail d (seatIdx u) 0x09 else d) s

end Sys2Proof.Machine
end

