-- ==== Sys2Proof/Machine/Seat.lean ====
section
/-! DEFINITION. The seat (R76–R105): its commands, the landing of blocks, the epilogue. A command row is the moment at
which the command reaches the head of its context: it issues, waits (R92, R34) or is rejected (R88). -/
namespace Sys2Proof.Machine

/-! ### Rejection (R88) -/

/-- The two operands of an MMA: tile register or scratchpad, address, format. -/
def mmaOps (w : SeatWord) : List (Bool × Nat × Nat) :=
  [(cF w 21 21 == 1, cF w 78 64, cF w 14 11), (cF w 22 22 == 1, cF w 94 80, cF w 18 15)]

/-- An operand or destination fits its place: a tile register owned by the context, or the context's region. -/
def placeCode (s : Seat) (c : Nat) (treg : Bool) (a n : Nat) : Option Nat :=
  if treg then (if !tregOwned s c (a % 16) then some 3 else if 16384 < n then some 4 else none)
  else if (regionOf s c).2 < a * 64 + n then some 4 else none

/-- The first of two codes in the order of R88: ACCOWN before SCRATCH. -/
def firstCode (a b : Option Nat) : Option Nat :=
  match a, b with
  | none, b => b
  | a, none => a
  | some x, some y => some (min x y)

/-- Bytes that a DRAIN writes. -/
def drainBytes (w : SeatWord) : Nat :=
  (if cF w 9 9 = 1 then 16384 else 4096 * fmtBits (cF w 13 10) / 8) + 8 * cF w 18 18

/-- The conditions of R88 that the command alone decides, with the context's allocations: the reason code. -/
def staticCheck (s : Seat) (c : Nat) (w : SeatWord) : Option Nat :=
  match cOp w with
  | 0 | 5 | 7 | 8 | 9 => if cF w 127 6 ≠ 0 then some 1 else none
  | 1 =>
    if cF w 23 23 ≠ 0 ∨ cF w 63 40 ≠ 0 ∨ cF w 79 79 ≠ 0 ∨ cF w 127 95 ≠ 0 ∨ cF w 39 24 = 0 ∨ 16384 < cF w 39 24 ∨
       cF w 20 19 = 3 ∨ (cF w 10 10 = 1 ∧ cF w 9 9 = 0) then some 1
    else if (pairing (cF w 14 11) (cF w 18 15) (cF w 20 19)).isNone then some 2
    else if !accOwned s c (cF w 8 6) then some 3
    else match mmaOps w with
      | [(ta, aa, fa), (tb, ab, fb)] =>
        firstCode (placeCode s c ta aa (operandBytes fa (cF w 39 24))) (placeCode s c tb ab (operandBytes fb (cF w 39 24)))
      | _ => none
  | 2 =>
    if cF w 63 11 ≠ 0 ∨ cF w 127 79 ≠ 0 then some 1
    else if !accOwned s c (cF w 8 6) then some 3
    else placeCode s c (cF w 10 10 == 1) (cF w 78 64) 16384
  | 3 =>
    if cF w 19 19 ≠ 0 ∨ cF w 63 32 ≠ 0 ∨ cF w 127 80 ≠ 0 then some 1
    else
      let f := cF w 13 10
      if cF w 9 9 = 0 ∧ (8 < f ∨ f = 6 ∨ f = 7 ∨ f = 8 ∨ f ≠ (slotOfCtx (ctxOf s c) (cF w 31 28)).fmt.toNat) then some 2
      else if !accOwned s c (cF w 8 6) then some 3
      else placeCode s c (cF w 17 17 == 1) (cF w 78 64) (drainBytes w)
  | 4 =>
    if cF w 31 20 ≠ 0 ∨ cF w 12 6 = 0 ∨ 64 < cF w 12 6 ∨ cF w 19 13 = 0 ∨ 64 < cF w 19 13 then some 1 else none
  | 6 =>
    if cF w 63 54 ≠ 0 ∨ cF w 95 64 % 4 ≠ 0 ∨ 65536 ≤ cF w 95 64 then some 1
    else if (setBits 8 (kAccRd w ||| kAccWr w)).any (fun t => !(accOwned s c t && accMapped s t)) ||
            (setBits 16 (kTRd w ||| kTWr w)).any (fun n => !tregOwned s c n) then some 3 else none
  | _ => some 1

/-- The conditions of R88 that depend on the tile's contents: chain and kind. -/
def tileCheck (s : Seat) (w : SeatWord) : Option Nat :=
  if cOp w ≠ 1 then none
  else
    let t := tileOf s (cF w 8 6)
    let same := t.fmta.toNat == cF w 14 11 && t.fmtb.toNat == cF w 18 15 && t.split.toNat == cF w 20 19
    if cF w 10 10 = 1 ∧ t.mma = true ∧ same = false then some 1
    else if cF w 9 9 = 1 ∧ (t.kind = 0 ∨ (pairing (cF w 14 11) (cF w 18 15) (cF w 20 19)).any fun k => k != t.kind.toNat) then some 1
    else none

/-- The reason code a command is rejected with, in the order of R88's table. -/
def rejectCode (s : Seat) (c : Nat) (w : SeatWord) : Option Nat := firstCode (tileCheck s w) (staticCheck s c w)

/-! ### The scoreboard (R92) and credits (R34) -/

/-- What a command at the head of its context does: it issues, it is rejected, or it waits for a token, a credit or the
scoreboard; `sw`: the seat switches (R100). -/
inductive Gate where
  | go
  | wait (tok sb sw : Bool)
  | reject (code : Nat)
  deriving DecidableEq, Repr

/-- Tile registers that a flight reads. -/
def flightRegs (w : SeatWord) : List Nat :=
  if cOp w = 1 then ((mmaOps w).filter (·.1)).map fun o => o.2.1 % 16
  else if cF w 10 10 = 1 then [cF w 78 64 % 16] else []

/-- The compute half is read by a command. -/
def readsHalf (w : SeatWord) : Bool :=
  if cOp w = 1 then (mmaOps w).any fun o => !o.1 else cF w 10 10 == 0

/-- An update to a tile is in flight. -/
def tileBusy (s : Seat) (t : Nat) : Bool := s.flights.any fun f => f.acc.toNat == t
/-- A drain of a tile has not read its last row. -/
def tileDrains (s : Seat) (t : Nat) : Bool := s.drains.any fun q => cF q.word 8 6 == t
/-- The running kernel names a tile in its masks. -/
def kernTile (s : Seat) (t : Nat) : Bool := s.krun && (kAccRd s.kword ||| kAccWr s.kword).testBit t
/-- The running kernel writes a tile register. -/
def kernWr (s : Seat) (n : Nat) : Bool := s.krun && (kTWr s.kword).testBit n
/-- A drain writes a tile register. -/
def drainWr (s : Seat) (n : Nat) : Bool := s.drains.any fun q => cF q.word 17 17 == 1 && cF q.word 67 64 == n
/-- A command in flight, or an open integer k-loop, reads a tile register (R92, R96). -/
def regRead (s : Seat) (n : Nat) : Bool :=
  (s.flights.any fun f => (flightRegs f.word).contains n) || s.kloops.any fun k => k.2.cmds.any fun w => (flightRegs w).contains n

/-- Everything earlier of a context has completed; answers too whether it waits for blocks alone. -/
def ctxIdle (s : Seat) (c : Nat) : Bool × Bool :=
  let fl := s.flights.any fun f => f.ctx.toNat == c
  let other := (s.drains.any fun q => q.ctx.toNat == c) || (s.krun && s.kctx.toNat == c)
  (!fl && !other, fl && !other)

/-- SWAPH may take effect (R79); whether it waits for blocks alone. -/
def swapOk (p : Prog) (s : Seat) (c : Nat) : Bool × Bool :=
  let x := ctxOf s c
  let fl := s.flights.any fun f => f.ctx.toNat == c && readsHalf f.word
  let dr := s.drains.any fun q => q.ctx.toNat == c && cF q.word 17 17 == 0 && cF q.word 79 79 == 0
  let kr := s.krun && s.kctx.toNat == c
  let lp := s.kloops.any fun k => k.2.ctx.toNat == c
  let rs := match x.comp with
    | none => false
    | some gr => match jsStream (jsOf p gr.jobset) 4 with
      | none => false
      | some n => !(sdCtl (sdOf p n)).testBit 11
  let other := dr || kr || lp || rs
  (!fl && !other, fl && !other)

/-- An MMA or LOADACC: tile and tile registers (R92), then tokens (R34). -/
def updGate (p : Prog) (s : Seat) (c : Nat) (w : SeatWord) : Gate :=
  let t := cF w 8 6
  let chain := cOp w == 1 && cF w 10 10 == 1
  let busy := if chain then s.flights.any fun f => f.acc.toNat == t && f.load else tileBusy s t
  let far := tileDrains s t || kernTile s t || (flightRegs w).any fun n => drainWr s n || kernWr s n
  let ops := if cOp w = 1 then ((mmaOps w).filter fun o => !o.1).map fun o => (o.2.1 * 64, operandBytes o.2.2 (cF w 39 24))
    else if cF w 10 10 = 0 then [(cF w 78 64 * 64, 16384)] else []
  if far then .wait false true true
  else if busy then .wait false true false
  else if ops.any fun o => !tokensHeld p (ctxOf s c) o.1 o.2 then .wait true false true
  else .go

/-- LANE (R92, R109). -/
def laneGate (s : Seat) (w : SeatWord) : Gate :=
  let accs := setBits 8 (kAccRd w ||| kAccWr w)
  let rd := setBits 16 (kTRd w ||| kTWr w)
  let wr := setBits 16 (kTWr w)
  if s.krun || (setBits 8 (kAccWr w)).any (tileDrains s) || rd.any (drainWr s) then .wait false true true
  else if accs.any (fun t => tileBusy s t || (tileOf s t).rerun) || wr.any (regRead s) then .wait false true false
  else .go

/-- The gate of a command at the head of context `c`. -/
def gate (p : Prog) (s : Seat) (c : Nat) (w : SeatWord) : Gate :=
  match rejectCode s c w with
  | some code => .reject code
  | none =>
    match cOp w with
    | 1 | 2 => updGate p s c w
    | 5 => let (ok, blk) := swapOk p s c; if ok then .go else .wait false true (!blk)
    | 6 => laneGate s w
    | 7 => let (ok, blk) := ctxIdle s c; if ok then .go else .wait false true (!blk)
    | 9 => let (ok, blk) := ctxIdle s c
           if ok then .go else .wait false true (!blk || decide ((ctxOf s c).queue.length ≤ 1))
    | _ => .go

/-- The program of a context's step. -/
def progAt (d : Dev) (u c : Nat) : Prog :=
  match stepOfCtx d u c with
  | some st => progOf st
  | none => Prog.none

/-- A context is ready (R99): its head command can issue. -/
def ctxReady (d : Dev) (u c : Nat) : Bool :=
  let s := seatOf d u
  let x := ctxOf s c
  match x.queue.head?, x.step with
  | some w, some k => !x.failed && canRun d k && (match gate (progAt d u c) s c w with
      | .wait .. => false
      | _ => true)
  | _, _ => false

/-- The seat switches to the first ready context in cyclic order after `c` (R100). -/
def switchFrom (d : Dev) (u c : Nat) : Dev :=
  match [(c + 1) % 4, (c + 2) % 4, (c + 3) % 4].find? (ctxReady d u) with
  | some n => inc32 (modSeat d u fun s => { s with running := BitVec.ofNat 2 n }) (seatPage u + rSEAT_SWCNT) 1
  | none => d

/-- The command leaves its queue and takes the issue port; the cox pushes the next ones. -/
def takeIssue (d : Dev) (u c : Nat) (w : SeatWord) : Dev :=
  let d := if (seatOf d u).running.toNat = c then d
    else inc32 (modSeat d u fun s => { s with running := BitVec.ofNat 2 c }) (seatPage u + rSEAT_SWCNT) 1
  let d := match (ctxOf (seatOf d u) c).step with
    | some k => if [1, 2, 3, 6, 7].contains (cOp w) then itemStart d k 1 (unitCode 0 u) c else d
    | none => d
  modCtx d u c fun x => refill { x with queue := if x.queue.head? = some w then x.queue.tail else x.queue, pos := x.pos + 1,
                                         waitTok := false, waitCred := false, waitSb := false }

/-- A seat command at its context: queued behind others, rejected, waiting, or issued with its effect `f`. -/
def seatGo (c : CtxAt) (w : SeatWord) (f : Dev → Nat → Nat → Dev) (d : Dev) : Dev :=
  let u := ctxIdx c
  let n := c.ctx.toNat
  let s := seatOf d u
  let x := ctxOf s n
  match x.step with
  | none => d
  | some k =>
    if s.fenced || s.wiping || x.failed || !canRun d k then d
    else if !x.queue.isEmpty && x.queue.head? != some w then
      (if x.queue.length < 32 then modCtx d u n fun x => { x with queue := x.queue ++ [w] } else d)
    else match gate (progAt d u n) s n w with
      | .reject code => seatFail d u n (cOp w) code
      | .wait tok sb sw =>
        let d := modCtx d u n fun x => { x with queue := if x.queue.isEmpty then [w] else x.queue, waitTok := tok, waitSb := sb }
        if sw && s.running == c.ctx then switchFrom d u n else d
      | .go => f (takeIssue d u n w) u n

/-- A command of opcode `op`: refused where the word spells another defined command or the seat does not exist. -/
def seatCmd (op : Nat) (c : CtxAt) (w : SeatWord) (f : Dev → Nat → Nat → Dev) (s : State) : Host.Outcome State Fault Refusal :=
  if !c.wf then .refused .noSuchUnit
  else if cOp w ≠ op && decide (cOp w ≤ 9) then .refused .otherCommand
  else run (seatGo c w f) s

/-- SEAT_NOP: completes at issue (R84). -/
def execSeatNop (c : CtxAt) (w : SeatWord) (s : State) : Host.Outcome State Fault Refusal := seatCmd 0 c w (fun d _ _ => d) s

/-! ### Products (R81–R83, R85) -/

/-- A new k-loop begins on a tile: OVF, ACCNF and SHIFT are cleared (R91). -/
def newLoop (t : TileStat) (kind : Nat) : TileStat :=
  { t with kind := BitVec.ofNat 2 kind, ovf := false, accnf := false, shift := 0, rerun := false, kblk := 0, landed := false }

/-- An MMA issues: the tile's kind and formats, the integer k-loop, the flight (R85, R89, R96). -/
def mmaIssue (w : SeatWord) (d : Dev) (u c : Nat) : Dev :=
  let t := cF w 8 6
  let kind := (pairing (cF w 14 11) (cF w 18 15) (cF w 20 19)).getD 0
  let kb := kblockOf (cF w 14 11)
  modSeat d u fun s =>
    let h := (ctxOf s c).half
    let ts := tileOf s t
    let ts := if cF w 9 9 = 0 then newLoop ts kind else ts
    let ts := { ts with fmta := BitVec.ofNat 4 (cF w 14 11), fmtb := BitVec.ofNat 4 (cF w 18 15)
                        split := BitVec.ofNat 2 (cF w 20 19), mma := true, landed := false }
    let loops := if cF w 9 9 = 0 then
        (if kind = 2 then tput s.kloops t { cmds := [w], half := h, ctx := BitVec.ofNat 2 c, sat := [] } else tdel s.kloops t)
      else match tfind s.kloops t with
        | some l => tput s.kloops t { l with cmds := l.cmds ++ [w] }
        | none => s.kloops
    { s with tiles := tput s.tiles t ts, kloops := loops
             flights := s.flights ++ [{ ctx := BitVec.ofNat 2 c, acc := BitVec.ofNat 3 t, word := w, half := h, blk := 0
                                        nblk := (cF w 39 24 + kb - 1) / kb, load := false }] }

/-- MMA (R85). -/
def execSeatMma (c : CtxAt) (w : SeatWord) (s : State) : Host.Outcome State Fault Refusal := seatCmd 1 c w (mmaIssue w) s

/-- First byte of an operand. -/
def opBase (s : Seat) (u c : Nat) (half treg : Bool) (a : Nat) : Nat :=
  if treg then tregBase u (a % 16) else halfBase u half + (regionOf s c).1 + a * 64

/-- The terms of one pass of a float block: factors of element (i, j) at each k of the block. -/
def floatTerm (d : Dev) (ba fa bb fb sp k i j : Nat) (ps : Nat × Nat) : FV × FV :=
  let ea := operandElem d ba fa k i
  let eb := operandElem d bb fb k j
  (if sp = 0 then elemVal fa ea else pieceOf ps.1 (split32 ea), if fb = 0 then pieceOf ps.2 (split32 eb) else elemVal fb eb)

/-- A float block on one element, pass after pass (R55, R56, R60). -/
def floatBlock (d : Dev) (ba fa bb fb sp k0 n i j : Nat) (acc : Nat) : Nat × Bool :=
  (passes sp (decide (sp ≠ 0) && fb == 0)).foldl (fun (a : Nat × Bool) ps =>
    let (r, nf) := accBlockF a.1 ((List.range n).map fun k => floatTerm d ba fa bb fb sp (k0 + k) i j ps)
    (r, a.2 || nf)) (acc, false)

/-- An integer block on one element, A halved `sh` times (R57, R58). -/
def intBlock (d : Dev) (ba fa bb fb sh k0 n i j : Nat) (acc : Int) : Int :=
  accBlockI acc ((List.range n).map fun k =>
    (halveN sh (elemInt fa (operandElem d ba fa (k0 + k) i)), elemInt fb (operandElem d bb fb (k0 + k) j)))

/-- The first flight that may take its next block or load: no earlier flight on its tile, and its step runs. -/
def nextFlight (d : Dev) (u : Nat) (load : Bool) : Option Flight :=
  let s := seatOf d u
  let rec go (seen : List (BitVec 3)) : List Flight → Option Flight
    | [] => none
    | f :: t =>
      let ok := match (ctxOf s f.ctx.toNat).step with
        | some k => canRun d k
        | none => false
      if f.load == load && !seen.contains f.acc && ok then some f else go (f.acc :: seen) t
  if s.fenced then none else go [] s.flights

/-- Columns of a block of n k (R81): two k a column for 8-bit operands, one for each pass otherwise. -/
def blockCols (fa fb sp n : Nat) : Nat :=
  if kblockOf fa = 128 then (n + 1) / 2 else n * (passes sp (decide (sp ≠ 0) && fb == 0)).length

/-- A flight's present block has landed: it moves on, or leaves; the tile's LANDED and KBLK (R91); a rerun ends when the
reissued k-loop's last block lands (R97). -/
def landFlight (d : Dev) (u : Nat) (f : Flight) : Dev :=
  let t := f.acc.toNat
  modSeat d u fun s =>
    let fl := if f.blk + 1 < f.nblk then s.flights.map fun g => if g = f then { g with blk := g.blk + 1 } else g
      else s.flights.erase f
    let left := fl.any fun g => g.acc == f.acc
    let ts := tileOf s t
    { s with flights := fl, tiles := tput s.tiles t { ts with
        kblk := if f.load then ts.kblk else BitVec.ofNat 16 (satN 16 (ts.kblk.toNat + 1))
        landed := !left, rerun := ts.rerun && left } }

/-- The integer k-loop of a tile is reissued with one more halving (R97). -/
def rerunLoop (d : Dev) (u t : Nat) (l : KLoop) : Dev :=
  let d := modSeat d u fun s =>
    let ts := tileOf s t
    { s with
      tiles := tput s.tiles t { ts with shift := ts.shift + 1, rerun := true, kblk := 0, landed := false }
      flights := (l.cmds.map fun w =>
          { ctx := l.ctx, acc := BitVec.ofNat 3 t, word := w, half := l.half, blk := 0
            nblk := if cOp w = 2 then 1 else (cF w 39 24 + 127) / 128, load := cOp w == 2 }) ++
        s.flights.filter fun f => f.acc.toNat != t }
  inc32 d (seatPage u + rSEAT_RERUNCNT) 1

/-- A k-block lands in its tile (R55–R58, R82, R97). -/
def blockLand (d : Dev) (u : Nat) (f : Flight) : Dev :=
  let s := seatOf d u
  let w := f.word
  let t := f.acc.toNat
  let c := f.ctx.toNat
  let fa := cF w 14 11
  let fb := cF w 18 15
  let sp := cF w 20 19
  let kb := kblockOf fa
  let k0 := f.blk * kb
  let n := min kb (cF w 39 24 - k0)
  let ba := opBase s u c f.half (cF w 21 21 == 1) (cF w 78 64)
  let bb := opBase s u c f.half (cF w 22 22 == 1) (cF w 94 80)
  let fresh := f.blk == 0 && cF w 9 9 == 0
  let start (e : Nat) : Nat := if fresh then 0 else peekN d (accBase u t + 4 * e) 4
  let d0 := inc64 d (seatPage u + rSEAT_BUSY) (blockCols fa fb sp n)
  if pairing fa fb sp = some 2 then
    let sh := (tileOf s t).shift.toNat
    let rs := (List.range 4096).map fun e => intBlock d ba fa bb fb sh k0 n (e / 64) (e % 64) (sext 32 (start e))
    match tfind s.kloops t with
    | some l =>
      let bad (p : Nat × Int) : Bool := !inI32 p.2 && !l.sat.contains p.1
      let ps := rs.mapIdx fun e z => (e, z)
      let ovs := (ps.filter bad).map (·.1)
      if !ovs.isEmpty && sh < 2 then rerunLoop d0 u t l
      else
        let sat := if fresh then ovs else l.sat ++ ovs
        let out (p : Nat × Int) : Nat := if l.sat.contains p.1 && !fresh then start p.1 else wrapZ 32 (satI32 p.2)
        let d := putBytes d0 (accBase u t) ((ps.map out).flatMap (leBytes 4))
        let d := modSeat d u fun s => { s with kloops := tput s.kloops t { l with sat := sat } }
        landFlight (modTile d u t fun ts => { ts with ovf := ts.ovf || !ovs.isEmpty }) u f
    | none =>
      let d := putBytes d0 (accBase u t) ((rs.map fun z => wrapZ 32 (satI32 z)).flatMap (leBytes 4))
      landFlight (modTile d u t fun ts => { ts with ovf := ts.ovf || rs.any fun z => !inI32 z }) u f
  else
    let rs := (List.range 4096).map fun e => floatBlock d ba fa bb fb sp k0 n (e / 64) (e % 64) (start e)
    let d := putBytes d0 (accBase u t) ((rs.map (·.1)).flatMap (leBytes 4))
    landFlight (modTile d u t fun ts => { ts with accnf := ts.accnf || rs.any (·.2) }) u f

/-- MMA_BLOCK_LANDS: the next k-block in the array is written to its tile (R82). -/
def execMmaBlockLands (u : SeatAt) (s : State) : Host.Outcome State Fault Refusal :=
  runIf u.wf (fun d => match nextFlight d (seatIdx u) false with
    | some f => blockLand d (seatIdx u) f
    | none => d) s

/-- A LOADACC issues (R86, R89, R96). -/
def loadIssue (w : SeatWord) (d : Dev) (u c : Nat) : Dev :=
  let t := cF w 8 6
  modSeat d u fun s =>
    let h := (ctxOf s c).half
    { s with
      tiles := tput s.tiles t { newLoop (tileOf s t) (1 + cF w 9 9) with mma := false }
      kloops := if cF w 9 9 = 1 then tput s.kloops t { cmds := [w], half := h, ctx := BitVec.ofNat 2 c, sat := [] } else tdel s.kloops t
      flights := s.flights ++ [{ ctx := BitVec.ofNat 2 c, acc := BitVec.ofNat 3 t, word := w, half := h, blk := 0, nblk := 1, load := true }] }

/-- LOADACC (R86). -/
def execSeatLoadacc (c : CtxAt) (w : SeatWord) (s : State) : Host.Outcome State Fault Refusal := seatCmd 2 c w (loadIssue w) s

/-- LOADACC_LANDS: the tile is written (R84, R92); in a rerun each element is halved SHIFT times (R97). -/
def execLoadaccLands (u : SeatAt) (s : State) : Host.Outcome State Fault Refusal :=
  runIf u.wf (fun d =>
    let i := seatIdx u
    match nextFlight d i true with
    | none => d
    | some f =>
      let sx := seatOf d i
      let src := opBase sx i f.ctx.toNat f.half (cF f.word 10 10 == 1) (cF f.word 78 64)
      let sh := (tileOf sx f.acc.toNat).shift.toNat
      let d := if sh = 0 then store d (.copy src (accBase i f.acc.toNat) 16384)
        else putBytes d (accBase i f.acc.toNat) ((List.range 4096).flatMap fun e =>
          leBytes 4 (wrapZ 32 (halveN sh (sext 32 (peekN d (src + 4 * e) 4)))))
      landFlight d i f) s

/-! ### DRAIN and the epilogue (R86, R93–R95) -/

/-- DRAIN: it leaves the issue port and waits in the epilogue queue, with the context's latest SETIDX (R84, R94). -/
def execSeatDrain (c : CtxAt) (w : SeatWord) (s : State) : Host.Outcome State Fault Refusal :=
  seatCmd 3 c w (fun d u n => modSeat d u fun s =>
    let x := ctxOf s n
    { s with drains := s.drains ++ [{ ctx := BitVec.ofNat 2 n, word := w, half := if cF w 79 79 = 1 then !x.half else x.half
                                      vrows := x.vrows, vcols := x.vcols, rstride := x.rstride, base := x.base }] }) s

/-- A drain may begin: its tile has landed, no rerun is pending (R93), and its destination is free (R92). -/
def drainReady (s : Seat) (q : Drain) : Bool :=
  let t := cF q.word 8 6
  !tileBusy s t && !(tileOf s t).rerun && !(s.krun && (kAccWr s.kword).testBit t) &&
  (cF q.word 17 17 == 0 ||
    let n := cF q.word 67 64
    !(s.krun && (kTRd s.kword ||| kTWr s.kword).testBit n) &&
    !(s.flights.any fun f => (flightRegs f.word).contains n) &&
    !(s.kloops.any fun k => decide (k.1 ≠ t) && k.2.cmds.any fun w => (flightRegs w).contains n))

/-- The first drain of the epilogue queue that may begin; the drains of one context keep their order. -/
def nextDrain (d : Dev) (u : Nat) : Option Drain :=
  let s := seatOf d u
  let rec go (seen : List (BitVec 2)) : List Drain → Option Drain
    | [] => none
    | q :: t =>
      let ok := match (ctxOf s q.ctx.toNat).step with
        | some k => canRun d k
        | none => false
      if !seen.contains q.ctx && ok && drainReady s q then some q else go (q.ctx :: seen) t
  if s.fenced then none else go [] s.drains

/-- Status word of a tile (R91). -/
def statWord (s : Seat) (t : Nat) : Nat :=
  let ts := tileOf s t
  let a := s.acccfg.toNat
  ts.kind.toNat + 4 * b2n ts.landed + 8 * b2n ts.ovf + 16 * b2n ts.accnf + 32 * ts.shift.toNat + 128 * b2n ts.rerun +
  256 * b2n (accMapped s t) + 512 * fld a (4 * t + 1) (4 * t) + 2 ^ 16 * ts.kblk.toNat + 2 ^ 32 * ts.fmta.toNat +
  2 ^ 36 * ts.fmtb.toNat + 2 ^ 40 * ts.split.toNat

/-- y and the converted bits of one element of a drain (R62, R94). -/
def drainElem (d : Dev) (st : Option Step) (sl : ScaleSlot) (q : Drain) (p kind acc i j : Nat) : Nat × Nat × Cnt :=
  let v := if kind = 2 then ofInt32 (sext 32 acc) else acc
  let y := mul32 v p
  let idx := (q.base.toNat + i * q.rstride.toNat + j) % 2 ^ 64
  let (b, cnt) := slotConvert d st sl y idx (cF q.word 14 14 == 1) (cF q.word 15 15 == 1) (cF q.word 16 16 == 1)
  (y, b, cnt)

/-- A drain reads its tile and writes its rows (R94); the k-loop ends (R96). -/
def drainRun (d : Dev) (u : Nat) (q : Drain) : Dev :=
  let s := seatOf d u
  let w := q.word
  let c := q.ctx.toNat
  let x := ctxOf s c
  let t := cF w 8 6
  let ts := tileOf s t
  let dst := if cF w 17 17 = 1 then tregBase u (cF w 67 64) else halfBase u q.half + (regionOf s c).1 + cF w 78 64 * 64
  let d1 :=
    if cF w 9 9 = 1 then store d (.copy (accBase u t) dst 16384)
    else
      let sl := slotOfCtx x (cF w 31 28)
      let sa := mul32 (slotOfCtx x (cF w 23 20)).scale.toNat (pow32 ts.shift.toNat)
      let p := mul32 sa (slotOfCtx x (cF w 27 24)).scale.toNat
      let st := stepOfCtx d u c
      let es := (List.range 4096).map fun e => (e, drainElem d st sl q p ts.kind.toNat (peekN d (accBase u t + 4 * e) 4) (e / 64) (e % 64))
      let g := es.filter fun e => decide (e.1 / 64 < q.vrows) && decide (e.1 % 64 < q.vcols)
      let r := g.foldl (fun r e => gather r e.2.1 e.2.2.2) sl.run
      let d := putBytes d dst (es.flatMap fun e => leBytes (fmtBits (cF w 13 10) / 8) e.2.2.1)
      noteConv (modSlot d u c (cF w 31 28) fun sl => { sl with run := r }) u c (cF w 31 28) (g.any fun e => nonfin e.2.2.2)
  let d2 := if cF w 18 18 = 1 then putBytes d1 (dst + (drainBytes w - 8)) (leBytes 8 (statWord s t)) else d1
  let d3 := modSeat d2 u fun s => { s with drains := s.drains.erase q, kloops := tdel s.kloops t }
  let d4 := if ts.ovf then inc32 d3 (seatPage u + rSEAT_OVFCNT) 1 else d3
  match x.step with
  | some k => modFl d4 k fun f => { f with ovf := f.ovf || ts.ovf, accnf := f.accnf || ts.accnf }
  | none => d4

/-- DRAIN_EPILOGUE: the first drain that may begin reads its tile and writes its last row (R93, R94). -/
def execDrainEpilogue (u : SeatAt) (s : State) : Host.Outcome State Fault Refusal :=
  runIf u.wf (fun d => match nextDrain d (seatIdx u) with
    | some q => drainRun d (seatIdx u) q
    | none => d) s

/-! ### The other commands -/

/-- SETIDX (R86). -/
def execSeatSetidx (c : CtxAt) (w : SeatWord) (s : State) : Host.Outcome State Fault Refusal :=
  seatCmd 4 c w (fun d u n => modCtx d u n fun x =>
    { x with vrows := cF w 12 6, vcols := cF w 19 13, rstride := BitVec.ofNat 32 (cF w 63 32), base := BitVec.ofNat 64 (cF w 127 64) }) s

/-- SWAPH: the halves exchange roles, the filled grant becomes the computed one, and the context may ask for its next
(R79, R140, R146). -/
def execSeatSwaph (c : CtxAt) (w : SeatWord) (s : State) : Host.Outcome State Fault Refusal :=
  seatCmd 5 c w (fun d u n => modCtx d u n fun x => { x with half := !x.half, comp := x.fill, fill := none, walk := none }) s

/-- LANE: the kernel starts on the 32 lane cores (R87, R108). -/
def execSeatLane (c : CtxAt) (w : SeatWord) (s : State) : Host.Outcome State Fault Refusal :=
  seatCmd 6 c w (fun d u n => modSeat d u fun s => startKernel s n w (ctxOf s n).base) s

/-- FENCE: completes when every earlier command of the context has (R84). -/
def execSeatFence (c : CtxAt) (w : SeatWord) (s : State) : Host.Outcome State Fault Refusal := seatCmd 7 c w (fun d _ _ => d) s

/-- YIELD: a switch, if another context is ready (R100). -/
def execSeatYield (c : CtxAt) (w : SeatWord) (s : State) : Host.Outcome State Fault Refusal := seatCmd 8 c w switchFrom s

/-- END: the tile job's completion token reaches the cox (R84, R141); with the queue empty the seat switches (R100). -/
def execSeatEnd (c : CtxAt) (w : SeatWord) (s : State) : Host.Outcome State Fault Refusal :=
  seatCmd 9 c w (fun d u n =>
    let d := endJob d u n
    if (ctxOf (seatOf d u) n).queue.isEmpty then switchFrom d u n else d) s

/-! ### Seat configuration (R105) -/

/-- Two contexts hold one scratchpad unit. -/
def regionsOverlap (v : Nat) : Bool :=
  (List.range 4).any fun a => (List.range 4).any fun b => decide (a < b) &&
    overlaps (fld v (16 * a + 7) (16 * a)) (fld v (16 * a + 15) (16 * a + 8)) (fld v (16 * b + 7) (16 * b)) (fld v (16 * b + 15) (16 * b + 8)) &&
    decide (0 < fld v (16 * a + 15) (16 * a + 8)) && decide (0 < fld v (16 * b + 15) (16 * b + 8))

/-- A new value changes the fields of a loaded context (R105): `n` fields of `w` bits; fields of tiles belong to the
owner they had and to the one they get. -/
def cfgTouches (s : Seat) (old new n : Nat) : Bool :=
  let held (c : Nat) : Bool := (ctxOf s c).step.isSome
  (List.range n).any fun i =>
    let a := fld old (4 * i + 3) (4 * i)
    let b := fld new (4 * i + 3) (4 * i)
    a != b && ((decide (8 ≤ a) && held (a % 4)) || (decide (8 ≤ b) && held (b % 4)))

/-- The write of a seat configuration register: ignored with SEAT_ERR bit 1 where R105 says so. A tile or register has
one OWNER field, so it cannot be given to two contexts. -/
def cfgWrite (d : Dev) (u : Nat) (which : SeatCfg) (v : Nat) : Dev :=
  let s := seatOf d u
  let err := recordErr d (seatPage u + rSEAT_ERR) (seatPage u + rSEAT_ERRINFO) 1 (1 * 256)
  match which with
  | .acc => if cfgTouches s s.acccfg.toNat (v % 2 ^ 32) 8 then err else modSeat d u fun s => { s with acccfg := BitVec.ofNat 32 v }
  | .treg =>
    let v := v &&& 0xBBBBBBBBBBBBBBBB
    if cfgTouches s s.tregcfg.toNat v 16 then err else modSeat d u fun s => { s with tregcfg := BitVec.ofNat 64 v }
  | .scr =>
    let old := s.scrcfg.toNat
    let f (x c : Nat) := fld x (16 * c + 15) (16 * c)
    let touch := (List.range 4).any fun c => f old c != f v c && (ctxOf s c).step.isSome
    let past := (List.range 4).any fun c => decide (0 < f v c / 256) && decide (32 < f v c % 256 + f v c / 256)
    if touch || past || regionsOverlap v then err else modSeat d u fun s => { s with scrcfg := BitVec.ofNat 64 v }

/-- SEAT_CFG_WRITE (R105). -/
def execSeatCfgWrite (u : SeatAt) (which : SeatCfg) (v : W64) (s : State) : Host.Outcome State Fault Refusal :=
  runIf u.wf (fun d => cfgWrite d (seatIdx u) which v.toNat) s

end Sys2Proof.Machine
end

