-- ==== Sys2Proof/Machine/Cox.lean ====
section
/-! DEFINITION. The cox (R146–R156): grants, operand blocks, completion of job sets, halo rows, and re-grants. -/
namespace Sys2Proof.Machine

/-- Failure of a step by its cox (R155, R156): COX_ERR, COX_ERRINFO and the step's failure. -/
def coxFail (d : Dev) (k crew slot j code : Nat) : Dev :=
  failStep (recordErr d (coxPage crew + rCOX_ERR) (coxPage crew + rCOX_ERRINFO) (code - 16) (slot + j * 4 + code * 256))
    k code (unitCode 1 crew)

/-! ### Grants (R144–R147, R152) -/

/-- Every earlier job set of the step is complete on this crew (R135, R191). -/
def barrierOpen (d : Dev) (p : Prog) (crew j : Nat) : Bool :=
  !jsBarrier (jsOf p j) || (List.range j).all fun i =>
    match cntOfJs (coxOf d crew) (pSlot p) i with
    | some n => (cntGet d crew n).done
    | none => true

/-- NEXT passes what is skipped before it (R145, R147); a group's indices are taken whole (R152). -/
def passSkipped (d : Dev) (st : Step) (crew n : Nat) : Except XErr Dev :=
  let c := cntGet d crew n
  if jsGs (jsOf (progOf st) c.jobset) ≠ 1 ∨ jsGd (jsOf (progOf st) c.jobset) ≠ 1 then .ok d
  else match skipFrom d st c.jobset crew (c.fin - c.next) c.next 0 with
    | .error e => .error e
    | .ok (t, m) => .ok (if m = 0 then d else
        inc64 (cntMod d crew n fun w => { w with next := t }) (coxPage crew + rCOX_SKIPCNT) m)

/-- The counter that serves a context's request (R134): the first of its list that is not exhausted; none while its
barrier holds or an engine's work is awaited. -/
def pickCounter (d : Dev) (st : Step) (crew : Nat) : List Nat → Except XErr (Dev × Option (Nat × Nat))
  | [] => .ok (d, none)
  | j :: t =>
    match cntOfJs (coxOf d crew) (pSlot (progOf st)) j with
    | none => pickCounter d st crew t
    | some n =>
      if cntEmpty (cntGet d crew n) then pickCounter d st crew t
      else if !barrierOpen d (progOf st) crew j || jsWaits st j then .ok (d, none)
      else match passSkipped d st crew n with
        | .error e => .error e
        | .ok d => if cntEmpty (cntGet d crew n) then pickCounter d st crew t else .ok (d, some (n, j))

/-- Template of a job set. -/
def tmplOf (p : Prog) (j : Nat) : Bytes := p.tmpls.getD j []

/-- The commands of a tile, with the pointer-list entry read for it; none while a selection list is missing (R222). -/
def tilePlan (d : Dev) (st : Step) (j : Nat) (i : List Nat) : Except XErr (Option (Bytes × List SeatWord)) :=
  let p := progOf st
  let js := jsOf p j
  match plEntry d st.g.toNat p j (i.getD 2 0) with
  | .error e => .error e
  | .ok ent =>
    match walkFor p j with
    | none => .ok (some (ent, tileCmds p js (tmplOf p j) ent i none))
    | some wi =>
      match walkPages d st.g.toNat st wi (qOf (walkOf p wi) i) with
      | .error e => .error e
      | .ok none => .ok none
      | .ok (some pages) => .ok (some (ent, tileCmds p js (tmplOf p j) ent i (some (wi, pages.length))))

/-- The cox keeps the pointer-list entry of a problem it grants a tile of (R132), counted when it is read (R404). -/
def keepEntry (d : Dev) (k j i2 : Nat) (ent : Bytes) : Dev :=
  if ent.isEmpty then d
  else
    let d := match tfind d.steps k with
      | some st => if (tfind (progOf st).plist (plKey j i2)).isSome then d
          else dramCount d st.g.toNat ((transRange d st.g.toNat ((w64At (jsOf (progOf st) j) 0x28 + 64 * i2) % 2 ^ 64) 64 false).toOption.getD [])
      | none => d
    modStep d k fun st => { st with prog := st.prog.map fun p => { p with plist := tput p.plist (plKey j i2) ent } }

/-- A grant reaches a context: its commands are checked (R144) and pushed. -/
def giveGrant (d : Dev) (u c n j t : Nat) (i : List Nat) (null : Bool) (cmds : List SeatWord) : Dev :=
  let crew := u / 16
  let s := seatOf d u
  let x := ctxOf s c
  let cn := cntGet d crew n
  let gr : Grant := { counter := n, jobset := j, index := t, epoch := (tfind cn.recs t).getD cn.epoch, i0 := i.getD 0 0
                      i1 := i.getD 1 0, i2 := i.getD 2 0, null := null, pos0 := x.pos + x.queue.length + x.todo.length
                      landed := [] }
  if null then modCtx d u c fun x => { x with fill := some gr }
  else
    let d := inc64 d (coxPage crew + rCOX_GRANTCNT) 1
    let d := cntMod d crew n fun w => { w with out := w.out ++ [t] }
    match cmds.findSome? fun w => (staticCheck s c w).map fun e => (w, e) with
    | some (w, e) => seatFail d u c (cOp w) e
    | none => modCtx d u c fun x => refill { x with fill := some gr, todo := x.todo ++ cmds }

/-- The shared blocks of a null grant have all landed (R152). -/
def nullDone (p : Prog) (gr : Grant) : Bool :=
  (List.range 4).all fun i => match jsStream (jsOf p gr.jobset) i with
    | none => true
    | some s => !((sdCtl (sdOf p s)).testBit 9 || (sdCtl (sdOf p s)).testBit 10) || decide (sdNblk (sdOf p s) ≤ tget 0 gr.landed i)

/-- A context is at its grant point (R146): it holds no grant that is being filled. -/
def atGrantPoint (d : Dev) (k u c : Nat) : Bool :=
  let s := seatOf d u
  let x := ctxOf s c
  x.step == some k && !x.failed && !s.fenced && !s.wiping && match x.fill with
    | none => true
    | some gr => gr.null && nullDone (progAt d u c) gr

/-- One index to one context (R147). -/
def grantOne (d : Dev) (st : Step) (k u c n j : Nat) : Except XErr Dev :=
  let crew := u / 16
  let cn := cntGet d crew n
  let t := cn.regrant.head?.getD cn.next
  let i := coordsOf st (jsOf (progOf st) j) crew t
  match tilePlan d st j i with
  | .error e => .error e
  | .ok none => .ok d
  | .ok (some (ent, cmds)) =>
    let d := keepEntry d k j (i.getD 2 0) ent
    let d := cntMod d crew n fun w => match w.regrant with
      | _ :: r => { w with regrant := r }
      | [] => { w with next := w.next + 1 }
    let d := giveGrant d u c n j t i false cmds
    if cn.regrant.isEmpty then passSkipped d st crew n else .ok d

/-- Consecutive indices to the members of a group (R152). -/
def grantMembers (st : Step) (k j : Nat) : List (Nat × Nat) → Nat → Dev → Except XErr Dev
  | [], _, d => .ok d
  | (u, c) :: rest, t, d =>
    let crew := u / 16
    match cntOfJs (coxOf d crew) (pSlot (progOf st)) j with
    | none => .ok d
    | some n =>
      let i := coordsOf st (jsOf (progOf st) j) crew t
      match skipped d st j crew t with
      | .error e => .error e
      | .ok true => grantMembers st k j rest (t + 1)
          (inc64 (giveGrant d u c n j t i true []) (coxPage crew + rCOX_SKIPCNT) 1)
      | .ok false =>
        match tilePlan d st j i with
        | .error e => .error e
        | .ok none => .ok d
        | .ok (some (ent, cmds)) =>
          grantMembers st k j rest (t + 1) (giveGrant (keepEntry d k j (i.getD 2 0) ent) u c n j t i false cmds)

/-- A work counter serves a context's request (R147, R151, R152, R154). -/
def workGrant (d : Dev) (u c : Nat) : Dev :=
  let crew := u / 16
  let s := seatOf d u
  match (ctxOf s c).step with
  | none => d
  | some k =>
    match tfind d.steps k with
    | none => d
    | some st =>
      if !canRun d k || !atGrantPoint d k u c then d
      else match pickCounter d st crew (boundJs (progOf st) s.logical.toNat c) with
        | .error e => failX d k e (unitCode 1 crew)
        | .ok (d, none) => d
        | .ok (d, some (n, j)) =>
          let cn := cntGet d crew n
          let grp := groupOf d st j crew u c
          let r :=
            if grp.isEmpty || !cn.regrant.isEmpty then grantOne d st k u c n j
            else if grp.all fun m => atGrantPoint d k m.1 m.2 then
              let lists := grp.all fun m =>
                match tilePlan d st j (coordsOf st (jsOf (progOf st) j) (m.1 / 16) cn.next) with
                | .ok none => false
                | _ => true
              if lists then grantMembers st k j grp cn.next (cntMod d crew n fun w => { w with next := w.next + grp.length })
              else .ok d
            else .ok d
          match r with
          | .error e => failX d k e (unitCode 1 crew)
          | .ok d => d

/-- WORK_GRANT (R147). -/
def execWorkGrant (c : CtxAt) (s : State) : Host.Outcome State Fault Refusal :=
  runIf c.wf (fun d => workGrant d (ctxIdx c) c.ctx.toNat) s

/-! ### Operand blocks (R139, R140, R153, R194) -/

/-- The grant of a context that a block of slot `i` would belong to: the computed one while it lacks blocks, else the one
being filled; with the half it lands in. -/
def blockGrant (p : Prog) (x : Ctx) (i : Nat) : Option (Bool × Grant) :=
  let lacks (gr : Grant) : Bool := match jsStream (jsOf p gr.jobset) i with
    | none => false
    | some s => (walkStream p gr.jobset s).isNone && decide (tget 0 gr.landed i < sdNblk (sdOf p s))
  match x.comp with
  | some gr => if lacks gr then some (true, gr) else (x.fill.filter lacks).map fun g => (false, g)
  | none => (x.fill.filter lacks).map fun g => (false, g)

/-- A block is written to a context's half and its token is granted. -/
def landBlock (d : Dev) (u c i : Nat) (p : Prog) (bs : Bytes) : Dev :=
  let s := seatOf d u
  let x := ctxOf s c
  match blockGrant p x i with
  | none => d
  | some (comp, gr) =>
    match jsStream (jsOf p gr.jobset) i with
    | none => d
    | some n =>
      let b := sdOf p n
      let k := tget 0 gr.landed i
      let d := putBytes d (halfBase u (if comp then x.half else !x.half) + (regionOf s c).1 + sdSoff b + k * sdBlk b) bs
      let gr := { gr with landed := tput gr.landed i (k + 1) }
      modCtx d u c fun x => if comp then { x with comp := some gr } else { x with fill := some gr }

/-- The members that share a block with a context (R153): those of its group that await the same block of the same group
grant; only itself for a stream that is not shared or after the group is dissolved. -/
def sharers (d : Dev) (st : Step) (u c i : Nat) (gr : Grant) (shared : Bool) : Option (List (Nat × Nat)) :=
  let p := progOf st
  let grp := groupOf d st gr.jobset (u / 16) u c
  let js := jsOf p gr.jobset
  let w := jsGs js * jsGd js
  let redo := (tfind (cntGet d (u / 16) gr.counter).recs gr.index).isSome
  if !shared || grp.isEmpty || redo then some [(u, c)]
  else if grp.all fun m => match blockGrant p (ctxOf (seatOf d m.1) m.2) i with
      | some (_, g) => g.jobset == gr.jobset && g.index / w == gr.index / w && tget 0 g.landed i == tget 0 gr.landed i
      | none => false then some grp
  else none

/-- The next block of an operand stream lands in a context (R140). -/
def streamBlock (d : Dev) (u c i : Nat) : Dev :=
  let crew := u / 16
  let s := seatOf d u
  let x := ctxOf s c
  match x.step with
  | none => d
  | some k =>
    match tfind d.steps k with
    | none => d
    | some st =>
      let p := progOf st
      if s.fenced || s.wiping || x.failed || !canRun d k then d
      else match blockGrant p x i with
        | none => d
        | some (_, gr) =>
          let js := jsOf p gr.jobset
          match jsStream js i with
          | none => d
          | some n =>
            let b := sdOf p n
            let co := [gr.i0, gr.i1, gr.i2]
            if !haloReady st gr.jobset crew co then d
            else match sharers d st u c i gr ((sdCtl b).testBit 9 || (sdCtl b).testBit 10) with
              | none => d
              | some ms =>
                match plEntry d st.g.toNat p gr.jobset gr.i2 with
                | .error e => failX d k e (unitCode 1 crew)
                | .ok ent =>
                  match operandBlock d st.g.toNat crew p js b ent co (tget 0 gr.landed i) with
                  | .error e => failX d k e (unitCode 1 crew)
                  | .ok (bs, d) => ms.foldl (fun d m => landBlock d m.1 m.2 i p bs) d

/-- STREAM_BLOCK_LANDED: block and token of operand stream S0–S3 (R140). -/
def execStreamBlockLanded (c : CtxAt) (strm : BitVec 2) (s : State) : Host.Outcome State Fault Refusal :=
  runIf c.wf (fun d => streamBlock d (ctxIdx c) c.ctx.toNat strm.toNat) s

/-! ### Job sets and rows (R137, R193) -/

/-- Step key in a context slot of a crew. -/
def slotStep (d : Dev) (crew slot : Nat) : Option Nat := tfind (coxOf d crew).slots slot

/-- JOBSET_COMPLETE: the counter is exhausted, every granted tile has ended and its result writes have landed (R137). -/
def execJobsetComplete (crew : CrewNo) (counter : BitVec 6) (s : State) : Host.Outcome State Fault Refusal :=
  run (fun d =>
    let cr := crew.toNat
    let n := counter.toNat
    let c := cntGet d cr n
    match slotStep d cr c.slot.toNat with
    | none => d
    | some k =>
      match tfind d.steps k with
      | none => d
      | some st =>
        if !c.active || c.done || !canRun d k || !barrierOpen d (progOf st) cr c.jobset || jsWaits st c.jobset then d
        else match passSkipped d st cr n with
          | .error e => failX d k e (unitCode 1 cr)
          | .ok d =>
            let c := cntGet d cr n
            if !cntEmpty c || !c.out.isEmpty then d
            else
              let d := modCox d cr fun x => { x with counters := tput x.counters n { cntOf x n with done := true } }
              if st.crews.all fun z => match cntOfJs (coxOf d z) (pSlot (progOf st)) c.jobset with
                  | some m => (cntGet d z m).done
                  | none => false
              then modStep d k fun st => if st.jsDone.contains c.jobset then st else { st with jsDone := st.jsDone ++ [c.jobset] }
              else d) s

/-- Every tile of a row of a job-set producer that the crew has granted has ended, and none is still to be granted
(R193). -/
def rowDone (d : Dev) (st : Step) (crew j row : Nat) : Bool :=
  match cntOfJs (coxOf d crew) (pSlot (progOf st)) j with
  | none => false
  | some n =>
    let b := jsOf (progOf st) j
    let g := gridOf st b crew
    let w := g.getD 0 1 * g.getD 1 1
    let r := row - (crewPart st b crew).1
    let c := cntGet d crew n
    let inRow (t : Nat) : Bool := decide (r * w ≤ t) && decide (t < (r + 1) * w)
    decide ((r + 1) * w ≤ c.next) && !(c.out.any inRow) && !(c.regrant.any inRow)

/-- Rows of a band that may be published from its first on (R193). -/
def readyRows (ok : Nat → Bool) : Nat → Nat → Nat
  | _, 0 => 0
  | r, n + 1 => if ok r then 1 + readyRows ok (r + 1) n else 0

/-- Publish the rows that have ended in the bands of a convolution that a crew fills, or that a stem fills for it. -/
def publishRows (d : Dev) (k crew ci : Nat) (st : Step) : Dev :=
  let cv := (progOf st).convs.getD ci []
  let pjs := leAt cv 0 1
  let ok (b : Band) (row : Nat) : Bool :=
    if b.prod < 64 then rowDone d st b.prod pjs row
    else match (tvals d.stems).find? fun s => s.1 == k && s.2.1 == b.prod - 64 with
      | some s => decide (row < s.2.2.1)
      | none => true
  modStep d k fun st => { st with bands := st.bands.map fun b =>
    if b.conv = ci ∧ (b.prod = crew ∨ (64 ≤ b.prod ∧ b.cons = crew)) then
      { b with avail := max b.avail (readyRows (ok b) b.first b.len) } else b }

/-- HALO_ROW_PUBLISH (R193): for each step loaded in the crew that names the descriptor. -/
def execHaloRowPublish (crew : CrewNo) (conv : BitVec 4) (s : State) : Host.Outcome State Fault Refusal :=
  run (fun d => d.steps.foldl (fun d p =>
    if p.2.crews.contains crew.toNat && canRun d p.1 then publishRows d p.1 crew.toNat conv.toNat p.2 else d) d) s

/-! ### Re-grants (R148–R150, R154) -/

/-- One re-grant event of a counter (R148): EPOCH rises by one for all the indices it re-grants. -/
def regrant (d : Dev) (k crew n : Nat) (ts : List Nat) : Dev :=
  if ts.isEmpty then d
  else
    let c := cntGet d crew n
    if 65535 ≤ c.epoch then coxFail d k crew c.slot.toNat c.jobset 0x12
    else
      let e := c.epoch + 1
      inc32 (cntMod d crew n fun w => { w with epoch := e, regrant := w.regrant ++ ts, out := w.out.filter fun t => !ts.contains t
                                               recs := ts.foldl (fun r t => tput r t e) w.recs })
        (coxPage crew + rCOX_REGRANTCNT) ts.length

/-- Indices of a counter that a context holds. -/
def heldBy (x : Ctx) (n : Nat) : List Nat :=
  (x.comp.toList ++ x.fill.toList).filterMap fun g => if g.counter = n && !g.null then some g.index else none

/-- The grants of some contexts of a crew are re-granted, counter by counter. -/
def regrantCtxs (d : Dev) (crew : Nat) (cs : List (Nat × Nat)) : Dev :=
  (tkeys (coxOf d crew).counters).foldl (fun d n =>
    let c := cntGet d crew n
    match slotStep d crew c.slot.toNat with
    | none => d
    | some k =>
      let ts := cs.flatMap fun m => let x := ctxOf (seatOf d m.1) m.2
        if x.step = some k then (heldBy x n).filter fun t => c.out.contains t else []
      if c.active then regrant d k crew n (sortBy (fun a b => decide (a ≤ b)) ts) else d) d

/-- A step whose job set is bound to fenced seats only fails (R150). -/
def noSeat (d : Dev) (crew : Nat) : Dev :=
  (tkeys (coxOf d crew).counters).foldl (fun d n =>
    let c := cntGet d crew n
    match slotStep d crew c.slot.toNat with
    | none => d
    | some k => match tfind d.steps k with
      | none => d
      | some st =>
        let l := boundCtxs d (progOf st) crew c.jobset
        if c.active && !c.done && !l.isEmpty && l.all fun m => (seatOf d m.1).fenced then
          coxFail d k crew c.slot.toNat c.jobset 0x11 else d) d

/-- A seat is fenced (R103): its contexts fail and drop their work, groups with a member on it are dissolved (R154), its
grants are re-granted (R148), and a step left without seats fails (R150). -/
def fenceSeat (d : Dev) (u : Nat) : Dev :=
  let crew := u / 16
  let s := seatOf d u
  if s.fenced then d
  else
    let cs := ((List.range 4).filter fun c => (ctxOf s c).step.isSome)
    let groups := (tkeys (coxOf d crew).counters).foldl (fun a n =>
      let c := cntGet d crew n
      match slotStep d crew c.slot.toNat with
      | none => a
      | some k => match tfind d.steps k with
        | none => a
        | some st => if c.active && cs.any fun x => !(groupOf d st c.jobset crew u x).isEmpty then a + 1 else a) 0
    let d := recordErr d (seatPage u + rSEAT_ERR) (seatPage u + rSEAT_ERRINFO) 7 ((cs.head?).getD 0 + 7 * 256)
    let d := if groups = 0 then d else inc32 d (coxPage crew + rCOX_MCDISS) groups
    let d := regrantCtxs d crew (cs.map fun c => (u, c))
    let d := cs.foldl (fun d c => match (ctxOf s c).step with
      | some k => itemEnd d k 1 (unitCode 0 u) c
      | none => d) d
    let d := modSeat d u fun s => { cs.foldl dropCtx s with fenced := true }
    let d := modSeat d u fun s => { s with ctxs := cs.foldl (fun t c => tput t c { ctxOf s c with comp := none, fill := none, walk := none }) s.ctxs }
    noSeat d crew

end Sys2Proof.Machine
end

