-- ==== Sys2Proof/Machine/FabOps.lean ====
section
/-! DEFINITION. The fabric below its commands (R251–R264): frames, credits, sequence numbers and replay, messages and
their encryption, refusals and aborts. Frames that a port sends are listed in `Dev.txFrames`. -/
namespace Sys2Proof.Machine

/-! ### Frames (R257) -/

/-- One bit of CRC-32C, reflected. -/
def crcBit (c : Nat) : Nat := if c % 2 = 1 then (c / 2) ^^^ 0x82F63B78 else c / 2

/-- CRC-32C of bytes. -/
def crc32c (bs : Bytes) : Nat :=
  (bs.foldl (fun c b => crcBit (crcBit (crcBit (crcBit (crcBit (crcBit (crcBit (crcBit (c ^^^ b.toNat))))))))) 0xFFFFFFFF) ^^^ 0xFFFFFFFF

/-- Header bytes 0–27 of a frame. -/
def hdrBytes (f : Frame) : Bytes :=
  leBytes 1 (f.ftype.toNat + 16 * f.cls.toNat) ++ [f.mark] ++ leBytes 1 f.len.toNat ++
  leBytes 1 (b2n f.enc + 2 * b2n f.first + 4 * b2n f.last + 16 * f.keygen.toNat) ++ leBytes 4 f.seq.toNat ++
  leBytes 4 f.ack.toNat ++ leBytes 2 f.dst.toNat ++ leBytes 2 f.src.toNat ++ leBytes 2 f.ftag.toNat ++
  leBytes 2 (f.crdt.toNat + 4096 * f.crdtCls.toNat) ++ leBytes 8 f.ctr.toNat

/-- LCRC of a frame. -/
def lcrcOf (f : Frame) : W32 := BitVec.ofNat 32 (crc32c (hdrBytes f ++ f.payload ++ f.tag))

/-- Additional data of R264: the header with its link fields zero. -/
def aadOf (f : Frame) : Bytes := hdrBytes { f with mark := 0, seq := 0, ack := 0, crdt := 0, crdtCls := 0 }

/-- Nonce of R264. -/
def nonceOf (ctr src : Nat) : Bytes := leBytes 8 ctr ++ leBytes 2 src ++ [0, 0]

/-- An empty frame of a class and type. -/
def Frame.blank (cls ty : Nat) : Frame :=
  { ftype := BitVec.ofNat 4 ty, cls := BitVec.ofNat 4 cls, mark := 0, len := 0, enc := false, first := true, last := true
    keygen := 0, seq := 0, ack := 0, dst := 0, src := 0, ftag := 0, crdt := 0, crdtCls := 0, ctr := 0, lcrc := 0
    payload := [], tag := [], fec := true }

/-- Receive buffers that a frame takes (R261). -/
def bufsOf (f : Frame) : Nat := (32 * f.len.toNat + 255) / 256

/-! ### The module in its fabric (R254, R268) -/

/-- This module's MID. -/
def myMid (d : Dev) : Nat := (d.fab.map fun f => f.mid.toNat).getD 0

/-- MID of a rank of a gauntlet's peer table; none where V = 0 (R268). -/
def peerMid (d : Dev) (g r : Nat) : Option Nat :=
  let e := (tget 0 (gaunt d g).peers r).toNat
  if e.testBit 12 then some (fld e 11 0) else none

/-- Output port for a destination (R256). -/
def routeOf (d : Dev) (mid : Nat) : Option Nat := d.fab.bind fun f => (tfind f.route mid).map (·.toNat)

/-- A port carries frames. -/
def portUp (p : Port) : Bool := p.state == 3 || p.state == 4

/-- Stroke mark (R37). -/
def markOf (d : Dev) : Byte := BitVec.ofNat 8 d.strk.count.toNat

/-- Credits of a class that a port holds towards its peer. -/
def credOf (p : Port) (cls : Nat) : Nat := tget 0 p.creds cls

/-- A port sends a frame: LINK frames carry the next SEQ and take none; the others take one and stay in the replay
buffer (R260). -/
def emit (d : Dev) (p : Nat) (f : Frame) : Dev :=
  let x := portOf d p
  let f := { f with mark := markOf d, seq := x.txSeq, ack := x.rxSeq - 1 }
  let f := { f with lcrc := lcrcOf f }
  let d := { d with txFrames := d.txFrames ++ [(p, f)] }
  if f.cls = 0 then d
  else modPort d p fun x => { x with txSeq := x.txSeq + 1, replay := x.replay ++ [f]
                                     creds := tput x.creds f.cls.toNat (credOf x f.cls.toNat - bufsOf f) }

/-- A port may send a sequenced frame now. -/
def maySend (x : Port) (f : Frame) : Bool :=
  portUp x && decide (bufsOf f ≤ credOf x f.cls.toNat) && decide (x.replay.length < 4096)

/-- Waiting frames leave in arrival order, each that may be sent; one that must wait holds up those of its class alone (R256,
R261; log 120). -/
def drainWait : List Frame → Nat → Dev → Dev
  | [], _, d => d
  | f :: t, p, d =>
    if maySend (portOf d p) f && !(portOf d p).waitq.any (fun x => x.cls == f.cls) then drainWait t p (emit d p f)
    else drainWait t p (modPort d p fun x => { x with waitq := x.waitq ++ [f] })

/-- Send what waits at a port. -/
def flushPort (d : Dev) (p : Nat) : Dev := drainWait (portOf d p).waitq p (modPort d p fun x => { x with waitq := [] })

/-- A frame goes to a port: sent, or behind those that wait for credits. -/
def portSend (d : Dev) (p : Nat) (f : Frame) : Dev :=
  flushPort (modPort d p fun x => { x with waitq := x.waitq ++ [f] }) p

/-- A frame leaves by ROUTE; a destination without a route discards it. -/
def routeSend (d : Dev) (f : Frame) : Dev :=
  match routeOf d f.dst.toNat with
  | some p => portSend d p f
  | none => d

/-- Record a fabric failure (R283): bit and reason code, with gauntlet, port and remote MID. -/
def fabErr (d : Dev) (bit g port code mid : Nat) : Dev :=
  recordErr d rFAB_ERR rFAB_ERRINFO bit (g + 16 * port + 256 * code + 2 ^ 16 * mid)

/-- REJECT of a received message (R258): the reason code, then the first bytes of the refused frame's header (log 29). -/
def sendReject (d : Dev) (dst ftag code : Nat) (hdr : Bytes) : Dev :=
  routeSend d { Frame.blank 2 0 with
    dst := BitVec.ofNat 12 dst, src := BitVec.ofNat 12 (myMid d), ftag := BitVec.ofNat 16 ftag, len := 1
    payload := padTo 32 (leBytes 1 code ++ hdr.take 31) }

/-! ### Messages (R259, R264) -/

/-- The key a gauntlet sends under. -/
def sendKey (x : Gaunt) : Option TKey :=
  match x.keyCur with
  | some k => if some k.gen = x.sendGen then some k else x.keyPrev.filter fun q => some q.gen == x.sendGen
  | none => none

/-- The key of a generation for receiving: current or previous (R264). -/
def recvKey (x : Gaunt) (gen : BitVec 4) : Option TKey :=
  match x.keyCur with
  | some k => if k.gen = gen then some k else x.keyPrev.filter fun q => q.gen == gen
  | none => x.keyPrev.filter fun q => q.gen == gen

/-- A sent generation's CTR rises by one for each frame (R264). -/
def bumpCtr (x : Gaunt) : Gaunt :=
  let up (k : TKey) : TKey := if some k.gen = x.sendGen then { k with ctr := k.ctr + 1 } else k
  { x with keyCur := x.keyCur.map up, keyPrev := x.keyPrev.map up }

/-- One encrypted frame of a message. -/
def sendFrame (d : Dev) (g dst cls ty : Nat) (first last : Bool) (body : Bytes) : Dev :=
  let x := gaunt d g
  match sendKey x with
  | none => d
  | some k =>
    let f := { Frame.blank cls ty with
      dst := BitVec.ofNat 12 dst, src := BitVec.ofNat 12 (myMid d), ftag := x.ftag, enc := true, first := first, last := last
      keygen := k.gen, ctr := k.ctr, len := BitVec.ofNat 5 (body.length / 32) }
    let (c, t) := Config.gcmSeal k.key (nonceOf k.ctr.toNat (myMid d)) (aadOf f) body
    let d := modG d g bumpCtr
    let d := inc64 d rFAB_TXBYTES body.length
    let d := account d g fun a => { a with fabb := a.fabb + BitVec.ofNat 64 body.length }
    routeSend d { f with payload := c, tag := t }

/-- The frames of a message: payloads of at most 512 bytes in 32-byte units. -/
def sendFrames (g dst cls ty : Nat) : Nat → Bool → Bytes → Dev → Dev
  | 0, _, _, d => d
  | n + 1, first, bs, d =>
    if bs.length ≤ 512 then sendFrame d g dst cls ty first true (padTo (alignUp bs.length 32) bs)
    else sendFrames g dst cls ty n false (bs.drop 512) (sendFrame d g dst cls ty first false (bs.take 512))

/-- Send a message: a header of 32 bytes, then data (R259). -/
def sendMsg (d : Dev) (g dst cls ty : Nat) (hdr data : Bytes) : Dev :=
  sendFrames g dst cls ty (data.length / 512 + 2) true (padTo 32 hdr ++ data) d

/-! ### What a step does on the fabric -/

/-- The step declares fabric use (R254). -/
def fabUse (p : Prog) : Bool :=
  !p.buckets.isEmpty || !p.disp.isEmpty || !p.copies.isEmpty || p.walks.any fun w => w64At w 0x18 != 0

/-- An admitted, uncompleted step declares fabric use; a suspended one is not complete (R44; log 158). -/
def fabBusy (d : Dev) : Bool :=
  d.steps.any fun p => (p.2.st == .admitted || p.2.st == .suspended) && fabUse (progOf p.2)

/-- A group of the step's gauntlet. -/
def groupRec (d : Dev) (st : Step) : Option RGroup := (progOf st).group.bind fun n => tfind (gaunt d st.g.toNat).groups n

/-- MID of a member-list entry (R273). -/
def memMid (e : W32) : Nat := fld e.toNat 11 0

/-- Descriptor of a copy collective. -/
def copyDesc (st : Step) (i : Nat) : Bytes := (progOf st).copies.getD i []

/-- The dispatch descriptor. -/
def dispDesc (st : Step) : Bytes := (progOf st).disp.head?.getD []

/-- Position of this module among ranks. -/
def myPos (d : Dev) (g : Nat) (ranks : List Nat) : Nat := ranks.findIdx fun r => peerMid d g r == some (myMid d)

/-- An ABORT message to the members other than this module (R248, R272, R281). -/
def abortTo (d : Dev) (g cls : Nat) (mids : List Nat) (hdr : Bytes) : Dev :=
  mids.foldl (fun d m => if m = myMid d then d else sendMsg d g m cls (if cls = 3 then 3 else if cls = 4 then 4 else 2) hdr []) d

/-- A step that fails, is cancelled or is forcibly preempted tells its peers (R248, R272, R281): buckets not released, a
round not finished, copies not complete. -/
def sendAborts (d : Dev) (st : Step) (code : Nat) : Dev :=
  let g := st.g.toNat
  let d := match groupRec d st, st.buckets.find? fun b => !b.released with
    | some r, some b => abortTo d g 3 (r.members.map memMid) (leBytes 2 b.tag.toNat ++ leBytes 4 0 ++ leBytes 1 code)
    | _, _ => d
  let d := match st.round with
    | some r => if r.phase = 6 then d
        else
          let rd := w32At (dispDesc st) 0
          abortTo d g 4 (r.ranks.filterMap (peerMid d g)) (leBytes 2 rd ++ leBytes 4 rd ++ leBytes 1 code)
    | none => d
  st.copies.foldl (fun d c =>
    if c.2.complete then d
    else
      let rd := w32At (copyDesc st c.1) 4
      abortTo d g 6 (c.2.ranks.filterMap (peerMid d g)) (leBytes 2 rd ++ leBytes 4 rd ++ leBytes 1 code ++ leBytes 1 (myPos d g c.2.ranks))) d

/-- Admitted or suspended steps of a gauntlet, with their keys. -/
def liveSteps (d : Dev) (g : Nat) : Tbl Step :=
  d.steps.filter fun p => p.2.g.toNat == g && (p.2.st == .admitted || p.2.st == .suspended)

/-- A step fails on the fabric: FAB_ERR, FAB_ERRINFO and the step's failure (R282, R283). -/
def fabFail (d : Dev) (k g port code mid : Nat) : Dev :=
  failStep (fabErr d (code - 0x38) g port code mid) k code (unitCode 9 port)

/-- Steps of a gauntlet that use a class of message. -/
def usesClass (p : Prog) (cls : Nat) : Bool :=
  match cls with
  | 3 => !p.buckets.isEmpty
  | 4 => !p.disp.isEmpty
  | 5 => p.walks.any fun w => w64At w 0x18 != 0
  | 6 => !p.copies.isEmpty
  | _ => false

/-- Status with which a step fails for a refused message of a class (R248, R262, R272, R281). -/
def classStatus (cls code : Nat) : Nat := if cls = 4 then (if code = 0x3B then 0x33 else 0x34) else code

/-- A message of this module cannot go on (R262): the steps of its gauntlet that use its class fail. -/
def failClass (d : Dev) (ftag : W16) (cls port code : Nat) : Dev :=
  match (List.range 16).find? fun g => (gaunt d g).present && ftag != 0 && (gaunt d g).ftag == ftag with
  | none => d
  | some g => (liveSteps d g).foldl (fun d p =>
      if usesClass (progOf p.2) cls then
        (if cls = 4 then failStep (recordErr d rEXD_ERR rEXD_ERRINFO 2 (g + 0x34 * 2 ^ 16)) p.1 0x34 (unitCode 5 6)
         else fabFail d p.1 g port code (myMid d))
      else d) d

/-- A port goes DOWN (R262): every message whose frames wait at it, or have not been acknowledged (log 30), is refused
with LINKDOWN to its source, and its frames are discarded. -/
def portDown (d : Dev) (p : Nat) : Dev :=
  let x := portOf d p
  let fs := x.replay ++ x.waitq
  let d := modPort d p fun x => { x with state := 0, lanes := 0, replay := [], waitq := [], creds := [], replays := 0, retrains := 0, bufgnt := 0 }
  let msgs := fs.foldl (fun (a : List Frame) f =>
    if f.cls.toNat < 3 || a.any (fun g => g.src == f.src && g.ftag == f.ftag && g.cls == f.cls) then a else a ++ [f]) []
  msgs.foldl (fun d f =>
    if f.src.toNat = myMid d then failClass d f.ftag f.cls.toNat p 0x38
    else sendReject d f.src.toNat f.ftag.toNat 0x38 (hdrBytes f)) d

/-- Lanes of a mask. -/
def laneCount (m : BitVec 9) : Nat := popcount 9 m.toNat

/-- State of a port from its lanes (R252). -/
def portStateOf (n : Nat) : BitVec 3 := if 8 ≤ n then 3 else if 4 ≤ n then 4 else 0

/-- Replay from a sequence number: the frames kept are sent again (R260). After eight failed replays of one SEQ the port
retrains. -/
def replayFrom (d : Dev) (p : Nat) : Dev :=
  let x := portOf d p
  match x.replay with
  | [] => d
  | l =>
    if 8 ≤ x.replays then modPort d p fun x => { x with state := 1, replays := 0 }
    else
      let d := { d with txFrames := d.txFrames ++ l.map fun f =>
        let f := { f with mark := markOf d, ack := x.rxSeq - 1 }
        (p, { f with lcrc := lcrcOf f }) }
      inc32 (modPort d p fun x => { x with replays := x.replays + 1 }) rFAB_REPLAYCNT 1

/-- Serial-number order over 32 bits (R260): a is after b. -/
def seqAfter (a b : W32) : Bool := decide (0 < (a - b).toNat) && decide ((a - b).toNat < 2 ^ 31)

/-- An acknowledgement: frames up to it leave the replay buffer. -/
def ackTo (x : Port) (ack : W32) : Port :=
  let l := x.replay.filter fun f => seqAfter f.seq ack
  { x with replay := l, replays := if l.length = x.replay.length then x.replays else 0 }

end Sys2Proof.Machine
end

