-- ==== Sys2Proof/Machine/Snap.lean ====
section
/-! DEFINITION. What boundary action 1 latches (R38, R43): the work counted for the stroke just ended (R394, R402, R404,
R474), queue descriptors (R346, R350), step states and accounting counters. -/
namespace Sys2Proof.Machine

/-- A credit word (R32). -/
def creditWord (c : Credit) : Nat :=
  c.avail.toNat + c.limit.toNat * 2 ^ 17 + c.gnt.toNat * 2 ^ 34 + c.unit.toNat * 2 ^ 40 + b2n c.waitp * 2 ^ 56 +
    b2n c.waitc * 2 ^ 57 + b2n c.err * 2 ^ 58

/-- The 64 bytes of a queue descriptor (R346). -/
def queueImage (q : Queue) : Bytes :=
  leBytes 8 q.qbase.toNat ++
  leBytes 4 (q.cls.toNat + q.gnt.toNat * 4 + q.esz.toNat * 64 + q.nlog.toNat * 1024 + b2n q.int * 2 ^ 15 + q.qid.toNat * 2 ^ 16) ++
  leBytes 4 (b2n q.flush + b2n q.enable * 4 + q.fgen.toNat * 256 + q.gapidx.toNat * 65536) ++
  leBytes 4 q.wp.toNat ++ leBytes 4 q.rp.toNat ++ leBytes 4 q.wpx.toNat ++ leBytes 4 q.rpx.toNat ++
  leBytes 4 q.lost.toNat ++ leBytes 4 q.gaps.toNat ++ leBytes 4 q.resets.toNat ++ leBytes 4 q.drops.toNat ++
  leBytes 4 q.flushes.toNat ++ leBytes 4 q.penddrop.toNat ++ leBytes 8 (creditWord q.cred)

/-- Clock cycles of a stroke: 40 % of nominal in brace (R429). -/
def clocked (d : Dev) (n : Nat) : Nat := if d.sup.brace then n * 2 / 5 else n

/-- Crews that a save, a restore or a wipe occupies: their seat-cycles are counted to G0 (R404). -/
def crewOccupied (d : Dev) (c : Nat) : Bool := (coxOf d c).saving || (coxOf d c).restoring || (coxOf d c).wiping

/-- Crews whose seat-cycles are a gauntlet's: those that its admitted steps hold, and for G0 those that are occupied (R404;
log 160). -/
def crewsHeld (d : Dev) (g : Nat) : List Nat :=
  (List.range 64).filter fun c =>
    if crewOccupied d c then g == 0 else d.steps.any fun p => p.2.st == .admitted && p.2.g.toNat == g && p.2.crews.contains c

/-- Cycles of one gauntlet's units in the stroke just ended, and its steps that wait (R404). -/
def chargeG (d : Dev) (g : Nat) : Dev :=
  let seat := 8 * (crewsHeld d g).length * clocked d (strokeCycles d.strk.k)
  let iod := clocked d (strokeIod d.strk.k)
  let decs := (d.decs.filter fun c => c.2.busy && c.2.g.toNat == g).length
  let pipes := (d.pipes.filter fun p => p.2.busy && p.2.g.toNat == g).length
  let q := (d.steps.filter fun p => p.2.st == .queued && p.2.g.toNat == g).length
  let z := (d.steps.filter fun p => p.2.st == .suspended && p.2.g.toNat == g).length
  account d g fun a => { a with
    seatcyc := a.seatcyc + BitVec.ofNat 64 seat, deccyc := a.deccyc + BitVec.ofNat 64 (decs * iod)
    vidcyc := a.vidcyc + BitVec.ofNat 64 (pipes * iod), qwait := a.qwait + BitVec.ofNat 32 q
    suspwait := a.suspwait + BitVec.ofNat 32 z }

/-- Add cycles to the bins of the phase clock (R474): those of the step's own phase, and the others. -/
def Bins.plus (b : Bins) (phase own ing fab oth red : Nat) : Bins :=
  let w (n : Nat) : W64 := BitVec.ofNat 64 n
  let b := match phase with
    | 0 => { b with fwd := b.fwd + w own }
    | 1 => { b with bwd := b.bwd + w own }
    | 2 => { b with opt := b.opt + w own }
    | _ => { b with other := b.other + w own }
  { b with ingw := b.ingw + w ing, fabw := b.fabw + w fab, other := b.other + w oth, red := b.red + w red }

/-- The cycles of one admitted step in the stroke just ended: E and I (R402), and the bins (R474), whose parts are free
values within the cycles that there were (log 7). -/
def chargeStep (d : Dev) (k : Nat) : Dev :=
  match tfind d.steps k with
  | none => d
  | some st =>
    if st.st ≠ .admitted then d
    else
      let cyc := clocked d (strokeCycles d.strk.k)
      let e := st.crews.length * cyc
      let (v0, d) := freeVal d
      let (v1, d) := freeVal d
      let (v2, d) := freeVal d
      let (v3, d) := freeVal d
      let (v4, d) := freeVal d
      let (v5, d) := freeVal d
      let port := v0.toNat % (8 * e + 1)
      let own := v1.toNat % (port + 1)
      let ing := v2.toNat % (port - own + 1)
      let fab := v3.toNat % (port - own - ing + 1)
      let red := v4.toNat % (clocked d (strokeIod d.strk.k) + 1)
      let add (b : Bins) : Bins := b.plus st.phase.toNat own ing fab (port - own - ing - fab) red
      let other := d.steps.any fun p => p.2.st == .admitted && p.2.g != st.g
      let d := modStep d k fun st => { st with bins := add st.bins, ecyc := st.ecyc + e, icyc := st.icyc + v5.toNat % (e + 1), alone := st.alone && !other }
      modG d st.g.toNat fun x => { x with strokeAcc := add x.strokeAcc }

/-- The work of the stroke just ended is counted. -/
def strokeCharge (d : Dev) : Dev :=
  (tkeys d.steps).foldl chargeStep ((List.range 16).foldl (fun d g => if (gaunt d g).present then chargeG d g else d) d)

/-- Boundary action 1: every counter visible to a gauntlet is latched. A message that carries the mark of the next boundary
has it latched early (R37). -/
def snapTake (d : Dev) : Dev :=
  let d := strokeCharge d
  { d with
    snap := { count := d.strk.count + 1, early := true
              steps := d.steps.map fun p => (p.2.g, p.2.adm, (match p.2.st with
                | .queued => if p.2.hold = 0 then 0 else 1
                | .admitted => 2
                | .suspended => 3
                | .ended => 4), p.2.hold)
              accts := (List.range 16).map fun g => (g, (gaunt d g).acct) }
    queues := tmap (fun _ q => { q with snapImg := queueImage q }) d.queues }

end Sys2Proof.Machine
end

