-- ==== Sys2Proof/Machine/Fab.lean ====
section
/-! DEFINITION. Ports and frames (R252–R263), stroke alignment (R265–R267), copy collectives (R269–R272) and gradient
reduction (R273–R281). -/
namespace Sys2Proof.Machine

/-! ### Received frames (R258, R260, R261, R263) -/

/-- Classes and types that are defined (R258). -/
def frameDefined (f : Frame) : Bool :=
  let t := f.ftype.toNat
  match f.cls.toNat with
  | 0 | 1 => decide (t ≤ 2)
  | 2 => t == 0
  | 3 => decide (t ≤ 3)
  | 4 => decide (t ≤ 4)
  | 5 => decide (t ≤ 1)
  | 6 => decide (t ≤ 2)
  | _ => false

/-- A LINK frame to the peer: IDLE with acknowledgement and returned buffers, or NAK with the expected SEQ, which is the
acknowledgement plus one (R258, R260). -/
def sendLink (d : Dev) (p ty crdt cls : Nat) : Dev :=
  emit d p { Frame.blank 0 ty with src := BitVec.ofNat 12 (myMid d), crdt := BitVec.ofNat 12 crdt, crdtCls := BitVec.ofNat 4 cls }


/-- Credits that the peer grants at training: this configuration's LIMIT for the port and class (log 33). -/
def limitsOf (d : Dev) (p : Nat) : Tbl Nat :=
  match d.fab with
  | none => []
  | some f => (List.range 7).filterMap fun c => (tfind f.limit (16 * p + c)).map fun n => (c, n)

/-- Acknowledgement and credits of a received frame; waiting frames go out (R260, R261). A return that would pass the class's
LIMIT is not applied (R33). -/
def takeLink (d : Dev) (p : Nat) (f : Frame) : Dev :=
  let c := f.crdtCls.toNat
  let lim := tget 0 (limitsOf d p) c
  let d := modPort d p fun x => { ackTo x f.ack with
    creds := if f.crdt = 0 ∨ lim < credOf x c + f.crdt.toNat then x.creds else tput x.creds c (credOf x c + f.crdt.toNat) }
  flushPort d p

/-- NAK: everything before the expected SEQ is acknowledged, the rest is sent again (R260). -/
def takeNak (d : Dev) (p : Nat) (seq : W32) : Dev := replayFrom (modPort d p fun x => ackTo x (seq - 1)) p

/-- The gauntlet bound to an FTAG (R263). -/
def gauntOfTag (d : Dev) (ftag : W16) : Option Nat :=
  if ftag = 0 then none else (List.range 16).find? fun g => (gaunt d g).present && (gaunt d g).ftag == ftag

/-- The admitted step of a gauntlet with a dispatch round (R245). -/
def roundStep (d : Dev) (g : Nat) : Option (Nat × Step) := (liveSteps d g).find? fun p => p.2.round.isSome

/-- Change the round of a step. -/
def modRound (d : Dev) (k : Nat) (f : Round → Round) : Dev := modStep d k fun st => { st with round := st.round.map f }

/-- Element bytes of a format. -/
def esz (fmt : Nat) : Nat := fmtBits fmt / 8

/-- An expert message reaches the holder's or the source's round (R244, R245): type, header and data. -/
def expertDeliver (d : Dev) (k : Nat) (st : Step) (src : Mid) (ty : Nat) (msg : Bytes) : Dev :=
  let g := st.g.toNat
  match st.round with
  | none => d
  | some r =>
    let b := dispDesc st
    let pos := r.ranks.findIdx fun x => peerMid d g x == some src.toNat
    let data := msg.drop 32
    if w32At msg 0 ≠ w32At b 0 then
      sendReject (failStep (recordErr d rEXD_ERR rEXD_ERRINFO 1 (g + 16 * pos + 0x33 * 2 ^ 16)) k 0x33 (unitCode 5 6))
        src.toNat (gaunt d g).ftag.toNat 0x33 msg
    else match ty with
      | 0 => modRound d k fun r => { r with counts := tput r.counts pos ((List.range 64).map fun i => BitVec.ofNat 32 (w32At data (4 * i))) }
      | 1 => modRound d k fun r => { r with offs := tput r.offs pos ((List.range 64).map fun i => BitVec.ofNat 32 (w32At data (4 * i))) }
      | 2 =>
        let hid := leAt b 8 2
        let e := fld (leAt msg 4 1) 5 0
        let sl := leAt msg 6 2
        let es := esz (fld (w32At b 4) 7 4)
        match vaWrite d g (w64At b 0x28 + (e * w32At b 0x40 + sl) * hid * es) (slice data 0 (hid * es)) with
        | .error x => failX d k x (unitCode 5 6)
        | .ok d => modRound d k fun r => { r with origin := r.origin ++ [(e, sl, pos, w32At msg 8, fld (leAt msg 12 1) 3 0)] }
      | _ =>
        let hid := leAt b 8 2
        let key := 8 * w32At msg 8 + fld (leAt msg 12 1) 3 0
        modRound d k fun r => { r with results := tput r.results key (slice data 0 (hid * esz (fld (w32At b 4) 11 8))) }

/-- An expert message for a gauntlet: to its admitted round, or kept until the step is admitted (R245). -/
def expertMsg (d : Dev) (g : Nat) (src : Mid) (ty : Nat) (msg : Bytes) : Dev :=
  match roundStep d g with
  | some (k, st) => if (st.round.map (·.phase)) = some 6 then modG d g fun x => { x with earlyX := x.earlyX ++ [(src, ty, msg)] }
      else expertDeliver d k st src ty msg
  | none => modG d g fun x => { x with earlyX := x.earlyX ++ [(src, ty, msg)] }

/-- A frame for this module whose tag has verified: its payload joins its message; an expert message is delivered when
its last frame lands (the other classes arrive by rows of their own, log 28). -/
def frameDeliver (d : Dev) (g : Nat) (f : Frame) (body : Bytes) : Dev :=
  let d := inc64 d rFAB_RXBYTES body.length
  let d := account d g fun a => { a with fabb := a.fabb + BitVec.ofNat 64 body.length }
  if f.cls = 4 && f.ftype != 4 then
    let key := (f.src.toNat * 16 + f.cls.toNat) * 65536 + f.ftag.toNat
    let buf := (if f.first then [] else tget [] d.rxBuf key) ++ body
    if f.last then expertMsg { d with rxBuf := tdel d.rxBuf key } g f.src f.ftype.toNat buf
    else { d with rxBuf := tput d.rxBuf key buf }
  else d

/-- A sequenced frame accepted in order: forwarded, refused or delivered (R256, R258, R263). Its buffers are returned when
that is done (R261). -/
def frameAccept (d : Dev) (p : Nat) (f : Frame) : Dev :=
  if !frameDefined f then fabErr d 8 0 p 0 f.src.toNat
  else if f.cls = 1 then
    (if f.ftype = 1 then
      let (t, d) := timeNow d
      portSend d p { Frame.blank 1 2 with src := BitVec.ofNat 12 (myMid d), dst := f.src, len := 1, payload := padTo 32 (f.payload.take 8 ++ leBytes 8 t ++ leBytes 8 t) }
     else d)
  else if f.dst.toNat ≠ myMid d then
    routeSend (inc64 d rFAB_FWDBYTES f.payload.length) { f with crdt := 0, crdtCls := 0 }
  else if f.cls = 2 then d
  else
    let refuse (d : Dev) : Dev :=
      sendReject (inc32 d rFAB_ISOCNT 1) f.src.toNat f.ftag.toNat 0x39 (hdrBytes f)
    match gauntOfTag d f.ftag with
    | none => refuse (fabErr d 1 0 p 0x39 f.src.toNat)
    | some g =>
      let bad := refuse (fabErr d 1 g p 0x39 f.src.toNat)
      if !f.enc then bad
      else match recvKey (gaunt d g) f.keygen with
        | none => bad
        | some k =>
          match Config.gcmOpen k.key (nonceOf f.ctr.toNat f.src.toNat) (aadOf f) f.payload f.tag with
          | none => bad
          | some body => frameDeliver d g f body

/-- FRAME_RECEIVED (R260). -/
def execFrameReceived (port : PortNo) (fr : Frame) (s : State) : Host.Outcome State Fault Refusal :=
  run (fun d =>
    let p := port.toNat
    let x := portOf d p
    if !portUp x then d
    else
      let dm := if d.strk.aligned && markNewer fr.mark (markOf d) && !d.snap.early then snapTake d else d
      if !fr.fec || fr.lcrc != lcrcOf fr then
        sendLink (if fr.fec then d else inc32 d rFAB_FECUNC 1) p 1 0 0
      else
      let d := dm
      if fr.cls = 0 then
        let d := takeLink d p fr
        if !frameDefined fr then fabErr d 8 0 p 0 fr.src.toNat
        else if fr.ftype = 1 then takeNak d p (fr.ack + 1)
        else if seqAfter fr.seq x.rxSeq then sendLink d p 1 0 0 else d
      else if seqAfter fr.seq x.rxSeq then sendLink d p 1 0 0
      else if fr.seq ≠ x.rxSeq then sendLink d p 0 0 0
      else
        let d := takeLink (modPort d p fun x => { x with rxSeq := x.rxSeq + 1 }) p fr
        sendLink (frameAccept d p fr) p 0 (bufsOf fr) fr.cls.toNat) s

/-- NAK_RECEIVED: the peer expects `seq` (R260). -/
def execNakReceived (port : PortNo) (seq : W32) (s : State) : Host.Outcome State Fault Refusal :=
  run (fun d => if portUp (portOf d port.toNat) then takeNak d port.toNat seq else d) s

/-- REPLAY_TIMEOUT: 8 µs without an acknowledgement (R260). -/
def execReplayTimeout (port : PortNo) (s : State) : Host.Outcome State Fault Refusal :=
  run (fun d => if portUp (portOf d port.toNat) then replayFrom d port.toNat else d) s

/-! ### Ports (R252, R253, R256) -/

/-- A port comes up on its lanes: a port that was DOWN starts its numbering afresh, a retrained one sends its kept frames
again (R260). -/
def portStart (d : Dev) (p : Nat) (lanes : BitVec 9) : Dev :=
  let x := portOf d p
  let lim := limitsOf d p
  let d := modPort d p fun x => { x with state := portStateOf (laneCount lanes), lanes := lanes, retrains := 0 }
  if x.state = 1 then flushPort (replayFrom d p) p
  else
    let d := modPort d p fun x => { x with txSeq := 0, rxSeq := 0, replay := [], replays := 0, creds := lim
                                           bufgnt := BitVec.ofNat 12 ((tvals lim).foldl (· + ·) 0) }
    flushPort d p

/-- PORT_TRAINED: the peer reports its MID and port; a mismatch with PORTMAP leaves the port DOWN (R256). -/
def execPortTrained (port : PortNo) (mid : Mid) (peerPort : BitVec 4) (lanes : BitVec 9) (s : State) :
    Host.Outcome State Fault Refusal :=
  run (fun d =>
    let p := port.toNat
    match d.fab.bind fun f => f.portmap[p]? with
    | none => d
    | some (en, m, pp) =>
      if !en || (portOf d p).state == 5 then d
      else
        let d := modPort d p fun x => { x with peermid := mid, peerport := peerPort }
        if m ≠ mid ∨ pp ≠ peerPort then
          event (fabErr (modPort d p fun x => { x with state := 0 }) 9 0 p 0 mid.toNat) 0x07 none 0 [p, mid.toNat] []
        else if laneCount lanes < 4 then portDown d p
        else portStart d p lanes) s

/-- PORT_RETRAIN: a retrain ends; after the third that fails the port is DOWN (R252, R260). -/
def execPortRetrain (port : PortNo) (ok : Bool) (s : State) : Host.Outcome State Fault Refusal :=
  run (fun d =>
    let p := port.toNat
    let x := portOf d p
    if x.state ≠ 1 then d
    else if ok then (if laneCount x.lanes < 4 then portDown d p else portStart d p x.lanes)
    else if 2 ≤ x.retrains then portDown d p
    else modPort d p fun x => { x with retrains := x.retrains + 1 }) s

/-- Reason code of a refusal. -/
def rejectCodeOf : RejectStatus → Nat
  | .linkdown => 0x38
  | .fabiso => 0x39
  | .remote => 0x3D
  | .redseq => 0x3B
  | .kvstale => 0x2A

/-- REJECT_RECEIVED: the step that sent the message fails, by the rules of its class (R262, R272, R281, R248, R230). -/
def execRejectReceived (st : StepName) (cls : RejectClass) (status : RejectStatus) (s : State) : Host.Outcome State Fault Refusal :=
  run (fun d =>
    match findStep d st with
    | none => d
    | some k =>
      let code := rejectCodeOf status
      match cls with
      | .expert => failStep (recordErr d rEXD_ERR rEXD_ERRINFO 2 (st.g.toNat + 0x34 * 2 ^ 16)) k 0x34 (unitCode 5 6)
      | .kvfetch => if code = 0x2A then failStep (recordErr d rKVM_ERR rKVM_ERRINFO 2 (st.g.toNat + 0x2A * 2 ^ 16)) k code (unitCode 5 7)
          else fabFail d k st.g.toNat 0 code (myMid d)
      | _ => fabFail d k st.g.toNat 0 code (myMid d)) s

/-! ### Stroke alignment (R25, R265, R267) -/

/-- ALIGN events go to the gauntlets that have fabric steps (R477). -/
def fabGaunts (d : Dev) : List Nat :=
  (allG d).filter fun g => (liveSteps d g).any fun p => fabUse (progOf p.2)

/-- A 64-bit two's-complement number as an event carries it (R512). -/
def i64 (z : Int) : Nat := wrapZ 64 z

/-- The module's offset from its upstream boundary (R25): above 200 ns ALIGNERR and an event, above 10 µs it leaves the
aligned set. -/
def setOffset (d : Dev) (z : Int) : Dev :=
  let d := { d with strk := { d.strk with offset := BitVec.ofNat 32 (wrapZ 32 z) } }
  let d := if 200 < z.natAbs then event { d with strk := { d.strk with alignErr := true } } 0x03 none 0 [i64 z] (fabGaunts d) else d
  if 10000 < z.natAbs then { d with strk := { d.strk with aligned := false } } else d

/-- SYNC_RECEIVED (R265): only a frame from UPPORT counts. An aligned module whose reference runs another configuration leaves the
aligned set (R255; log 159). -/
def execSyncReceived (port : PortNo) (count time : W64) (k : BitVec 4) (digest : W64) (s : State) : Host.Outcome State Fault Refusal :=
  run (fun d =>
    match d.fab with
    | none => d
    | some f =>
      if f.upport ≠ port ∨ f.mid = f.ref then d
      else
        let d := { d with strk := { d.strk with upTime := time } }
        if k ≠ d.strk.k ∨ digest.toNat ≠ f.digest.toNat % 2 ^ 64 then { d with strk := { d.strk with aligned := false } }
        else if d.strk.aligned && count == d.strk.count then
          setOffset d ((d.strk.time.toNat : Int) - time.toNat - d.strk.delay.toInt)
        else d) s

/-- DELAY_MEASURE: the delay of the upstream link from the four timestamps (R265). -/
def execDelayMeasure (t1 t2 t3 t4 : W64) (s : State) : Host.Outcome State Fault Refusal :=
  run (fun d => { d with strk := { d.strk with
    delay := BitVec.ofNat 32 (wrapZ 32 (((t4.toNat : Int) - t1.toNat - ((t3.toNat : Int) - t2.toNat)) / 2)), delays := d.strk.delays + 1 } }) s

/-- Load the stroke count (R24): an ALIGN event gives the count before and after, to every gauntlet. -/
def loadCount (d : Dev) (c : W64) : Dev :=
  let old := d.strk.count
  let d := { d with strk := { d.strk with count := c } }
  if old = c then d else event d 0x03 none 0 [old.toNat, c.toNat] (allG d)

/-- ALIGN_JOIN: UPPORT is up, sixteen delays are measured, DIGEST and K agree, no fabric step is admitted: the module takes
the reference's count and joins (R267). -/
def execAlignJoin (count : W64) (k : BitVec 4) (digest : W64) (s : State) : Host.Outcome State Fault Refusal :=
  run (fun d =>
    match d.fab with
    | none => d
    | some f =>
      let p := portOf d f.upport.toNat
      if f.mid = f.ref ∨ !portUp p ∨ d.strk.delays < 16 then d
      else if k ≠ d.strk.k ∨ digest.toNat ≠ f.digest.toNat % 2 ^ 64 then
        event (fabErr { d with strk := { d.strk with aligned := false } } 9 0 f.upport.toNat 0 p.peermid.toNat) 0x07 none 0
          [f.upport.toNat, p.peermid.toNat] []
      else if fabBusy d then d
      else
        let d := loadCount d count
        { d with strk := { d.strk with aligned := true, alignErr := false, offset := 0 } }) s

/-! ### Copy collectives (R269–R272) -/

/-- Change a copy of a step. -/
def modCopy (d : Dev) (k i : Nat) (f : CopyRun → CopyRun) : Dev :=
  modStep d k fun st => match tfind st.copies i with
    | some c => { st with copies := tput st.copies i (f c) }
    | none => st

/-- Data bytes of one WRITE message (log 32): a message of one frame. -/
def writeChunk : Nat := 480

/-- WRITE messages that carry bytes to a VA of a member (R259, R271). -/
def sendWrites (g dst rnd pos : Nat) : Nat → Nat → Bytes → Dev → Dev
  | 0, _, _, d => d
  | n + 1, va, bs, d =>
    if bs.isEmpty then d
    else sendWrites g dst rnd pos n (va + writeChunk) (bs.drop writeChunk)
      (sendMsg d g dst 6 0 (leBytes 8 va ++ leBytes 4 rnd ++ leBytes 1 pos) (bs.take writeChunk))

/-- Write bytes on a member: this module's own memory directly, a peer's by WRITE. -/
def writeOn (d : Dev) (g dst rnd pos va : Nat) (bs : Bytes) : Except XErr Dev :=
  if dst = myMid d then vaWrite d g va bs
  else .ok (sendWrites g dst rnd pos (bs.length / writeChunk + 1) va bs d)

/-- A put (mode 2): pieces that do not cross a peer extent go to the VA their entry names (R160, R269). -/
def putPeer (g rnd : Nat) : List (Nat × Nat) → Nat → Bytes → Dev → Except XErr Dev
  | [], _, _, d => .ok d
  | (va, n) :: t, k, bs, d =>
    match translate d g va true with
    | .error e => .error e
    | .ok (.here ..) => .error ⟨cTIER, none⟩
    | .ok (.peer rank pva) =>
      match peerMid d g rank with
      | none => .error ⟨0x3E, none⟩
      | some m => match writeOn d g m rnd 0 pva (bs.take n) with
        | .error e => .error e
        | .ok d =>
          let d := if t.isEmpty then sendMsg d g m 6 1 (leBytes 4 rnd ++ leBytes 4 0 ++ leBytes 4 (k + n)) [] else d
          putPeer g rnd t (k + n) (bs.drop n) d

/-- What a member sends (R271): destination VA, and bytes, for modes 0 and 1. -/
def copyParts (d : Dev) (st : Step) (i pos : Nat) (run : CopyRun) : Except XErr (List (Nat × Bytes)) :=
  let g := st.g.toNat
  let b := copyDesc st i
  if leAt b 0 1 = 0 then
    match vaRead d g (w64At b 8) (w32At b 0x20) with
    | .error e => .error e
    | .ok x => .ok [(w64At b 0x10 + pos * w32At b 0x20, x)]
  else
    let r := kvOf d (fld (leAt b 0x24 2) 9 0)
    let sz := kvHg r * (2 * kvDim r + 64)
    let len := captLen (progOf st) (16 + i)
    match vaRead d g r.sum.toNat ((len + 63) / 64 * sz) with
    | .error e => .error e
    | .ok x => .ok [(w64At b 0x10 + r.segbase.toNat / 64 * sz, x),
        (w64At b 0x28 + 16 * pos, leBytes 1 (run.ranks.getD pos 0) ++ [0] ++ leBytes 2 (fld (leAt b 0x24 2) 9 0) ++ leBytes 4 r.segbase.toNat ++
          leBytes 4 len ++ leBytes 4 (captGen (progOf st) (16 + i)))]

/-- The sends of a member to one receiver, DONE last (R271). -/
def copyTo (g rnd pos dst : Nat) (parts : List (Nat × Bytes)) (d : Dev) : Except XErr Dev :=
  match parts.foldl (fun (a : Except XErr Dev) p => match a with
      | .error e => .error e
      | .ok d => writeOn d g dst rnd pos p.1 p.2) (.ok d) with
  | .error e => .error e
  | .ok d =>
    if dst = myMid d then .ok d
    else .ok (sendMsg d g dst 6 1 (leBytes 4 rnd ++ leBytes 1 pos ++ [0, 0, 0] ++ leBytes 4 (parts.foldl (fun a p => a + p.2.length) 0)) [])

/-- The collective is complete when DONE has come from every position (R271). -/
def copyCheck (d : Dev) (k i npos : Nat) : Dev :=
  modCopy d k i fun c => { c with complete := c.complete || (List.range npos).all c.dones.contains }

/-- COPY_SEND_START: PJS is complete, the member sends (R270, R271). -/
def execCopySendStart (st : StepName) (copy : BitVec 2) (s : State) : Host.Outcome State Fault Refusal :=
  run (fun d =>
    match findStep d st with
    | none => d
    | some k =>
      match tfind d.steps k, ((tfind d.steps k).bind fun x => tfind x.copies copy.toNat) with
      | some sp, some c =>
        let i := copy.toNat
        let b := copyDesc sp i
        let g := sp.g.toNat
        let rnd := w32At b 4
        let pjs := leAt b 1 1
        if !canRun d k || c.started || (pjs != 0xFF && !sp.jsDone.contains pjs) then d
        else
          let fail (e : XErr) : Dev := if decide (0x38 ≤ e.code) then fabFail d k g 0 e.code (myMid d) else failX d k e (unitCode 5 6)
          if leAt b 0 1 = 2 then
            match vaRead d g (w64At b 8) (w32At b 0x20) with
            | .error e => fail e
            | .ok x => match putPeer g rnd (ranges (w64At b 0x10) (w32At b 0x20)) 0 x d with
              | .error e => fail e
              | .ok d => modCopy d k i fun c => { c with started := true, complete := true }
          else
            let pos := myPos d g c.ranks
            match copyParts d sp i pos c with
            | .error e => fail e
            | .ok parts =>
              match c.ranks.foldl (fun (a : Except XErr Dev) r => match a with
                  | .error e => .error e
                  | .ok d => match peerMid d g r with
                    | none => .error ⟨0x3E, none⟩
                    | some m => copyTo g rnd pos m parts d) (.ok d) with
              | .error e => fail e
              | .ok d => copyCheck (modCopy d k i fun c => { c with started := true, dones := c.dones ++ [pos] }) k i c.ranks.length
      | _, _ => d) s

/-- The copies of a gauntlet's live steps that a sender at a position takes part in: step, copy, round. -/
def copiesFrom (d : Dev) (g : Nat) (src : Option Mid) (pos : Nat) : List (Nat × Nat × Nat × Nat) :=
  (liveSteps d g).flatMap fun p => p.2.copies.filterMap fun c =>
    let b := copyDesc p.2 c.1
    let m := (c.2.ranks[pos]?).bind (peerMid d g)
    if leAt b 0 1 ≤ 1 ∧ !c.2.complete ∧ (m.isSome && (src.all fun x => m == some x.toNat)) then
      some (p.1, c.1, w32At b 4, c.2.ranks.length) else none

/-- A WRITE or DONE of another round than the admitted collective's (R272): the receiver's step fails, the sender is
answered with REDSEQ. -/
def roundBad (d : Dev) (g : Nat) (l : List (Nat × Nat × Nat × Nat)) (pos : Nat) : Dev :=
  l.foldl (fun d x =>
    let m := ((tfind d.steps x.1).bind fun st => ((tfind st.copies x.2.1).bind fun c => c.ranks[pos]?)).bind (peerMid d g)
    sendReject (fabFail d x.1 g 0 0x3B (m.getD 0)) (m.getD 0) (gaunt d g).ftag.toNat 0x3B []) d

/-- PEER_WRITE_RECEIVED (R269, R272). -/
def execPeerWriteReceived (g : Gnt) (src : Mid) (va : W64) (round : W32) (pos : Byte) (data : Bytes) (s : State) :
    Host.Outcome State Fault Refusal :=
  run (fun d =>
    let l := copiesFrom d g.toNat (some src) pos.toNat
    if !l.isEmpty && l.all fun x => x.2.2.1 != round.toNat then roundBad d g.toNat l pos.toNat
    else match vaWrite d g.toNat va.toNat data with
      | .ok d => d
      | .error e => sendReject (fabErr (noteX d e) 5 g.toNat 0 e.code src.toNat) src.toNat (gaunt d g.toNat).ftag.toNat 0x3D []) s

/-- PEER_DONE_RECEIVED (R271, R272). With no collective of a step, the DONE is a member's of the replica check (R473). -/
def execPeerDoneReceived (g : Gnt) (round : W32) (pos : Byte) (_bytes : W32) (s : State) : Host.Outcome State Fault Refusal :=
  run (fun d =>
    let l := copiesFrom d g.toNat none pos.toNat
    let m := l.filter fun x => x.2.2.1 == round.toNat
    if !l.isEmpty && m.isEmpty then roundBad d g.toNat l pos.toNat
    else if (liveSteps d g.toNat).isEmpty then
      if (gaunt d g.toNat).present then modG d g.toNat fun x => { x with ckDones := x.ckDones ++ [pos.toNat] } else d
    else
      m.foldl (fun d x => copyCheck (modCopy d x.1 x.2.1 fun c => { c with dones := c.dones ++ [pos.toNat] }) x.1 x.2.1 x.2.2.2) d) s

/-- PEER_ABORT_RECEIVED: the receiving step fails with REDPEER (R272). -/
def execPeerAbortReceived (g : Gnt) (round : W32) (pos : Byte) (s : State) : Host.Outcome State Fault Refusal :=
  run (fun d =>
    ((copiesFrom d g.toNat none pos.toNat).filter fun x => x.2.2.1 == round.toNat).foldl (fun d x => fabFail d x.1 g.toNat 0 0x3C 0) d) s

/-! ### Gradient reduction (R273–R281) -/

/-- A partial sum of a chunk: counts, lowest ranks, FP32 values (R277, R279). -/
structure Part where
  nan : Nat
  inf : Nat
  ovf : Nat
  fn : Nat
  fi : Nat
  vals : List Nat
  deriving DecidableEq, Repr

/-- A partial sum as bytes. -/
def encPart (p : Part) : Bytes :=
  leBytes 4 p.nan ++ leBytes 4 p.inf ++ leBytes 4 p.ovf ++ leBytes 2 p.fn ++ leBytes 2 p.fi ++ p.vals.flatMap (leBytes 4)

/-- The 32-bit values of bytes. -/
def words32 (bs : Bytes) : List Nat := (List.range (bs.length / 4)).map fun i => w32At bs (4 * i)

/-- A partial sum from bytes. -/
def decPart (b : Bytes) : Part :=
  { nan := w32At b 0, inf := w32At b 4, ovf := w32At b 8, fn := leAt b 12 2, fi := leAt b 14 2, vals := words32 (b.drop 16) }

/-- Addition of two partial sums, lower half first (R277, R279). -/
def addPart (l u : Part) : Part :=
  let vs := List.zipWith (fun a b => (add32 a b, isFin32 a && isFin32 b && isInf32 (add32 a b))) l.vals u.vals
  { nan := satN 32 (l.nan + u.nan), inf := satN 32 (l.inf + u.inf), ovf := satN 32 (l.ovf + u.ovf + (vs.filter (·.2)).length)
    fn := min l.fn u.fn, fi := min l.fi u.fi, vals := vs.map (·.1) }

/-- Format of a bucket. -/
def bkFmt (b : Bucket) : Nat := fld (w32At b.desc 0x1C) 3 0
/-- Chunks of a bucket. -/
def bkChunks (b : Bucket) : Nat := w32At b.desc 0x18 / 65536

/-- This member's own contribution to a chunk (R277, R279). -/
def ownPart (d : Dev) (g rank : Nat) (b : Bucket) (c : Nat) : Except XErr Part :=
  match vaRead d g (w64At b.desc 0 + 65536 * c) 65536 with
  | .error e => .error e
  | .ok bs =>
    let vs := if bkFmt b = 0 then words32 bs else (List.range (bs.length / 2)).map fun i => leAt bs (2 * i) 2 * 65536
    let nn := (vs.filter isNan32).length
    let ni := (vs.filter isInf32).length
    .ok { nan := nn, inf := ni, ovf := 0, fn := if nn = 0 then 0xFFFF else rank, fi := if ni = 0 then 0xFFFF else rank, vals := vs }

/-- NODE and SLOT of a member-list entry (R273). -/
def memNode (e : W32) : Nat := fld e.toNat 20 12
/-- SLOT. -/
def memSlot (e : W32) : Nat := fld e.toNat 23 21

/-- The member of a node at a tree position for a chunk (R278). -/
def memAt (ms : List W32) (node c pos : Nat) : Option W32 :=
  ms.find? fun e => memNode e == node && memSlot e == pos ^^^ (c % 8)

/-- The lowest present member of the positions from `a`, `n` of them. -/
def holder (ms : List W32) (node c a n : Nat) : Option W32 := (List.range n).findSome? fun i => memAt ms node c (a + i)

/-- Member nodes, ascending. -/
def nodesOf (ms : List W32) : List Nat := ms.foldl (fun a e => if a.contains (memNode e) then a else a ++ [memNode e]) []

/-- Header of CONTRIB and RESULT (R259). -/
def redHdr (tag group stage c : Nat) (p : Part) : Bytes :=
  leBytes 2 tag ++ leBytes 1 group ++ leBytes 1 stage ++ leBytes 2 c ++ leBytes 2 p.fn ++ leBytes 2 p.fi ++ leBytes 4 p.nan ++ leBytes 4 p.inf ++ leBytes 4 p.ovf

/-- Change a bucket of a step. -/
def modBucket (d : Dev) (k : Nat) (tag : W16) (f : Bucket → Bucket) : Dev :=
  modStep d k fun st => { st with buckets := st.buckets.map fun b => if b.tag = tag then f b else b }

/-- Stage that a chunk has reached on this member: 0 start, 1–3 tree levels, 4 chain, 7 awaiting RESULT, 8 landed. -/
def chunkStage (b : Bucket) (c : Nat) : Nat :=
  if b.chunksDone.contains c then 8 else leNat (tget [] b.parts (8 * c + 6))

/-- Keep a chunk's running sum and stage. -/
def putStage (d : Dev) (k : Nat) (tag : W16) (c stage : Nat) (p : Option Part) : Dev :=
  modBucket d k tag fun b =>
    let t := tput b.parts (8 * c + 6) [BitVec.ofNat 8 stage]
    { b with parts := match p with
        | some p => tput t (8 * c + 5) (encPart p)
        | none => tdel t (8 * c + 5) }

/-- A chunk's result lands in DST, and its counts in the bucket (R279). -/
def landChunk (d : Dev) (k g : Nat) (b : Bucket) (c : Nat) (p : Part) (data : Bytes) : Dev :=
  match vaWrite d g (w64At b.desc 8 + 65536 * c) data with
  | .error e => failX d k e (unitCode 9 0)
  | .ok d => modBucket d k b.tag fun b => { b with
      chunksDone := if b.chunksDone.contains c then b.chunksDone else b.chunksDone ++ [c]
      parts := b.parts.filter fun q => q.1 / 8 != c
      nan := BitVec.ofNat 32 (satN 32 (b.nan.toNat + p.nan)), inf := BitVec.ofNat 32 (satN 32 (b.inf.toNat + p.inf))
      ovf := BitVec.ofNat 32 (satN 32 (b.ovf.toNat + p.ovf)), firstNan := BitVec.ofNat 16 (min b.firstNan.toNat p.fn)
      firstInf := BitVec.ofNat 16 (min b.firstInf.toNat p.fi)
      landed := decide (bkChunks b ≤ (if b.chunksDone.contains c then b.chunksDone.length else b.chunksDone.length + 1)) }

/-- RESULT to the other members of a node (R278). -/
def resultTo (d : Dev) (g : Nat) (mids : List Nat) (hdr data : Bytes) : Dev :=
  mids.foldl (fun d m => if m = myMid d then d else sendMsg d g m 3 1 hdr data) d

/-- Members of a node. -/
def nodeMids (ms : List W32) (node : Nat) : List Nat := (ms.filter fun e => memNode e == node).map memMid

/-- Conversion of a reduced chunk to the bucket's format (R277). -/
def redConvert (b : Bucket) (p : Part) : Part × Bytes :=
  let inf := (w32At b.desc 0x1C).testBit 4
  let cs := p.vals.map fun v => convert (bkFmt b) v v none inf true
  ({ p with ovf := satN 32 (p.ovf + (cs.filter fun c => c.2 == .ovf).length) }, cs.flatMap fun c => leBytes (esz (bkFmt b)) c.1)

/-- The next stage of a chunk on this member (R275, R277, R278). -/
def chunkRun (d : Dev) (k : Nat) (st : Step) (r : RGroup) (gn : Nat) (b : Bucket) (c : Nat) : Dev :=
  let g := st.g.toNat
  let ms := r.members
  let me := myMid d
  match ms.findIdx? fun e => memMid e == me with
  | none => d
  | some rank =>
    let e := ms.getD rank 0
    let node := memNode e
    let pos := memSlot e ^^^ (c % 8)
    let cur := decPart (tget [] b.parts (8 * c + 5))
    let inp (s : Nat) : Option Part := (tfind b.parts (8 * c + s)).map decPart
    let stage := chunkStage b c
    match stage with
    | 0 => match ownPart d g rank b c with
      | .error x => failX d k x (unitCode 9 0)
      | .ok p => putStage d k b.tag c 1 (some p)
    | 1 | 2 | 3 =>
      let w := 2 ^ stage
      let a := pos / w * w
      let lo := holder ms node c a (w / 2)
      let hi := holder ms node c (a + w / 2) (w / 2)
      let mine (h : Option W32) : Bool := h.any fun e => memMid e == me
      match lo, hi with
      | some l, some _ =>
        if mine lo then match inp (stage - 1) with
          | some u => putStage d k b.tag c (stage + 1) (some (addPart cur u))
          | none => d
        else if mine hi then
          putStage (sendMsg d g (memMid l) 3 0 (redHdr b.tag.toNat gn (stage - 1) c cur) (cur.vals.flatMap (leBytes 4))) k b.tag c 7 none
        else d
      | _, _ => putStage d k b.tag c (stage + 1) (some cur)
    | 4 =>
      let ns := nodesOf ms
      let i := ns.findIdx (· == node)
      let sum := if i = 0 then some cur else (inp 3).map fun p => addPart p cur
      match sum with
      | none => d
      | some p =>
        if i + 1 < ns.length then
          match holder ms (ns.getD (i + 1) 0) c 0 8 with
          | some nx => putStage (sendMsg d g (memMid nx) 3 0 (redHdr b.tag.toNat gn 3 c p) (p.vals.flatMap (leBytes 4))) k b.tag c 7 none
          | none => d
        else
          let (p, data) := redConvert b p
          let h := redHdr b.tag.toNat gn 4 c p
          let roots := (ns.take i).filterMap fun n => (holder ms n c 0 8).map memMid
          landChunk (resultTo d g (roots ++ nodeMids ms node) h data) k g b c p data
    | _ => d

/-- A bucket of a live step by tag, with its group's number and record. -/
def findBucket (d : Dev) (k : Nat) (tag : W16) : Option (Step × Bucket × Nat × RGroup) :=
  match tfind d.steps k with
  | none => none
  | some st => match st.buckets.find? fun b => b.tag == tag, (progOf st).group, groupRec d st with
    | some b, some n, some r => some (st, b, n, r)
    | _, _, _ => none

/-- Frames of this module wait for credits. -/
def sendsWait (d : Dev) : Bool := (tvals d.ports).any fun x => x.waitq.any fun f => f.src.toNat == myMid d && f.cls == 3

/-- BUCKET_FULL: FJS has completed on every crew (R275). -/
def execBucketFull (st : StepName) (tag : W16) (s : State) : Host.Outcome State Fault Refusal :=
  run (fun d =>
    match findStep d st with
    | none => d
    | some k => match findBucket d k tag with
      | none => d
      | some (sp, b, _, _) =>
        let fjs := fld (w32At b.desc 0x1C) 12 5
        if fjs == 0xFF || sp.jsDone.contains fjs then modBucket d k tag fun b => { b with full := true } else d) s

/-- REDUCTION_CHUNK: the next stage of a chunk of a full bucket, in ascending chunk order at each stage; it goes on while the
step is suspended (R275, R281). -/
def execReductionChunk (st : StepName) (tag : W16) (chunk : W16) (s : State) : Host.Outcome State Fault Refusal :=
  run (fun d =>
    match findStep d st with
    | none => d
    | some k => match findBucket d k tag with
      | none => d
      | some (sp, b, n, r) =>
        let c := chunk.toNat
        if !b.full || decide (bkChunks b ≤ c) || (sp.failing.isSome) || (List.range c).any (fun i => decide (chunkStage b i ≤ chunkStage b c) && decide (chunkStage b i < 7)) then d
        else
          let d := chunkRun d k sp r n b c
          if sendsWait d then itemStart d k 4 (unitCode 9 0) (tag.toNat * 65536 + c) else d) s

/-- The live step of a gauntlet that reduces a group. -/
def groupStep (d : Dev) (g gn : Nat) : Option (Nat × Step) :=
  (liveSteps d g).find? fun p => (progOf p.2).group == some gn && !p.2.buckets.isEmpty

/-- A contribution or result that disagrees with this member's bucket (R274): both steps fail. -/
def redBad (d : Dev) (k g : Nat) (src : Mid) : Dev :=
  sendReject (fabFail d k g 0 0x3B src.toNat) src.toNat (gaunt d g).ftag.toNat 0x3B []

/-- A message of a step not admitted yet is kept with its group (R273: the work area takes chunks from then on). -/
def keepEarly (d : Dev) (g gn : Nat) (src : Mid) (res : Bool) (m : RedMsg) : Dev :=
  modG d g fun x => match tfind x.groups gn with
    | some r => { x with groups := tput x.groups gn { r with early := r.early ++ [(src, res, m)] } }
    | none => x

/-- CONTRIB or RESULT at a step's bucket (R274, R278). -/
def redMsg (d : Dev) (g : Nat) (src : Mid) (res : Bool) (m : RedMsg) (k : Nat) (st : Step) : Dev :=
  let gn := m.group.toNat
  match st.buckets.find? fun b => b.tag == m.tag, groupRec d st with
  | some b, some r =>
    let c := m.chunk.toNat
    let n := if res then 65536 else if bkFmt b = 0 then 65536 else 131072
    if decide (bkChunks b ≤ c) || m.data.length != n || (!res && decide (3 < m.stage.toNat)) then redBad d k g src
    else
      let p : Part := { nan := m.nan.toNat, inf := m.inf.toNat, ovf := m.ovf.toNat, fn := m.firstNan.toNat, fi := m.firstInf.toNat
                        vals := if res then [] else words32 m.data }
      if !res then modBucket d k m.tag fun b => { b with parts := tput b.parts (8 * c + m.stage.toNat) (encPart p) }
      else
        let d := landChunk d k g b c p m.data
        let me := myMid d
        match r.members.find? fun e => memMid e == me with
        | none => d
        | some e =>
          let node := memNode e
          if (holder r.members node c 0 8).any fun h => memMid h == me then
            resultTo d g (nodeMids r.members node) (redHdr m.tag.toNat gn 4 c p) m.data
          else d
  | _, _ => if st.buckets.all fun b => decide (0 < (m.tag - b.tag).toNat) && decide ((m.tag - b.tag).toNat < 2 ^ 15)
      then keepEarly d g gn src res m else redBad d k g src

/-- A reduction message for a gauntlet. -/
def redArrive (d : Dev) (g : Nat) (src : Mid) (res : Bool) (m : RedMsg) : Dev :=
  match groupStep d g m.group.toNat with
  | some (k, st) => redMsg d g src res m k st
  | none => keepEarly d g m.group.toNat src res m

/-- CONTRIB_RECEIVED (R278). -/
def execContribReceived (g : Gnt) (src : Mid) (m : RedMsg) (s : State) : Host.Outcome State Fault Refusal :=
  run (fun d => redArrive d g.toNat src false m) s

/-- RESULT_RECEIVED (R278): the root of a node sends it on to the node's members. -/
def execResultReceived (g : Gnt) (src : Mid) (m : RedMsg) (s : State) : Host.Outcome State Fault Refusal :=
  run (fun d => redArrive d g.toNat src true m) s

/-- Status of a released bucket (R279). -/
def bkStatus (d : Dev) (b : Bucket) : Bytes :=
  let nf := b.nan != 0 || b.inf != 0 || b.ovf != 0
  padTo 64 (leBytes 2 b.tag.toNat ++ leBytes 2 (1 + 2 * b2n nf + 4 * b2n (decide (0 < b.stalls))) ++ leBytes 4 b.nan.toNat ++ leBytes 4 b.inf.toNat ++
    leBytes 4 b.ovf.toNat ++ leBytes 2 b.firstNan.toNat ++ leBytes 2 b.firstInf.toNat ++ leBytes 4 (satN 32 b.stalls) ++ leBytes 8 d.strk.count.toNat)

/-- BUCKET_RELEASE: the result has landed and every lower tag of the list is released (R276, R279). -/
def execBucketRelease (st : StepName) (tag : W16) (s : State) : Host.Outcome State Fault Refusal :=
  run (fun d =>
    match findStep d st with
    | none => d
    | some k => match findBucket d k tag with
      | none => d
      | some (sp, b, _, _) =>
        if b.released || !b.landed || (sp.buckets.takeWhile fun x => x.tag != tag).any fun x => !x.released then d
        else match vaWrite d sp.g.toNat (w64At b.desc 0x10) (bkStatus d b) with
          | .error e => failX d k e (unitCode 9 0)
          | .ok d =>
            let nf := b.nan != 0 || b.inf != 0 || b.ovf != 0
            let d := inc64 (modBucket d k tag fun b => { b with released := true }) rRED_RELCNT 1
            if nf then modFl (inc32 d rRED_NONFIN 1) k fun f => { f with nonfinite := true } else d) s

/-- BUCKET_ABORT_RECEIVED: the member fails its step with REDPEER (R281). -/
def execBucketAbortReceived (g : Gnt) (group : BitVec 3) (tag : W16) (s : State) : Host.Outcome State Fault Refusal :=
  run (fun d =>
    match groupStep d g.toNat group.toNat with
    | some (k, st) => if st.buckets.any fun b => b.tag == tag then fabFail d k g.toNat 0 0x3C 0 else d
    | none => d) s

/-- REDUCTION_TIMEOUT: nothing awaited has come for FAB_RTIMEOUT strokes (R272, R281). -/
def execReductionTimeout (st : StepName) (s : State) : Host.Outcome State Fault Refusal :=
  run (fun d =>
    match findStep d st with
    | none => d
    | some k => match tfind d.steps k with
      | none => d
      | some sp => if sp.buckets.any (fun b => !b.released) || sp.copies.any fun c => c.2.started && !c.2.complete
          then fabFail d k st.g.toNat 0 0x3C 0 else d) s

end Sys2Proof.Machine
end

