-- ==== Sys2Proof/Machine/Kv.lean ====
section
/-! DEFINITION. The KV page manager and the walks (R204–R233): pool frames, table entries, edits and spills, summaries,
the selector, walk blocks and page fetches. -/
namespace Sys2Proof.Machine

/-- Unit code of the KV page manager (R510). -/
def ucKv : Nat := unitCode 5 7

/-! ### Pool frames (R204, R216) -/

/-- The lowest free frames of some extents (log 34). -/
def pickFrames (used : List Nat) (per : Nat) : List Nat → Nat → List Nat
  | [], _ => []
  | e :: t, n =>
    let l := (((List.range per).map fun i => e * per + i).filter fun f => !used.contains f).take n
    l ++ pickFrames used per t (n - l.length)

/-- Numbers in rising order. -/
def risingNats (l : List Nat) : List Nat := sortBy (fun a b => decide (a ≤ b)) l

/-- Free stacked frames of a gauntlet. -/
def freeS (d : Dev) (g : Nat) : Nat := 4096 * (gaunt d g).poolS.length - (gaunt d g).framesS.length
/-- Free LPDDR5X frames of a gauntlet. -/
def freeL (d : Dev) (g : Nat) : Nat := 16384 * (gaunt d g).poolL.length - (gaunt d g).framesL.length

/-- Allocate stacked frames; none where too few are free. -/
def allocS (d : Dev) (g n : Nat) : Option (List Nat × Dev) :=
  let x := gaunt d g
  let l := pickFrames x.framesS 4096 (risingNats x.poolS) n
  if l.length < n then none else some (l, modG d g fun x => { x with framesS := x.framesS ++ l })

/-- Allocate LPDDR5X frames. -/
def allocL (d : Dev) (g n : Nat) : Option (List Nat × Dev) :=
  let x := gaunt d g
  let l := pickFrames x.framesL 16384 (risingNats x.poolL) n
  if l.length < n then none else some (l, modG d g fun x => { x with framesL := x.framesL ++ l })

/-- First frame of the lowest run of free frames within an extent, for a table copy (R207). -/
def allocRun (d : Dev) (g n : Nat) : Option (Nat × Dev) :=
  let x := gaunt d g
  let start := (risingNats x.poolS).findSome? fun e =>
    ((List.range (4097 - n)).map (e * 4096 + ·)).find? fun f => (List.range n).all fun i => !x.framesS.contains (f + i)
  start.map fun f => (f, modG d g fun x => { x with framesS := x.framesS ++ (List.range n).map (f + ·) })

/-- Frames join the free pool: stacked (false) or LPDDR5X (true). -/
def freeFrames (d : Dev) (g : Nat) (l : List (Bool × Nat)) : Dev :=
  modG d g fun x => { x with
    framesS := x.framesS.filter fun f => !l.contains (false, f)
    framesL := x.framesL.filter fun f => !l.contains (true, f) }

/-- Model address of a stacked frame. -/
def frameAt (f : Nat) : Nat := stackBase + f * 65536

/-! ### Entries (R206, R207) -/

/-- Entry of a stacked frame. -/
def entryS (g gtag f : Nat) (pin : Bool) : Nat :=
  let x := f / 4096
  1 + 2 * 4 + 32 * b2n pin + 256 * g + 4096 * gtag + f % 4096 * 2 ^ 20 + x % 60 * 2 ^ 32 + x / 60 * 2 ^ 38

/-- Entry of an LPDDR5X frame. -/
def entryL (g gtag f : Nat) (pin : Bool) : Nat :=
  1 + 2 + 3 * 4 + 32 * b2n pin + 256 * g + 4096 * gtag + f % 16384 * 2 ^ 20 + f / 16384 * 2 ^ 34

/-- The frame that an entry names: LPDDR5X or not, and its number. -/
def entryFrame (e : Nat) : Bool × Nat :=
  if fld e 4 2 = 3 then (true, fld e 44 34 * 16384 + fld e 33 20)
  else (false, (60 * fld e 39 38 + fld e 37 32) * 4096 + fld e 31 20)

/-- Write an entry of a copy. -/
def putKv (d : Dev) (r : KvRoot) (gen i e : Nat) : Dev := putBytes d (stackBase + kvEntryAddr r gen i) (leBytes 8 e)

/-- Entries of a table. -/
def kvEntries (r : KvRoot) : Nat := r.cap.toNat * kvHg r

/-! ### Edits (R210, R212) -/

/-- Deferred frames join the pool when no walker of the earlier generation lives (R212). -/
def kvRelease (d : Dev) (t : Nat) : Dev :=
  let r := kvOf d t
  if r.livePrev ≠ 0 ∨ r.defer.isEmpty then d
  else modKv (freeFrames d r.gnt.toNat r.defer) t fun r => { r with defer := [] }

/-- A walker of a table retires (R211). -/
def kvRetire (d : Dev) (t gen : Nat) : Dev :=
  let d := modKv d t fun r => if r.gen.toNat = gen then { r with live := r.live - 1 } else { r with livePrev := r.livePrev - 1 }
  kvRelease d t

/-- One change of an entry by an edit: what it becomes, and the frame it releases. Kinds: 1 pin, 2 unpin, 3 bring back,
4 spill. -/
def kvChange (r : KvRoot) (kind f e : Nat) : Nat × List (Bool × Nat) :=
  let pin := e.testBit 5
  if !e.testBit 0 then (e, [])
  else match kind with
    | 1 => (if pin then e else e + 32, [])
    | 2 => (if pin then e - 32 else e, [])
    | 3 => (entryS r.gnt.toNat r.gtag.toNat f pin, [entryFrame e])
    | _ => (entryL r.gnt.toNat r.gtag.toNat f pin, [entryFrame e])

/-- Entries that a truncation removes, with their frames. -/
def kvCut (d : Dev) (r : KvRoot) (len : Nat) : List (Nat × (Bool × Nat)) :=
  (List.range (kvEntries r)).filterMap fun i =>
    let e := kvEntry d r r.gen.toNat i
    if decide ((len + 63) / 64 * kvHg r ≤ i) && e.testBit 0 then some (i, entryFrame e) else none

/-- Apply the first edit of a table (R210): into the other copy, and the swap publishes it. -/
def kvEdit (d : Dev) (t : Nat) : Dev :=
  let r := kvOf d t
  match r.edits with
  | [] => d
  | (kind, v, f) :: rest =>
    if r.livePrev ≠ 0 then d
    else
      let gen := r.gen.toNat
      let gen' := (r.gen + 1).toNat
      let d := store d (.copy (stackBase + kvEntryAddr r gen 0) (stackBase + kvEntryAddr r gen' 0) (8 * kvEntries r))
      let (d, freed, len) :=
        if kind = 0 then
          let cut := kvCut d r v.toNat
          (cut.foldl (fun d c => putKv d r gen' c.1 0) d, cut.map (·.2), min r.len.toNat v.toNat)
        else
          let e := kvEntry d r gen v.toNat
          let (e', fr) := kvChange r kind f e
          let d := if kind = 3 ∧ e.testBit 0 = true then store d (.copy (kvFrame e) (frameAt f) 65536) else d
          (putKv d r gen' v.toNat e',
           if fr.isEmpty && kind == 3 then [(false, f)] else if fr.isEmpty && kind == 4 then [(true, f)] else fr, r.len.toNat)
      let d := modKv d t fun r => { r with gen := r.gen + 1, livePrev := r.live, live := 0, len := BitVec.ofNat 32 len,
                                           edits := rest, defer := r.defer ++ freed }
      kvRelease (inc64 d rKVM_EDITCNT 1) t

/-- KV_EDIT_APPLY (R210). -/
def execKvEditApply (tab : TabNo) (s : State) : Host.Outcome State Fault Refusal := run (fun d => kvEdit d tab.toNat) s

/-! ### Spills (R217) -/

/-- Pages of a gauntlet that may be spilled: the rank's keys, the table and the entry. -/
def coldPages (d : Dev) (g : Nat) : List (Nat × Nat × Nat × Nat) :=
  d.kv.flatMap fun p =>
    let r := p.2
    if r.cap = 0 ∨ r.gnt.toNat ≠ g then []
    else
      let last := (r.len.toNat + r.pend.toNat + 63) / 64
      (List.range (kvEntries r)).filterMap fun i =>
        let e := kvEntry d r r.gen.toNat i
        if e.testBit 0 && fld e 4 2 == 2 && !e.testBit 5 && decide (i / kvHg r + 2 < last) &&
           !(r.spills.any fun s => s.1 == i) && !(r.edits.any fun x => x.1 == 4 && x.2.1.toNat == i) then
          some (b2n (decide (r.live + r.livePrev ≠ 0)),
            2 ^ 32 - ((BitVec.ofNat 32 d.strk.count.toNat) - tget 0 r.used i).toNat, p.1, i)
        else none

/-- Order of R217: no live walker first, oldest last use, lowest TABID, lowest entry. -/
def colder (a b : Nat × Nat × Nat × Nat) : Bool :=
  if a.1 ≠ b.1 then decide (a.1 < b.1)
  else if a.2.1 ≠ b.2.1 then decide (a.2.1 < b.2.1)
  else if a.2.2.1 ≠ b.2.2.1 then decide (a.2.2.1 < b.2.2.1) else decide (a.2.2.2 ≤ b.2.2.2)

/-- Begin the spill of the coldest pages to free LPDDR5X frames of the same gauntlet (R216, R217). -/
def startSpills (d : Dev) (g n : Nat) : Dev :=
  let l := (sortBy colder (coldPages d g)).take n
  match allocL d g l.length with
  | none => d
  | some (fs, d) => (l.zip fs).foldl (fun d x => modKv d x.1.2.2.1 fun r => { r with spills := r.spills ++ [(x.1.2.2.2, x.2)] }) d

/-- Stacked frames of a gauntlet that spills under way or deferred frames will free. -/
def comingS (d : Dev) (g : Nat) : Nat :=
  d.kv.foldl (fun a p => if p.2.gnt.toNat = g ∧ p.2.cap ≠ 0 then
    a + p.2.spills.length + (p.2.edits.filter fun x => x.1 == 4).length + (p.2.defer.filter fun x => !x.1).length else a) 0

/-- KV_SPILL_LANDED (R217): the page's copy has landed and its edit is queued. -/
def execKvSpillLanded (tab : TabNo) (entry : W32) (s : State) : Host.Outcome State Fault Refusal :=
  run (fun d =>
    let r := kvOf d tab.toNat
    match r.spills.find? fun x => x.1 == entry.toNat with
    | none => d
    | some (i, f) =>
      let e := kvEntry d r r.gen.toNat i
      let d := if e.testBit 0 then
          let d := store d (.copy (kvFrame e) (lpBase + f * 65536) 65536)
          dramCount d r.gnt.toNat [(3, lpBase + f * 65536, 65536)]
        else d
      let d := modKv d tab.toNat fun r => { r with
        spills := r.spills.filter fun x => x.1 != i, edits := r.edits ++ [(4, BitVec.ofNat 64 i, f)] }
      inc32 d rKVM_SPILLCNT 1) s

/-! ### Summaries (R208, R209) -/

/-- An FP32 value divided by a small whole number, rounded to nearest even. -/
def divNat32 (x n : Nat) : Nat :=
  match v32 x with
  | .fin neg m e =>
    if m = 0 ∨ n = 0 then (if neg then 0x80000000 else 0)
    else (pack32 (sticky neg (m * 2 ^ 40 / n) (e - 40) (m * 2 ^ 40 % n == 0))).1
  | _ => x

/-- Square root in FP32 of a value that is not negative. -/
def sqrt32 (x : Nat) : Nat :=
  match v32 x with
  | .fin _ m e => if m = 0 then x else (pack32 (sqrtV m e)).1
  | _ => x

/-- A key element of a frame as FP32. -/
def keyElem (d : Dev) (fr fmt dd s : Nat) : Nat :=
  let es := fmtBits fmt / 8
  (pack32 (elemVal fmt (peekN d (fr + kvKOff dd s * es) es))).1

/-- Mean of one dimension over the first `n` positions as BF16; a key that is not finite makes it a NaN. -/
def meanOf (ks : List Nat) (n : Nat) : Nat :=
  if ks.any fun k => !isFin32 k then 0x7FC0
  else
    let m := divNat32 (ks.foldl add32 0) n
    (convert 1 m m none false true).1

/-- The summary record of an entry (R208, R209). -/
def summaryRec (d : Dev) (fr fmt dim n : Nat) : Bytes :=
  let col (dd : Nat) : List Nat := (List.range n).map fun s => keyElem d fr fmt dd s
  let row (s : Nat) : List Nat := (List.range dim).map fun dd => keyElem d fr fmt dd s
  let bad := (List.range n).any fun s => (row s).any fun k => !isFin32 k
  let norm := (List.range n).foldl (fun a s =>
    fminmax true a (sqrt32 ((row s).foldl (fun q k => (fma32 k k q false false).1) 0))) 0
  (List.range dim).flatMap (fun dd => leBytes 2 (meanOf (col dd) n)) ++
    padTo 64 (leBytes 4 (if bad then 0x7FC00000 else norm) ++ leBytes 4 (n + 128 * b2n bad))

/-- Page entries that an appending step touches in a table (R209): the first, and the one after the last. -/
def sumSpan (r : KvRoot) (len0 napp : Nat) : Nat × Nat :=
  (len0 / 64 * kvHg r, if napp = 0 then 0 else ((len0 + napp - 1) / 64 + 1) * kvHg r)

/-- The appending walks of a step by table: the first descriptor of mode 2 for each. -/
def appends (p : Prog) : List (Nat × Nat) :=
  ((List.range p.walks.length).filter fun i => wkMode (walkOf p i) == 2).foldl (fun a i =>
    if a.any fun x => x.1 == wkTab (walkOf p i) then a else a ++ [(wkTab (walkOf p i), i)]) []

/-- KV_SUMMARY_ITEM (R209), once the job sets that append to the table are complete. -/
def execKvSummaryItem (st : StepName) (tab : TabNo) (entry : W32) (s : State) : Host.Outcome State Fault Refusal :=
  run (fun d =>
    match findStep d st with
    | none => d
    | some k => match tfind d.steps k with
      | none => d
      | some sp =>
        let p := progOf sp
        let t := tab.toNat
        let n := entry.toNat
        let key := t * 2 ^ 22 + n
        match (appends p).find? fun x => x.1 == t with
        | none => d
        | some (_, wi) =>
          let r := kvOf d t
          let g := sp.g.toNat
          let len0 := captLen p wi
          let len := len0 + wkNapp (walkOf p wi)
          let (a, b) := sumSpan r len0 (wkNapp (walkOf p wi))
          let ready := p.walks.all fun w => wkMode w != 2 || wkTab w != t || sp.jsDone.contains (wkJs w)
          if !canRun d k || !ready || sp.sums.contains key || n < a || b ≤ n then d
          else
            let e := kvEntry d r (captGen p wi) n
            if !kvEntryOk e g r.gtag.toNat then kvBad d k g t (kvEntryAddr r (captGen p wi) n) e ucKv
            else
              let m := min 64 (len - n / kvHg r * 64)
              let rec' := summaryRec d (kvFrame e) r.fmt.toNat (kvDim r) m
              match vaWrite d g (r.sum.toNat + n * (2 * kvDim r + 64)) rec' with
              | .error x => failX d k x ucKv
              | .ok d => inc64 (modStep d k fun z => { z with sums := z.sums ++ [key] }) rKVM_SUMCNT 1) s

/-! ### The selector (R219, R220) -/

/-- A score as a number to order by: both zeros equal. -/
def scoreKey (x : Nat) : Int := if x % 2 ^ 31 = 0 then 0 else key32 x

/-- Order of candidates: score descending, a NaN below every number, ties by the lower page. -/
def scoreBefore (a b : Nat × Nat) : Bool :=
  match isNan32 a.2, isNan32 b.2 with
  | false, true => true
  | true, false => false
  | true, true => decide (a.1 ≤ b.1)
  | false, false => if scoreKey a.2 = scoreKey b.2 then decide (a.1 ≤ b.1) else decide (scoreKey b.2 < scoreKey a.2)

/-- KV_SELECTOR_BLOCK (R219): the next query block of a retrieval walk. -/
def execKvSelectorBlock (st : StepName) (walk : BitVec 4) (q : W32) (s : State) : Host.Outcome State Fault Refusal :=
  run (fun d =>
    match findStep d st with
    | none => d
    | some k => match tfind d.steps k with
      | none => d
      | some sp =>
        let p := progOf sp
        let i := walk.toNat
        let w := walkOf p i
        let g := sp.g.toNat
        let die := sp.crews.head?.getD 0 / 16
        let uc := unitCode 2 die
        let nextQ := (sp.sels.filter fun x => x / 2 ^ 32 == i).length
        let nq := jsNt (jsOf p (wkJs w)) (fld (wkStrm w) 25 24)
        if !canRun d k || decide (p.walks.length ≤ i) || wkMode w != 1 || !sp.jsDone.contains (leAt w 0xB 1) ||
           q.toNat != nextQ || decide (nq ≤ nextQ) then d
        else match segMap d g w with
          | .error e => failX d k e uc
          | .ok m => match q0Of d g w nextQ with
            | .error e => failX d k e uc
            | .ok q0 =>
              let npg := w32At w 0x2C
              let wl := wlOf q0 (seqLen p i m)
              let wf := wfOf w q0 wl
              match vaGet d g ((w64At w 0x20 + 4 * w32At w 0x28 * nextQ) % 2 ^ 64) (4 * npg) with
              | .error e => failX d k e uc
              | .ok (bs, d) =>
                let cands := ((List.range (min wf.toNat npg)).map fun j => (j, w32At bs (4 * j))).filter fun c => c.2 != 0xFF800000
                let nans := (cands.filter fun c => isNan32 c.2).length
                let pick := ((sortBy scoreBefore cands).take (wkNsel w)).map (·.1)
                let out := padTo 64 (leBytes 4 pick.length ++ leBytes 4 nans ++ leBytes 4 (wrapZ 32 wf) ++ leBytes 4 (wrapZ 32 wl)) ++
                  (risingNats pick).flatMap (leBytes 4)
                match vaWrite d g ((w64At w 0x30 + 2112 * nextQ) % 2 ^ 64) out with
                | .error e => failX d k e uc
                | .ok d =>
                  let d := modStep d k fun z => { z with sels := z.sels ++ [i * 2 ^ 32 + nextQ] }
                  let d := if nans = 0 then d else modFl d k fun f => { f with nonfinite := true }
                  inc64 d (rKVM_SELBUSY + 8 * die) ((npg + 15) / 16)) s

/-! ### Walk blocks (R222–R227) -/

/-- First staging frame number of a walk: each walk has NSTAGE of the step's (R225). -/
def stageBase (p : Prog) (wi : Nat) : Nat := (p.walks.take wi).foldl (fun a w => a + wkNstage w) 0

/-- Where a page of a walk lies: this module's table and local page, or a peer's MID, table, local page and segment
length (R228). -/
inductive PageAt where
  | here (page : Nat)
  | peer (mid tab page len : Nat)
  deriving DecidableEq, Repr

/-- Place of global page `j`; none where the map does not hold it. -/
def pageAt (d : Dev) (g : Nat) (m : Option (List Seg)) (j : Nat) : Option PageAt :=
  match m with
  | none => some (.here j)
  | some l =>
    let b0 := (l.head?.map (·.base)).getD 0
    (l.find? fun s => decide ((s.base - b0) / 64 ≤ j) && decide (j < (s.base - b0 + s.len + 63) / 64)).bind fun s =>
      let page := j - (s.base - b0) / 64
      (peerMid d g s.rank).map fun mid => if mid = myMid d then .here page else .peer mid s.tab page s.len

/-- Key of an outstanding or landed fetch of a step. -/
def stageOf (sp : Step) (wi grp j : Nat) : Option Nat :=
  (sp.asked.find? fun a => a.2.1 == wi && a.2.2.1 == grp && a.2.2.2.1 == j).map (·.1)

/-- Issue the fetches of the coming peer pages, in walk order, while staging frames are free (R225). -/
def askPages (k g wi grp : Nat) (m : Option (List Seg)) : List Nat → Dev → Dev
  | [], d => d
  | j :: t, d =>
    match tfind d.steps k, pageAt d g m j with
    | some sp, some (.peer mid tab page len) =>
      let p := progOf sp
      if (stageOf sp wi grp j).isSome then askPages k g wi grp m t d
      else
        let b := stageBase p wi
        match ((List.range (wkNstage (walkOf p wi))).map (b + ·)).find? fun f => (tfind sp.asked f).isNone with
        | none => d
        | some f =>
          let d := modStep d k fun z => { z with asked := tput z.asked f (wi, grp, j, tab) }
          askPages k g wi grp m t (sendMsg d g mid 5 0
            (leBytes 2 tab ++ leBytes 2 0 ++ leBytes 3 page ++ leBytes 1 grp ++ leBytes 4 len ++ leBytes 1 f) [])
    | some _, _ => askPages k g wi grp m t d
    | none, _ => d

/-- A command in flight of a context reads a byte range of its region in the compute half. -/
def flightReads (s : Seat) (c a n : Nat) : Bool :=
  s.flights.any fun f => f.ctx.toNat == c && (if cOp f.word = 1 then (mmaOps f.word).any fun o =>
    !o.1 && overlaps a n (o.2.1 * 64) (operandBytes o.2.2 (cF f.word 39 24)) else cF f.word 10 10 == 0 && overlaps a n (cF f.word 78 64 * 64) 16384)

/-- The slot of block `b` is free: the commands of instance b − NSLOT that read it have completed (R223). -/
def slotFree (s : Seat) (c : Nat) (p : Prog) (gr : Grant) (wi b : Nat) (rings : List (Nat × Nat)) : Bool :=
  let ns := wkNslot (walkOf p wi)
  let x := ctxOf s c
  decide (b < ns) ||
    (decide (b - ns < instanceOf p gr x.pos wi) &&
     !(rings.any fun r => flightReads s c (r.1 + b % ns * r.2) r.2) &&
     !(s.krun && s.kctx.toNat == c && decide (cF s.kword 127 112 ≤ b - ns)))

/-- Part of a frame as a block: elements from an offset, PAD at every position at or beyond the captured length. -/
def pagePart (bs : Bytes) (off n bits pad : Nat) (posOf : Nat → Nat) (valid : Nat) : Bytes :=
  packVals bits ((List.range n).map fun lin =>
    if valid ≤ posOf lin then pad % 2 ^ bits else leNat ((bs.drop ((off + lin) * (bits / 8))).take (bits / 8)))

/-- KV_WALK_BLOCK (R222): the next block of the walk of a context's computed tile. -/
def walkBlock (d : Dev) (u c wi : Nat) : Dev :=
  let crew := u / 16
  let uc := unitCode 1 crew
  let s := seatOf d u
  let x := ctxOf s c
  match x.step, x.comp with
  | some k, some gr =>
    match tfind d.steps k with
    | none => d
    | some sp =>
      let p := progOf sp
      let g := sp.g.toNat
      let w := walkOf p wi
      if s.fenced || x.failed || !canRun d k || walkFor p gr.jobset != some wi then d
      else match segMap d g w with
        | .error e => failX d k e uc
        | .ok m =>
          let m := if wkMode w = 0 then none else m
          if !segOk (m.getD []) then kvFail d k g (wkTab w) 0x2B uc
          else match plEntry d g p gr.jobset gr.i2 with
            | .error e => failX d k e uc
            | .ok ent => match walkPages d g sp wi (qOf w [gr.i0, gr.i1, gr.i2]) with
              | .error e => failX d k e uc
              | .ok none => d
              | .ok (some pages0) =>
                let cur := x.walk.getD { walk := wi, next := 0, pages := pages0 }
                let grp := wkGroup w ent
                let b := cur.next
                if kvHg (kvOf d (wkTab w)) ≤ grp then kvFail d k g (wkTab w) 0x2B uc else
                let d := modCtx d u c fun x => { x with walk := some cur }
                let d := askPages k g wi grp m (cur.pages.drop b) d
                match cur.pages[b]? with
                | none => d
                | some j =>
                  let ks := fld (wkStrm w) 9 0
                  let vs := fld (wkStrm w) 19 10
                  let kd := sdOf p ks
                  let vd := sdOf p vs
                  if !slotFree s c p gr wi b [(sdSoff kd, sdBlk kd), (sdSoff vd, sdBlk vd)] then d
                  else
                    let r := kvOf d (wkTab w)
                    let deliver (d : Dev) (bs : Bytes) : Dev :=
                      let len := seqLen p wi m
                      let valid := len - 64 * j
                      let base := halfBase u x.half + (regionOf s c).1
                      let slot := b % wkNslot w
                      let kb := pagePart bs 0 (sdElems kd) (fmtBits (sdFmt kd)) (w32At kd 0xC) (fun l => l % 64) valid
                      let vb := pagePart bs 16384 (sdElems vd) (fmtBits (sdFmt vd)) (w32At vd 0xC) (fun l => l / 64 % 64) valid
                      let d := putBytes d (base + sdSoff kd + slot * sdBlk kd) kb
                      let d := putBytes d (base + sdSoff vd + slot * sdBlk vd) vb
                      let d := putBytes d (tregBase u (fld (wkStrm w) 23 20) + b % 64 * 256)
                        ((List.range 64).flatMap fun q => leBytes 4 (if q < valid then 64 * j + q else 0xFFFFFFFF))
                      modCtx d u c fun x => { x with walk := some { cur with next := b + 1 } }
                    match pageAt d g m j with
                    | none => kvFail d k g (wkTab w) 0x2B uc
                    | some (.here page) =>
                      let n := page * kvHg r + grp
                      let e := kvEntry d r (captGen p wi) n
                      if !kvEntryOk e g r.gtag.toNat then kvBad d k g (wkTab w) (kvEntryAddr r (captGen p wi) n) e uc
                      else
                        let es := fmtBits r.fmt.toNat / 8
                        let d := modKv d (wkTab w) fun r => { r with used := tput r.used n (BitVec.ofNat 32 d.strk.count.toNat) }
                        let d := dramCount d g [(fld e 4 2, kvFrame e, (sdElems kd + sdElems vd) * es)]
                        deliver d (peek d (kvFrame e) (32768 * es))
                    | some (.peer ..) =>
                      if wkNstage w = 0 then kvFail d k g (wkTab w) 0x2B uc
                      else match tfind d.steps k with
                        | none => d
                        | some sp => match stageOf sp wi grp j with
                          | none => d
                          | some f =>
                            if !sp.landed.contains f then d
                            else
                              let es := fmtBits r.fmt.toNat / 8
                              let d := deliver d (peek d (frameAt (sp.staging.getD f 0)) (32768 * es))
                              let d := modStep d k fun z => { z with asked := tdel z.asked f, landed := z.landed.filter (· != f) }
                              askPages k g wi grp m (cur.pages.drop (b + 1)) d
  | _, _ => d

/-- KV_WALK_BLOCK. -/
def execKvWalkBlock (c : CtxAt) (walk : BitVec 4) (s : State) : Host.Outcome State Fault Refusal :=
  runIf c.wf (fun d => walkBlock d (ctxIdx c) c.ctx.toNat walk.toNat) s

/-! ### Page fetches (R225, R230) -/

/-- A page's K part and V chunks as a peer sends them: positions at or beyond the limit as zeros. -/
def pageData (bs : Bytes) (dim es limit page : Nat) : Bytes :=
  pagePart bs 0 (dim * 64) (8 * es) 0 (fun l => l % 64) (limit - 64 * page) ++
  pagePart bs 16384 (dim * 64) (8 * es) 0 (fun l => l / 64 % 64) (limit - 64 * page)

/-- KV_FETCH_REQ (R230): a peer's request for a page of a table of the same tenancy. -/
def execKvFetchReq (g : Gnt) (src : Mid) (tab : TabNo) (page : BitVec 24) (group : BitVec 4) (limit : W32) (frame : Byte)
    (s : State) : Host.Outcome State Fault Refusal :=
  run (fun d =>
    let r := kvOf d tab.toNat
    let gn := g.toNat
    let hdr := leBytes 2 tab.toNat ++ leBytes 2 0 ++ leBytes 3 page.toNat ++ leBytes 1 group.toNat ++ leBytes 4 limit.toNat ++ leBytes 1 frame.toNat
    let gone := sendReject d src.toNat (gaunt d gn).ftag.toNat 0x2A hdr
    if r.cap = 0 ∨ r.gnt ≠ g ∨ (r.len.toNat + 63) / 64 ≤ page.toNat ∨ kvHg r ≤ group.toNat then gone
    else
      let n := page.toNat * kvHg r + group.toNat
      let e := kvEntry d r r.gen.toNat n
      if !kvEntryOk e gn r.gtag.toNat then sendReject (event d 0x06 (some gn) 0 [kvEntryAddr r r.gen.toNat n, gn, fld e 11 8] []) src.toNat (gaunt d gn).ftag.toNat 0x2A hdr
      else
        let es := fmtBits r.fmt.toNat / 8
        let d := dramCount d gn [(fld e 4 2, kvFrame e, 2 * kvDim r * 64 * es)]
        sendMsg (inc64 d rKVM_FETCHCNT 1) gn src.toNat 5 1 hdr
          (pageData (peek d (kvFrame e) (32768 * es)) (kvDim r) es limit.toNat page.toNat)) s

/-- KV_FETCH_RESP (R225): a fetched page lands in its staging frame, laid out as R205 lays out a frame. -/
def execKvFetchResp (st : StepName) (tab : TabNo) (page : BitVec 24) (group : BitVec 4) (frame : Byte) (data : Bytes)
    (s : State) : Host.Outcome State Fault Refusal :=
  run (fun d =>
    match findStep d st with
    | none => d
    | some k => match tfind d.steps k with
      | none => d
      | some sp =>
        let f := frame.toNat
        match tfind sp.asked f with
        | none => d
        | some (wi, grp, j, t) =>
          let w := walkOf (progOf sp) wi
          match segMap d sp.g.toNat w with
          | .error e => failX d k e ucKv
          | .ok m => match pageAt d sp.g.toNat m j with
            | some (.peer _ _ pg _) =>
              if t ≠ tab.toNat ∨ grp ≠ group.toNat ∨ pg ≠ page.toNat ∨ sp.landed.contains f then d
              else
                let r := kvOf d (wkTab w)
                let n := kvDim r * 64 * (fmtBits r.fmt.toNat / 8)
                let fr := frameAt (sp.staging.getD f 0)
                let d := putBytes d fr (slice data 0 n)
                let d := putBytes d (fr + 16384 * (fmtBits r.fmt.toNat / 8)) (slice data n n)
                modStep d k fun z => { z with landed := z.landed ++ [f] }
            | _ => d) s

end Sys2Proof.Machine
end

