-- ==== Sys2Proof/Machine/Emb.lean ====
section
/-! DEFINITION. The embedding engine (R234–R241) and expert dispatch (R242–R248). -/
namespace Sys2Proof.Machine

/-! ### Conversions through a record (R62, R63) -/

/-- A scale record as a conversion unit of a step uses it: the image of its admission, or scale 1 for none. -/
def recSlot (p : Prog) (va fmt : Nat) : ScaleSlot :=
  match (p.recs0.find? fun r => r.1 == va).map (·.2) with
  | some b => if va = 0 then { ScaleSlot.reset with fmt := BitVec.ofNat 4 fmt } else
      { ScaleSlot.reset with scale := BitVec.ofNat 32 (w32At b 0), rscale := BitVec.ofNat 32 (w32At b 4)
                             tid := BitVec.ofNat 32 (w32At b 0x10), fmt := BitVec.ofNat 4 fmt, recVa := BitVec.ofNat 64 va }
  | none => { ScaleSlot.reset with fmt := BitVec.ofNat 4 fmt }

/-- A run of converted elements: their bytes, and the running values they gather. -/
def convRun (d : Dev) (st : Step) (sl : ScaleSlot) (sr inf sat : Bool) : List (Nat × Nat) → Running → Bytes × Running
  | [], r => ([], r)
  | (y, idx) :: t, r =>
    let (b, c) := slotConvert d (some st) sl y idx sr inf sat
    let (bs, r') := convRun d st sl sr inf sat t (gather r y c)
    (leBytes (fmtBits sl.fmt.toNat / 8) b ++ bs, r')

/-- Running values of an engine's unit go to the record when its writes have landed (R65, R68, R72). -/
def engMerge (d : Dev) (k g : Nat) (sl : ScaleSlot) (r : Running) (uc : Nat) : Dev :=
  let d := noteRec (mergeInto d k g sl.recVa.toNat r uc) k sl.recVa
  if r.nan ≠ 0 ∨ r.inf ≠ 0 then modFl d k fun f => { f with nonfinite := true } else d

/-- A number of cycles that the spec does not fix (log 7). -/
def freeCycles (d : Dev) : Nat × Dev :=
  let (v, d) := freeVal d
  (v.toNat % 2 ^ 32, d)

/-! ### Embedding jobs (R234, R235) -/

/-- Unit code of the embedding engine. -/
def ucEmb : Nat := unitCode 5 5

/-- Fields of an embedding job descriptor (R235). -/
def ebCtl (b : Bytes) : Nat := leAt b 2 2
/-- DIM. -/
def ebDim (b : Bytes) : Nat := leAt b 4 2
/-- Format of the table. -/
def ebFmt (b : Bytes) : Nat := fld (ebCtl b) 3 0
/-- Format of the output or the gradient. -/
def ebFmt2 (b : Bytes) : Nat := fld (ebCtl b) 7 4
/-- NBAG. -/
def ebNbag (b : Bytes) : Nat := w32At b 0x1C
/-- ROWS. -/
def ebRows (b : Bytes) : Nat := w64At b 0x10

/-- A job fails its step: EMB_ERR, EMB_ERRINFO (R250). -/
def embFail (d : Dev) (k g job bit code : Nat) : Dev :=
  failStep (recordErr d rEMB_ERR rEMB_ERRINFO bit (g + 16 * job + 256 * code)) k code ucEmb

/-- An access of a job fails translation. -/
def embX (d : Dev) (k g job : Nat) (e : XErr) : Dev := embFail (noteX d e) k g job 3 e.code

/-- Change the record of a job in progress. -/
def modEmb (d : Dev) (k i : Nat) (f : EmbJob → EmbJob) : Dev :=
  modStep d k fun st => { st with embs := match tfind st.embs i with
    | some e => tput st.embs i (f e)
    | none => st.embs }

/-- Key of a row-cache line. -/
def lineKey (g a : Nat) : Nat := g * 2 ^ 40 + a / 256

/-- A read of an LPDDR5X line by a gauntlet's jobs through its partition (R240): a hit, or a miss that fills it; the
oldest line of a full partition leaves (log 43). -/
def cacheTouch (d : Dev) (g : Nat) (part : Nat) (line : Nat) : Dev :=
  let key := lineKey g (256 * line)
  if d.rowcache.contains key then inc64 d rEMB_HITCNT 1
  else
    let mine := d.rowcache.filter fun x => x / 2 ^ 40 == g
    let l := if part * 16384 ≤ mine.length then d.rowcache.erase (mine.headD 0) else d.rowcache
    account (inc64 { d with rowcache := l ++ [key] } rEMB_MISSCNT 1) g fun x => { x with dramb := x.dramb + 256 }

/-- Read bytes of a table row: LPDDR5X through the row cache (R235, R240). -/
def rowRead (d : Dev) (g va n : Nat) : Except XErr (Bytes × Dev) :=
  match transRange d g va n false with
  | .error e => .error e
  | .ok l =>
    let part := (gaunt d g).rcpart
    let bs := l.flatMap fun p => peek d p.2.1 p.2.2
    if part = 0 then .ok (bs, dramCount d g l)
    else .ok (bs, l.foldl (fun d p =>
      if p.1 ≠ 3 then d
      else
        let a := p.2.1 - lpBase
        ((List.range ((a + p.2.2 - 1) / 256 - a / 256 + 1)).map (a / 256 + ·)).foldl (fun d x => cacheTouch d g part x) d) d)

/-- Elements of a run of bytes. -/
def elemsOf (bs : Bytes) (fmt n : Nat) : List Nat :=
  (List.range n).map fun i => leAt bs (i * (fmtBits fmt / 8)) (fmtBits fmt / 8)

/-- Widened table elements: rn32(q × SCALE) (R237). -/
def widenRow (bs : Bytes) (fmt dim scale : Nat) : List Nat :=
  (elemsOf bs fmt dim).map fun q => (pack32 (FV.mul (elemVal fmt q) (v32 scale))).1

/-- An index of a job's array. -/
def embIndex (d : Dev) (g : Nat) (b : Bytes) (p : Nat) : Except XErr Nat :=
  let sz := if (ebCtl b).testBit 8 then 8 else 4
  match vaRead d g ((w64At b 0x20 + sz * p) % 2 ^ 64) sz with
  | .error e => .error e
  | .ok bs => .ok (leNat bs)

/-- EMBIDX and EMB_IDXCNT for a skipped index (R237). -/
def embSkip (d : Dev) (k : Nat) : Dev := inc32 (modFl d k fun f => { f with embidx := true }) rEMB_IDXCNT 1

/-- Pool the positions of a bag (R237): accumulators and count. -/
def poolBag (g k : Nat) (b : Bytes) (scale : Nat) : Nat → Nat → List Nat × Nat → Dev → Except XErr ((List Nat × Nat) × Dev)
  | 0, _, a, d => .ok (a, d)
  | n + 1, p, (acc, cnt), d =>
    match embIndex d g b p with
    | .error e => .error e
    | .ok r =>
      if ebRows b ≤ r then poolBag g k b scale n (p + 1) (acc, cnt) (embSkip d k)
      else match rowRead d g ((w64At b 8 + r * w32At b 0x18) % 2 ^ 64) (ebDim b * (fmtBits (ebFmt b) / 8)) with
        | .error e => .error e
        | .ok (bs, d) =>
          let d := inc64 d rEMB_ROWCNT 1
          let w : Except XErr (Option Nat) := if (ebCtl b).testBit 9 then
              (match vaRead d g ((w64At b 0x30 + 4 * p) % 2 ^ 64) 4 with
                | .error e => .error e
                | .ok x => .ok (some (leNat x)))
            else .ok none
          match w with
          | .error e => .error e
          | .ok w =>
            let xs := (widenRow bs (ebFmt b) (ebDim b) scale).map fun x => match w with
              | some v => mul32 v x
              | none => x
            let acc := (acc.zip xs).map fun z => if leAt b 1 1 = 3 then fminmax true z.1 z.2 else add32 z.1 z.2
            poolBag g k b scale n (p + 1) (acc, cnt + 1) d

/-- One bag (R237, R238): checked, pooled, converted and written. A number is the reason code of a failure. -/
def gatherBag (k : Nat) (st : Step) (b : Bytes) (last : Nat) (tsl osl : ScaleSlot) (bag : Nat) (r : Running) (d : Dev) :
    Except (Nat ⊕ XErr) (Running × Dev) :=
  let g := st.g.toNat
  match vaRead d g ((w64At b 0x28 + 4 * bag) % 2 ^ 64) 8 with
  | .error e => .error (.inr e)
  | .ok o =>
    let lo := w32At o 0
    let hi := w32At o 4
    let pool := leAt b 1 1
    if hi < lo ∨ last < hi ∨ 256 < hi - lo ∨ (pool = 0 ∧ hi - lo ≠ 1) then .error (.inl 0x31)
    else match poolBag g k b tsl.scale.toNat (hi - lo) lo (List.replicate (ebDim b) (if pool = 3 then 0xFF800000 else 0x80000000), 0) d with
      | .error e => .error (.inr e)
      | .ok ((acc, n), d) =>
        let ys := acc.map fun a => if n = 0 then 0 else if pool = 2 then divNat32 a n else a
        let base := bag * w32At b 0x50
        let c := ebCtl b
        let (bs, r) := convRun d st osl (c.testBit 10) (c.testBit 11) (c.testBit 12)
          ((ys.zip (List.range ys.length)).map fun y => (y.1, base + y.2)) r
        match vaWrite d g ((w64At b 0x38 + base * (fmtBits (ebFmt2 b) / 8)) % 2 ^ 64) bs with
        | .error e => .error (.inr e)
        | .ok d => .ok (r, d)

/-- Some bags in order. -/
def gatherBags (k : Nat) (st : Step) (b : Bytes) (last : Nat) (tsl osl : ScaleSlot) :
    List Nat → Running → Dev → (Running × Dev) × Option (Nat ⊕ XErr)
  | [], r, d => ((r, d), none)
  | bag :: t, r, d =>
    match gatherBag k st b last tsl osl bag r d with
    | .error e => ((r, d), some e)
    | .ok (r, d) => gatherBags k st b last tsl osl t r d

/-- Add a gradient row to the sums of a row; rows stay in rising order. A sum of one term is that term (log 45). -/
def addGrad (row : Nat) (gs : List Nat) : List (Nat × List Nat) → List (Nat × List Nat)
  | [] => [(row, gs)]
  | (r, s) :: t =>
    if row < r then (row, gs) :: (r, s) :: t
    else if row = r then (r, (s.zip gs).map fun z => add32 z.1 z.2) :: t
    else (r, s) :: addGrad row gs t

/-- Group some positions of an update (R239). -/
def groupRows (k g : Nat) (b : Bytes) : Nat → Nat → List (Nat × List Nat) → Dev → Except XErr (List (Nat × List Nat) × Dev)
  | 0, _, l, d => .ok (l, d)
  | n + 1, p, l, d =>
    match embIndex d g b p with
    | .error e => .error e
    | .ok r =>
      if ebRows b ≤ r then groupRows k g b n (p + 1) l (embSkip d k)
      else
        let es := fmtBits (ebFmt2 b) / 8
        match vaGet d g ((w64At b 0x28 + p * ebDim b * es) % 2 ^ 64) (ebDim b * es) with
        | .error e => .error e
        | .ok (bs, d) =>
          groupRows k g b n (p + 1) (addGrad r ((elemsOf bs (ebFmt2 b) (ebDim b)).map fun x => (pack32 (elemVal (ebFmt2 b) x)).1) l) d

/-- Update some rows (R239). -/
def applyRows (k : Nat) (st : Step) (b : Bytes) (sl : ScaleSlot) : List (Nat × List Nat) → Running → Dev →
    (Running × Dev) × Option XErr
  | [], r, d => ((r, d), none)
  | (row, gs) :: t, r, d =>
    let g := st.g.toNat
    let va := (w64At b 8 + row * w32At b 0x18) % 2 ^ 64
    match rowRead d g va (ebDim b * (fmtBits (ebFmt b) / 8)) with
    | .error e => ((r, d), some e)
    | .ok (bs, d) =>
      let alpha := w32At b 0x30
      let ys := ((widenRow bs (ebFmt b) (ebDim b) sl.scale.toNat).zip gs).map fun z => add32 z.1 (mul32 alpha z.2)
      let c := ebCtl b
      let (out, r') := convRun d st sl (c.testBit 10) (c.testBit 11) (c.testBit 12)
        ((ys.zip (List.range ys.length)).map fun y => (y.1, row * ebDim b + y.2)) r
      match vaWrite d g va out with
      | .error e => ((r, d), some e)
      | .ok d => applyRows k st b sl t r' (inc64 d rEMB_ROWCNT 1)

/-- The step of a name when it may issue items, with its key. -/
def liveStep (d : Dev) (st : StepName) : Option (Nat × Step) :=
  match findStep d st with
  | none => none
  | some k => if canRun d k then (tfind d.steps k).map fun s => (k, s) else none

/-- EMB_JOB_START (R236): PJS is complete and every earlier job of the step has landed. -/
def execEmbJobStart (st : StepName) (job : BitVec 3) (s : State) : Host.Outcome State Fault Refusal :=
  run (fun d =>
    match liveStep d st with
    | none => d
    | some (k, sp) =>
      let i := job.toNat
      match (progOf sp).embs[i]? with
      | none => d
      | some b =>
        let pjs := leAt b 6 1
        if (tfind sp.embs i).isSome || !(pjs == 0xFF || sp.jsDone.contains pjs) ||
           (List.range i).any (fun j => !((tfind sp.embs j).any fun e => e.landed)) then d
        else
          let e : EmbJob := { started := true, cursor := 0, grouping := leAt b 0 1 == 1, rows := [], landed := false }
          modStep d k fun z => { z with embs := tput z.embs i e }) s

/-- The work unit of a job: its effect (R234). -/
def embUnit (d : Dev) (k i : Nat) (sp : Step) (b : Bytes) (e : EmbJob) : Dev :=
  let g := sp.g.toNat
  let p := progOf sp
  if leAt b 0 1 = 0 then
    let n := min 64 (ebNbag b - e.cursor)
    match vaRead d g ((w64At b 0x28 + 4 * ebNbag b) % 2 ^ 64) 4 with
    | .error x => embX d k g i x
    | .ok o =>
      let osl := recSlot p (w64At b 0x48) (ebFmt2 b)
      let ((r, d), x) := gatherBags k sp b (leNat o) (recSlot p (w64At b 0x40) (ebFmt b)) osl
        ((List.range n).map (e.cursor + ·)) Running.reset d
      let d := engMerge d k g osl r ucEmb
      match x with
      | some (.inl code) => embFail d k g i 1 code
      | some (.inr x) => embX d k g i x
      | none => modEmb d k i fun e => { e with cursor := e.cursor + n, landed := decide (ebNbag b ≤ e.cursor + n) }
  else if e.grouping then
    let n := min 4096 (ebNbag b - e.cursor)
    match groupRows k g b n e.cursor e.rows d with
    | .error x => embX d k g i x
    | .ok (l, d) =>
      let fin := decide (ebNbag b ≤ e.cursor + n)
      modEmb d k i fun e => { e with rows := l, grouping := !fin, cursor := if fin then 0 else e.cursor + n, landed := fin && l.isEmpty }
  else
    let sl := recSlot p (w64At b 0x40) (ebFmt b)
    let ((r, d), x) := applyRows k sp b sl ((e.rows.drop e.cursor).take 64) Running.reset d
    let d := engMerge d k g sl r ucEmb
    match x with
    | some x => embX d k g i x
    | none => modEmb d k i fun e => { e with cursor := e.cursor + 64, landed := decide (e.rows.length ≤ e.cursor + 64) }

/-- EMB_WORK_UNIT (R234). -/
def execEmbWorkUnit (st : StepName) (job : BitVec 3) (s : State) : Host.Outcome State Fault Refusal :=
  run (fun d =>
    match liveStep d st with
    | none => d
    | some (k, sp) =>
      match tfind sp.embs job.toNat, (progOf sp).embs[job.toNat]? with
      | some e, some b =>
        if e.landed then d
        else
          let (n, d) := freeCycles d
          embUnit (account d sp.g.toNat fun x => { x with embcyc := x.embcyc + BitVec.ofNat 64 n }) k job.toNat sp b e
      | _, _ => d) s

/-- EMB_RCPART_WRITE (R250): sizes that sum above 16 are ignored. -/
def rcpartWrite (v : W64) (d : Dev) : Dev :=
    let sum := (List.range 16).foldl (fun a i => a + fld v.toNat (4 * i + 3) (4 * i)) 0
    if 16 < sum then d else setReg d rEMB_RCPART v.toNat

/-- EMB_RCPART_WRITE (R250). -/
def execEmbRcpartWrite (v : W64) (s : State) : Host.Outcome State Fault Refusal :=
  run (rcpartWrite v) s

/-! ### Expert dispatch (R242–R248) -/

/-- Unit code of the dispatch engine. -/
def ucExd : Nat := unitCode 5 6

/-- Fields of the dispatch descriptor (R243). -/
def xdCtl (b : Bytes) : Nat := w32At b 4
/-- TOPK. -/
def xdTopk (b : Bytes) : Nat := fld (xdCtl b) 3 0
/-- HID. -/
def xdHid (b : Bytes) : Nat := leAt b 8 2
/-- NLOC. -/
def xdNloc (b : Bytes) : Nat := leAt b 0xA 1
/-- NTOK. -/
def xdNtok (b : Bytes) : Nat := w32At b 0xC
/-- CAP. -/
def xdCap (b : Bytes) : Nat := w32At b 0x40

/-- The dispatch engine fails a step: EXD_ERR, EXD_ERRINFO (R249, R250). -/
def exdFail (d : Dev) (k g pos bit code : Nat) : Dev :=
  failStep (recordErr d rEXD_ERR rEXD_ERRINFO bit (g + 16 * pos + code * 2 ^ 16)) k code ucExd

/-- An access of the round fails translation. -/
def exdX (d : Dev) (k g : Nat) (e : XErr) : Dev := exdFail (noteX d e) k g 0 4 e.code

/-- A message of the round to the member at a position: to itself without the fabric (R244); a rank that names no peer is
unreachable (R248). -/
def exdSend (k g : Nat) (ranks : List Nat) (pos ty : Nat) (hdr data : Bytes) (d : Dev) : Dev :=
  match tfind d.steps k, peerMid d g (ranks.getD pos 64) with
  | some st, some mid =>
    if mid = myMid d then expertDeliver d k st (BitVec.ofNat 12 mid) ty (padTo 32 hdr ++ data)
    else if (routeOf d mid).isNone then exdFail d k g pos 2 0x34
    else sendMsg d g mid 4 ty hdr data
  | some _, none => exdFail d k g pos 2 0x34
  | none, _ => d

/-- The choices of a module in ascending token, then choice: token, choice, member position, local expert; skipped ones
left out (R242). -/
def choicesOf (b : Bytes) (emap : List W32) (ranks : List Nat) (route : Bytes) : List (Nat × Nat × Nat × Nat) :=
  (List.range (xdNtok b * xdTopk b)).filterMap fun i =>
    let rc := leAt route (8 * i) 4
    let e := ((emap.getD (fld rc 11 0) 0)).toNat
    if rc.testBit 31 && e.testBit 12 then
      (ranks.findIdx? (· == fld e 5 0)).map fun m => (i / xdTopk b, i % xdTopk b, m, fld e 11 6)
    else none

/-- The routing records. -/
def routeRead (d : Dev) (g : Nat) (b : Bytes) : Except XErr (Bytes × Dev) :=
  vaGet d g (w64At b 0x18) (8 * xdTopk b * xdNtok b)

/-- Counts of a member, by local expert. -/
def countFor (l : List (Nat × Nat × Nat × Nat)) (m e : Nat) : Nat := (l.filter fun c => c.2.2.1 == m && c.2.2.2 == e).length

/-- A phase of a step's round: its step may issue items and the round stands at the phase. -/
def atPhase (d : Dev) (st : StepName) (ph : Nat) : Option (Nat × Step × Round) :=
  match liveStep d st with
  | none => none
  | some (k, sp) => match sp.round with
    | none => none
    | some r => if r.phase = ph then some (k, sp, r) else none

/-- Run a phase, with the engine's cycles on the account (R404). -/
def phaseRun (st : StepName) (ph : Nat) (f : Dev → Nat → Step → Round → Bytes → Dev) (s : State) : Host.Outcome State Fault Refusal :=
  run (fun d =>
    match atPhase d st ph with
    | none => d
    | some (k, sp, r) =>
      let (n, d) := freeCycles d
      f (account d sp.g.toNat fun x => { x with exdcyc := x.exdcyc + BitVec.ofNat 64 n }) k sp r (dispDesc sp)) s

/-- Count (R244): PJS is complete. -/
def xdCount (d : Dev) (k : Nat) (sp : Step) (r : Round) (b : Bytes) : Dev :=
  let g := sp.g.toNat
  if !sp.jsDone.contains (leAt b 0x44 1) then d
  else match vaGet d g (w64At b 0x20) 16384 with
    | .error e => exdX d k g e
    | .ok (em, d) => match routeRead d g b with
      | .error e => exdX d k g e
      | .ok (rt, d) =>
        let emap := (List.range 4096).map fun i => BitVec.ofNat 32 (w32At em (4 * i))
        let l := choicesOf b emap r.ranks rt
        let me := myPos d g r.ranks
        let d := modRound d k fun r => { r with emap := emap, phase := 1 }
        (List.range r.ranks.length).foldl (fun d m =>
          exdSend k g r.ranks m 0 (leBytes 4 (w32At b 0) ++ leBytes 1 me)
            ((List.range 64).flatMap fun e => leBytes 4 (countFor l m e)) d) d

/-- EXPERT_COUNT (R244). -/
def execExpertCount (st : StepName) (s : State) : Host.Outcome State Fault Refusal := phaseRun st 0 xdCount s

/-- Count of an expert from a source. -/
def cntAt (r : Round) (i e : Nat) : Nat := ((tget [] r.counts i).getD e 0).toNat
/-- Offset of a source's tokens in an expert's queue (R244). -/
def offAt (r : Round) (i e : Nat) : Nat := (List.range i).foldl (fun a j => a + cntAt r j e) 0
/-- Demand of an expert. -/
def demand (r : Round) (e : Nat) : Nat := offAt r r.ranks.length e

/-- Offset (R244): count vectors of every member are here; the pointer list and the demand of the status block (R247). -/
def xdOffset (d : Dev) (k : Nat) (sp : Step) (r : Round) (b : Bytes) : Dev :=
  let g := sp.g.toNat
  let n := r.ranks.length
  if (List.range n).any fun i => (tfind r.counts i).isNone then d
  else
    let me := myPos d g r.ranks
    let hid := xdHid b
    let cap := xdCap b
    let ent (e : Nat) : Bytes := padTo 64
      (leBytes 8 ((w64At b 0x28 + e * cap * hid * esz (fld (xdCtl b) 7 4)) % 2 ^ 64) ++ leBytes 8 0 ++
       leBytes 8 ((w64At b 0x30 + e * cap * hid * esz (fld (xdCtl b) 11 8)) % 2 ^ 64) ++ leBytes 8 0 ++ leBytes 4 (min (demand r e) cap))
    match vaWrite d g (w64At b 0x48) ((List.range (xdNloc b)).flatMap ent) with
    | .error e => exdX d k g e
    | .ok d =>
      match vaWrite d g ((w64At b 0x60 + 64) % 2 ^ 64) ((List.range (xdNloc b)).flatMap fun e =>
          leBytes 4 (demand r e) ++ leBytes 4 (demand r e - cap)) with
      | .error e => exdX d k g e
      | .ok d =>
        let d := if (List.range (xdNloc b)).any fun e => decide (cap < demand r e) then modFl d k fun f => { f with expdrop := true } else d
        let d := modRound d k fun r => { r with phase := 2 }
        (List.range n).foldl (fun d i => exdSend k g r.ranks i 1 (leBytes 4 (w32At b 0) ++ leBytes 1 me)
          ((List.range 64).flatMap fun e => leBytes 4 (offAt r i e)) d) d

/-- EXPERT_OFFSET (R244). -/
def execExpertOffset (st : StepName) (s : State) : Host.Outcome State Fault Refusal := phaseRun st 1 xdOffset s

/-- Queue slots of a source's choices: each takes the next slot of its expert (R244). -/
def placeAll (r : Round) : List (Nat × Nat × Nat × Nat) → List (Nat × Nat) → List (Nat × Nat × Nat × Nat × Nat)
  | [], _ => []
  | (t, j, m, e) :: rest, seen =>
    let n := (seen.filter fun x => x == (m, e)).length
    (t, j, m, e, ((tget [] r.offs m).getD e 0).toNat + n) :: placeAll r rest ((m, e) :: seen)

/-- Send tokens one after another (R244). -/
def sendTokens (k g : Nat) (b : Bytes) (ranks : List Nat) : List (Nat × Nat × Nat × Nat × Nat) → Dev → Except XErr Dev
  | [], d => .ok d
  | (t, j, m, e, sl) :: rest, d =>
    let n := xdHid b * esz (fld (xdCtl b) 7 4)
    match vaGet d g ((w64At b 0x10 + t * n) % 2 ^ 64) n with
    | .error x => .error x
    | .ok (bs, d) =>
      sendTokens k g b ranks rest (exdSend k g ranks m 2
        (leBytes 4 (w32At b 0) ++ leBytes 2 e ++ leBytes 2 sl ++ leBytes 4 t ++ leBytes 1 j) bs d)

/-- Send (R244): offsets of every holder are here. -/
def xdSend (d : Dev) (k : Nat) (sp : Step) (r : Round) (b : Bytes) : Dev :=
  let g := sp.g.toNat
  if (List.range r.ranks.length).any fun i => (tfind r.offs i).isNone then d
  else match routeRead d g b with
    | .error e => exdX d k g e
    | .ok (rt, d) =>
      let all := placeAll r (choicesOf b r.emap r.ranks rt) []
      let kept := all.filter fun c => decide (c.2.2.2.2 < xdCap b)
      let drop := all.length - kept.length
      let lost := ((List.range (xdNtok b)).filter fun t => !(kept.any fun c => c.1 == t)).length
      let d := modRound d k fun r => { r with phase := 3, placed := kept, sent := kept.length, dropped := drop, lost := lost }
      let d := inc32 (inc64 d rEXD_SENTCNT kept.length) rEXD_DROPCNT drop
      let d := if drop = 0 then d else modFl d k fun f => { f with expdrop := true }
      match sendTokens k g b r.ranks kept d with
      | .error e => exdX d k g e
      | .ok d => d

/-- EXPERT_SEND (R244). -/
def execExpertSend (st : StepName) (s : State) : Host.Outcome State Fault Refusal := phaseRun st 2 xdSend s

/-- Tokens of a source that a holder keeps, over its experts. -/
def keptFrom (b : Bytes) (r : Round) (i : Nat) : Nat :=
  (List.range (xdNloc b)).foldl (fun a e => a + (min (offAt r (i + 1) e) (xdCap b) - min (offAt r i e) (xdCap b))) 0

/-- Compute (R244): every source's sends have landed, and XJS may make grants. -/
def xdCompute (d : Dev) (k : Nat) (_sp : Step) (r : Round) (b : Bytes) : Dev :=
  if (List.range r.ranks.length).all fun i => (r.origin.filter fun o => o.2.2.1 == i).length == keptFrom b r i then
    modRound d k fun r => { r with phase := 4, sends := List.range r.ranks.length }
  else d

/-- EXPERT_COMPUTE (R244). -/
def execExpertCompute (st : StepName) (s : State) : Host.Outcome State Fault Refusal := phaseRun st 3 xdCompute s

/-- Send result rows one after another (R244). -/
def sendResults (k g : Nat) (b : Bytes) (ranks : List Nat) : List (Nat × Nat × Nat × Nat × Nat) → Dev → Except XErr Dev
  | [], d => .ok d
  | (e, sl, pos, t, j) :: rest, d =>
    let n := xdHid b * esz (fld (xdCtl b) 11 8)
    match vaGet d g ((w64At b 0x30 + (e * xdCap b + sl) * n) % 2 ^ 64) n with
    | .error x => .error x
    | .ok (bs, d) =>
      sendResults k g b ranks rest (exdSend k g ranks pos 3
        (leBytes 4 (w32At b 0) ++ leBytes 2 e ++ leBytes 2 sl ++ leBytes 4 t ++ leBytes 1 j) bs d)

/-- Return (R244): XJS is complete. -/
def xdReturn (d : Dev) (k : Nat) (sp : Step) (r : Round) (b : Bytes) : Dev :=
  let xjs := leAt b 0x45 1
  if !(xjs == 0xFF || sp.jsDone.contains xjs) then d
  else match sendResults k sp.g.toNat b r.ranks r.origin (modRound d k fun r => { r with phase := 5 }) with
    | .error e => exdX d k sp.g.toNat e
    | .ok d => d

/-- EXPERT_RETURN (R244). -/
def execExpertReturn (st : StepName) (s : State) : Host.Outcome State Fault Refusal := phaseRun st 4 xdReturn s

/-- Combined values of a token (R246). -/
def combineTok (b : Bytes) (r : Round) (rt : Bytes) (t : Nat) : List Nat :=
  let js := (List.range (xdTopk b)).filter fun j => r.placed.any fun c => c.1 == t && c.2.1 == j
  let fy := fld (xdCtl b) 11 8
  let rows := js.map fun j => (w32At rt (8 * (t * xdTopk b + j) + 4), elemsOf (tget [] r.results (8 * t + j)) fy (xdHid b))
  (List.range (xdHid b)).map fun q =>
    if js.isEmpty then 0
    else rows.foldl (fun acc p => (fma32 p.1 (pack32 (elemVal fy (p.2.getD q 0))).1 acc false false).1) 0x80000000

/-- Combine the tokens in order. -/
def combineAll (k : Nat) (sp : Step) (b : Bytes) (r : Round) (rt : Bytes) (sl : ScaleSlot) : List Nat → Running → Dev →
    Except XErr (Running × Dev)
  | [], run, d => .ok (run, d)
  | t :: rest, run, d =>
    let c := xdCtl b
    let hid := xdHid b
    let (bs, run) := convRun d sp sl (c.testBit 16) (c.testBit 17) (c.testBit 18)
      (((combineTok b r rt t).zip (List.range hid)).map fun y => (y.1, t * hid + y.2)) run
    match vaWrite d sp.g.toNat ((w64At b 0x38 + t * hid * esz sl.fmt.toNat) % 2 ^ 64) bs with
    | .error e => .error e
    | .ok d => combineAll k sp b r rt sl rest run d

/-- Combine (R246, R247): the returns of every holder are here. -/
def xdCombine (d : Dev) (k : Nat) (sp : Step) (r : Round) (b : Bytes) : Dev :=
  let g := sp.g.toNat
  if r.placed.any fun c => (tfind r.results (8 * c.1 + c.2.1)).isNone then d
  else match routeRead d g b with
    | .error e => exdX d k g e
    | .ok (rt, d) =>
      let sl := recSlot (progOf sp) (w64At b 0x50) (fld (xdCtl b) 15 12)
      match combineAll k sp b r rt sl (List.range (xdNtok b)) Running.reset d with
      | .error e => exdX d k g e
      | .ok (run, d) =>
        let d := engMerge d k g sl run ucExd
        match vaWrite d g (w64At b 0x60) (padTo 64 (leBytes 4 r.sent ++ leBytes 4 r.dropped ++ leBytes 4 r.lost)) with
        | .error e => exdX d k g e
        | .ok d => modRound d k fun r => { r with phase := 6, returns := List.range r.ranks.length }

/-- EXPERT_COMBINE (R246). -/
def execExpertCombine (st : StepName) (s : State) : Host.Outcome State Fault Refusal := phaseRun st 5 xdCombine s

/-- EXPERT_ABORT_RECEIVED (R248): the gauntlet's step of that ROUND fails with EXPPEER. -/
def execExpertAbortReceived (g : Gnt) (round : W32) (s : State) : Host.Outcome State Fault Refusal :=
  run (fun d => (liveSteps d g.toNat).foldl (fun d p =>
    match p.2.round with
    | some _ => if w32At (dispDesc p.2) 0 = round.toNat then exdFail d p.1 g.toNat 0 2 0x34 else d
    | none => d) d) s

end Sys2Proof.Machine
end

