-- ==== Sys2Proof/Machine/Reset.lean ====
section
/-! DEFINITION. The boot journal (R457) and the reset of the module (R47). -/
namespace Sys2Proof.Machine

/-- Write a record to the boot journal; of a full ring the oldest record is overwritten (R457). TIME is a free value
(log 7). -/
def jrec (d : Dev) (kind step level reason detail : Nat) : Dev :=
  let (t, d) := freeVal d
  let r : JRec := { kind := BitVec.ofNat 8 kind, step := BitVec.ofNat 8 step, bootnum := d.pst.bootnum, rseq := d.pst.jseq
                    level := BitVec.ofNat 8 level, reason := BitVec.ofNat 8 reason, detail := BitVec.ofNat 64 detail
                    time := BitVec.ofNat 32 t.toNat }
  let j := if d.pst.journal.length < 32768 then d.pst.journal else d.pst.journal.drop 1
  { d with pst := { d.pst with journal := j ++ [r], jseq := d.pst.jseq + 1 } }

/-- The 32 bytes of a journal record (R457). -/
def jrecBytes (r : JRec) : Bytes :=
  let b := leBytes 2 0x4A52 ++ [r.kind, r.step] ++ leBytes 4 r.bootnum.toNat ++ leBytes 4 r.rseq.toNat ++
    [r.level, r.reason, 0, 0] ++ leBytes 8 r.detail.toNat ++ leBytes 4 r.time.toNat
  b ++ leBytes 4 (crc32c b)

/-- No memory of the module survives a reset (R47); host memory lies outside it. -/
def wipeAll (d : Dev) : Dev := store d (.fill 0 hostBase 0)

/-- The registers that show readings of the supply and the coolant: PWR_VIN, PWR_TJ, PWR_COOL (R448, R507; log 100). -/
def readings (d : Dev) : Tbl W64 := d.regs.filter fun p => [rPWR_VIN, rPWR_TJ, rPWR_COOL].contains p.1

/-- A reset of the module (R47): all goes to its reset value but flash, OTP, the hatbox, and what the supply and the
coolant bring from outside. Boot begins with BOOT_STATUS 0. -/
def resetModule (d : Dev) : Dev :=
  let d := wipeAll d
  { Dev.reset with
    opt1T := d.opt1T, optPT := d.optPT, mem := d.mem, wlog := d.wlog, free := d.free, pst := d.pst, hat := d.hat, blocks := d.blocks
    regs := readings d
    strk := { Strk.reset with time := d.strk.time }
    sup := { Supply.reset with vin := d.sup.vin, vinOk := d.sup.vinOk, enClosed := d.sup.enClosed
                               flowOk := d.sup.flowOk, ovHold := d.sup.ovHold } }

end Sys2Proof.Machine
end

