-- ==== Sys2Proof/Machine/Acct.lean ====
section
/-! DEFINITION. Accounting (R403–R406) and the activity frame (R483). -/
namespace Sys2Proof.Machine

/-- An accounting interval in ns (R403). -/
def intervalNs : Nat := 1024000000

/-- The counters that records and frames carry, in their order (R404, R483). -/
def Acct.counters (a : Acct) : List W64 :=
  [a.seatcyc, a.stemcyc, a.embcyc, a.exdcyc, a.deccyc, a.vidcyc, a.hostb, a.dramb, a.fabb]

/-- A cause that clears PVALID (R405): counter error, activity link, hatbox not ready, hatbox log full. -/
def invCause (d : Dev) (a : Acct) : Nat := b2n a.cerr + 4 * b2n d.strk.rdyLow + 8 * b2n d.strk.logFull

/-- An accounting record (R404). ENERGY is the module's estimate, a free value (log 4). -/
def acctRecord (d : Dev) (g : Nat) (iv first : W64) (n : Nat) (a : Acct) (energy : Nat) : Bytes :=
  let x := gaunt d g
  let inv := invCause d a
  leBytes 8 iv.toNat ++ leBytes 8 first.toNat ++ leBytes 4 n ++ leBytes 1 g ++
  leBytes 1 (b2n (inv == 0) + 2 * b2n x.acctBorn + 4 * b2n x.acctDied + 8 * b2n d.sup.inInterval) ++ leBytes 2 inv ++
  leBytes 4 x.inst.toNat ++ leBytes 4 0 ++ (a.counters.flatMap fun v => leBytes 8 v.toNat) ++ leBytes 8 energy ++
  leBytes 4 a.qwait.toNat ++ leBytes 4 a.suspwait.toNat ++ leBytes 2 a.preempts.toNat ++ leBytes 2 a.overruns.toNat ++
  leBytes 2 a.cancels.toNat ++ leBytes 2 0

/-- A gauntlet number gets a record of the interval (R403). -/
def hasRecord (d : Dev) (g : Nat) : Bool := (gaunt d g).present || (gaunt d g).acctDied

/-- Address of a record in the record store: 65,536 records of each gauntlet number, the oldest overwritten (R406). -/
def recordAddr (g n : Nat) : Nat := acctBase + 2 ^ 23 * g + 128 * (n % 65536)

/-- Write a record to the record store. -/
def putRecord (d : Dev) (g : Nat) (iv first : W64) (n : Nat) (a : Acct) : Dev :=
  let (e, d) := freeVal d
  let k := tget 0 d.acctN g
  { putBytes d (recordAddr g k) (acctRecord d g iv first n a e.toNat) with acctN := tput d.acctN g (k + 1) }

/-- One gauntlet's part of an activity frame (R483). -/
def frameGaunt (d : Dev) (g : Nat) (a : Acct) : Bytes :=
  leBytes 4 (gaunt d g).inst.toNat ++ leBytes 4 (b2n (hasRecord d g) + 2 * b2n a.cerr) ++
    (a.counters.flatMap fun v => leBytes 8 v.toNat)

/-- An activity frame of 1,316 bytes (R483). -/
def activityFrame (d : Dev) (iv : W64) (acct : Nat → Acct) : Bytes :=
  let b := leBytes 4 d.pst.bootnum.toNat ++ leBytes 4 0 ++ leBytes 8 iv.toNat ++ leBytes 4 (b2n d.sup.inInterval) ++
    List.replicate 12 0 ++ ((List.range 16).flatMap fun g => frameGaunt d g (acct g))
  b ++ leBytes 4 (crc32c b)

/-- The records of an interval, and its frame, sent twice (R403, R483). -/
def exportInterval (d : Dev) (iv first : W64) (n : Nat) (acct : Nat → Acct) : Dev :=
  let d := { d with actSent := d.actSent ++ [activityFrame d iv acct, activityFrame d iv acct] }
  (List.range 16).foldl (fun d g => if hasRecord d g then putRecord d g iv first n (acct g) else d) d

/-- Counters of one interval less those of a snapshot in it. -/
def Acct.less (a b : Acct) : Acct :=
  { seatcyc := a.seatcyc - b.seatcyc, stemcyc := a.stemcyc - b.stemcyc, embcyc := a.embcyc - b.embcyc
    exdcyc := a.exdcyc - b.exdcyc, deccyc := a.deccyc - b.deccyc, vidcyc := a.vidcyc - b.vidcyc, hostb := a.hostb - b.hostb
    dramb := a.dramb - b.dramb, fabb := a.fabb - b.fabb, qwait := a.qwait - b.qwait, suspwait := a.suspwait - b.suspwait
    preempts := a.preempts - b.preempts, overruns := a.overruns - b.overruns, cancels := a.cancels - b.cancels, cerr := false }

/-- A new interval begins: what was counted after the snapshot belongs to it (R38). -/
def newInterval (d : Dev) (acct : Nat → Acct) : Dev :=
  let d := (List.range 16).foldl (fun d g => modG d g fun x =>
    { x with acct := x.acct.less (acct g), charged := (0, 0), acctBorn := false, acctDied := false }) d
  { d with sup := { d.sup with inInterval := d.sup.brace }
           strk := { d.strk with rdyLow := false, logFull := false } }

end Sys2Proof.Machine
end

