-- ==== Sys2Proof/Machine/Media.lean ====
section
/-! DEFINITION. What the ingest engines compute from a sample's bytes: record framing (R291–R296), UTF-8 and the
tokeniser (R299–R301), draws (R303), and the augment unit (R298, R304–R307). The media standards themselves are
`Config.media` (log 8). -/
namespace Sys2Proof.Machine

/-! ### Arithmetic -/

/-- Negation of an FP32 value. -/
def neg32 (x : Nat) : Nat := x ^^^ 0x80000000
/-- rn32(a − b). -/
def sub32 (a b : Nat) : Nat := add32 a (neg32 b)
/-- A natural number as FP32. -/
def nat32 (n : Nat) : Nat := ofInt32 n
/-- rn32(n / m) of natural numbers. -/
def ratio32 (n m : Nat) : Nat := divNat32 (nat32 n) m
/-- rn32(a / b). -/
def div32 (a b : Nat) : Nat :=
  match v32 a, v32 b with
  | .fin na ma ea, .fin nb mb eb =>
    if mb = 0 then (if ma = 0 then 0x7FC00000 else if na != nb then 0xFF800000 else 0x7F800000)
    else if ma = 0 then (if na != nb then 0x80000000 else 0)
    else (pack32 (sticky (na != nb) (ma * 2 ^ 60 / mb) (ea - eb - 60) (ma * 2 ^ 60 % mb == 0))).1
  | .inf na, .fin nb _ _ => if na != nb then 0xFF800000 else 0x7F800000
  | .fin na _ _, .inf nb => if na != nb then 0x80000000 else 0
  | _, _ => 0x7FC00000
/-- Nearest integer, ties to even. -/
def rnInt (x : Nat) : Int := sext 32 (f2i x false).1
/-- Floor of a value that is not negative. -/
def floorNat (x : Nat) : Nat := (f2i x true).1 % 2 ^ 31
/-- rn32(x − 0.5) helper constant. -/
def half32 : Nat := 0x3F000000

/-! ### Draws (R303) -/

/-- draw(j) of a sample. -/
def drawOf (seed augid smp j : Nat) : Nat :=
  let a := mix64 ((seed + augid * 0x9E3779B97F4A7C15) % 2 ^ 64)
  let b := mix64 (a ^^^ (smp * 0xD1B54A32D192ED03 % 2 ^ 64))
  mix64 ((b + j) % 2 ^ 64) >>> 32

/-- u_j as FP32. -/
def unitOf (draw : Nat) : Nat := (pack32 (.fin false draw (-32))).1

/-! ### Cleusk framing (R291–R295) -/

/-- A stream header passes its checks. -/
def clskOk (b : Bytes) : Bool :=
  w32At b 0 == 0x4B534C43 && leAt b 4 2 == 1 && leAt b 6 2 == 0 && w32At b 0xC == 0 && w32At b 0x18 == 0 &&
  w32At b 0x1C == crc32c (b.take 0x1C)

/-- A record header has valid SYNC and HCRC. -/
def recSync (b : Bytes) : Bool := leAt b 0 2 == 0xC1E5 && w32At b 0x14 == crc32c (b.take 0x14)

/-- A record header is sound but for its RSEQ. -/
def recSound (b : Bytes) : Bool :=
  recSync b && decide (leAt b 2 1 ≤ 2) && leAt b 3 1 == 0 && w32At b 0x10 == 0 && w32At b 4 % 8 == 0 &&
  decide (w32At b 4 ≤ 2 ^ 30)

/-- Fields of a Cleusk body (R293): tags and values; none where the layout is bad. -/
def fieldsOf : Nat → Bytes → Option (List (Nat × Bytes))
  | 0, _ => none
  | n + 1, b =>
    if b.isEmpty then some []
    else
      let len := w32At b 4
      let whole := alignUp (8 + len) 8
      if b.length < whole ∨ leAt b 2 2 ≠ 0 then none
      else (fieldsOf n (b.drop whole)).map fun t => (leAt b 0 2, slice b 8 len) :: t

/-- A field table holds no tag that must be understood (R294). -/
def tagsOk (l : List (Nat × Bytes)) : Bool := l.all fun f => decide (f.1 < 0x8000)

/-! ### ustar framing (R296) -/

/-- Octal digits to their value; none where there is no digit or something else follows. -/
def octalGo : Bytes → Option Nat → Option Nat
  | [], a => a
  | b :: t, a =>
    let v := b.toNat
    if decide (48 ≤ v) && decide (v ≤ 55) then octalGo t (some ((a.getD 0) * 8 + (v - 48)))
    else if v = 32 && a.isNone then octalGo t a
    else if t.all (fun x => x == 0 || x == 32) && (v == 0 || v == 32) then a else none

/-- An octal field. -/
def octalOf (b : Bytes) : Option Nat := octalGo b none

/-- A ustar header passes its checks. -/
def tarOk (b : Bytes) : Bool :=
  slice b 257 6 == [0x75, 0x73, 0x74, 0x61, 0x72, 0] && slice b 263 2 == [0x30, 0x30] &&
  octalOf (slice b 148 8) == some ((b.take 512).foldl (fun a x => a + x.toNat) 0 - (slice b 148 8).foldl (fun a x => a + x.toNat) 0 + 8 * 32) &&
  (octalOf (slice b 124 12)).isSome

/-- Size of a member. -/
def tarSize (b : Bytes) : Nat := (octalOf (slice b 124 12)).getD 0
/-- Bytes of a member with its header. -/
def tarSpan (b : Bytes) : Nat := 512 + alignUp (tarSize b) 512
/-- The member is read: typeflag '0' or NUL. -/
def tarData (b : Bytes) : Bool := leAt b 156 1 == 0x30 || leAt b 156 1 == 0

/-- Bytes up to a NUL. -/
def cstr (b : Bytes) : Bytes := b.takeWhile fun x => x != 0

/-- Path of a member. -/
def tarPath (b : Bytes) : Bytes :=
  let p := cstr (slice b 345 155)
  if p.isEmpty then cstr (slice b 0 100) else p ++ [0x2F] ++ cstr (slice b 0 100)

/-- Position after the last '/'. -/
def afterSlash (p : Bytes) : Nat := ((List.range p.length).filter fun i => p.getD i 0 == 0x2F).foldl (fun _ i => i + 1) 0

/-- Key and extension of a path, the extension in lower case. -/
def tarKey (p : Bytes) : Bytes × Bytes :=
  let n := afterSlash p
  let base := p.drop n
  let stem := base.takeWhile fun x => x != 0x2E
  (p.take n ++ stem, ((base.drop (stem.length + 1)).map fun x => if decide (0x41 ≤ x.toNat) && decide (x.toNat ≤ 0x5A) then x + 0x20 else x))

/-- Tag of an extension. -/
def extTag (e : Bytes) : Option Nat :=
  if e = [0x6A, 0x70, 0x67] ∨ e = [0x6A, 0x70, 0x65, 0x67] then some 0x10
  else if e = [0x70, 0x6E, 0x67] then some 0x11
  else if e = [0x66, 0x6C, 0x61, 0x63] then some 0x20
  else if e = [0x6F, 0x70, 0x6B] then some 0x21
  else if e = [0x70, 0x63, 0x6D] then some 0x23
  else if e = [0x74, 0x78, 0x74] then some 0x30
  else if e = [0x63, 0x6C, 0x73] then some 2
  else if e = [0x74, 0x6F, 0x6B] then some 3
  else none

/-- Decimal integers separated by white space, as INT32 values. -/
def decimals : Bytes → Option (Bool × Nat) → List Nat
  | [], none => []
  | [], some (n, v) => [wrapZ 32 (if n then -(v : Int) else v)]
  | b :: t, a =>
    let v := b.toNat
    if decide (48 ≤ v) && decide (v ≤ 57) then
      (match a with
        | none => decimals t (some (false, v - 48))
        | some (n, x) => decimals t (some (n, x * 10 + (v - 48))))
    else match a with
      | none => if v = 45 then decimals t (some (true, 0)) else decimals t none
      | some (n, x) => wrapZ 32 (if n then -(x : Int) else x) :: decimals t none

/-- Fields of a ustar record: its members in order. -/
def tarFields : Nat → Bytes → List (Nat × Bytes)
  | 0, _ => []
  | n + 1, b =>
    if b.length < 512 then []
    else
      let rest := tarFields n (b.drop (tarSpan b))
      if !tarData b then rest
      else match extTag (tarKey (tarPath b)).2 with
        | none => rest
        | some 2 => (2, (decimals (slice b 512 (tarSize b)) none).flatMap (leBytes 4)) :: rest
        | some t => (t, slice b 512 (tarSize b)) :: rest

/-! ### Text (R299) and the tokeniser (R301) -/

/-- Ranges that the bytes after a lead byte must lie in (RFC 3629); none for a byte that leads nothing. -/
def utf8Need (b : Nat) : Option (List (Nat × Nat)) :=
  let c := (0x80, 0xBF)
  if b < 0x80 then some []
  else if decide (0xC2 ≤ b) && decide (b ≤ 0xDF) then some [c]
  else if b = 0xE0 then some [(0xA0, 0xBF), c]
  else if b = 0xED then some [(0x80, 0x9F), c]
  else if decide (0xE1 ≤ b) && decide (b ≤ 0xEF) then some [c, c]
  else if b = 0xF0 then some [(0x90, 0xBF), c, c]
  else if decide (0xF1 ≤ b) && decide (b ≤ 0xF3) then some [c, c, c]
  else if b = 0xF4 then some [(0x80, 0x8F), c, c]
  else none

/-- How many of the following bytes fit. -/
def utf8Match : List (Nat × Nat) → Bytes → Nat
  | [], _ => 0
  | _, [] => 0
  | (lo, hi) :: r, b :: t => if decide (lo ≤ b.toNat) && decide (b.toNat ≤ hi) then 1 + utf8Match r t else 0

/-- Validated text, and whether a subpart was replaced. -/
def utf8Fix : Nat → Bytes → Bytes × Bool
  | 0, _ => ([], false)
  | _, [] => ([], false)
  | n + 1, b :: t =>
    match utf8Need b.toNat with
    | none => let (r, _) := utf8Fix n t; ([0xEF, 0xBF, 0xBD] ++ r, true)
    | some need =>
      let k := utf8Match need t
      if k = need.length then let (r, x) := utf8Fix n (t.drop k); (b :: t.take k ++ r, x)
      else let (r, _) := utf8Fix n (t.drop k); ([0xEF, 0xBF, 0xBD] ++ r, true)

/-- Class of a byte in a table image. -/
def tokCls (tab : Bytes) (b : Byte) : Nat := leAt tab (1024 + b.toNat) 1

/-- Chunks of a text: the chunk so far (reversed), the last class that is not zero (log 48). -/
def tokChunks (tab : Bytes) : Bytes → Bytes → Option Nat → List Bytes
  | [], cur, _ => if cur.isEmpty then [] else [cur.reverse]
  | b :: t, cur, last =>
    let c := tokCls tab b
    let cut := !cur.isEmpty && ((c != 0 && last.any fun l => l != c) || decide (1024 ≤ cur.length))
    let last := if c = 0 then last else some c
    if cut then cur.reverse :: tokChunks tab t [b] last else tokChunks tab t (b :: cur) last

/-- Merge entries of a table image: left, right, result, rank. -/
def tokMerges (tab : Bytes) : List (Nat × Nat × Nat × Nat) :=
  (List.range (w32At tab 1280)).map fun i =>
    let o := 1284 + 16 * i
    (w32At tab o, w32At tab (o + 4), w32At tab (o + 8), w32At tab (o + 12))

/-- The merge of a pair: rank and result. -/
def mergeFor (ms : List (Nat × Nat × Nat × Nat)) (a b : Nat) : Option (Nat × Nat) :=
  (ms.find? fun m => m.1 == a && m.2.1 == b).map fun m => (m.2.2.2, m.2.2.1)

/-- Position of the pair with the lowest rank, the leftmost among equals: rank, position, result. -/
def bestPair (ms : List (Nat × Nat × Nat × Nat)) : List Nat → Nat → Option (Nat × Nat × Nat)
  | a :: b :: t, i =>
    let r := bestPair ms (b :: t) (i + 1)
    match mergeFor ms a b, r with
    | some (k, x), some (k', i', x') => if k ≤ k' then some (k, i, x) else some (k', i', x')
    | some (k, x), none => some (k, i, x)
    | none, r => r
  | _, _ => none

/-- Merge until no pair has an entry. -/
def mergeLoop (ms : List (Nat × Nat × Nat × Nat)) : Nat → List Nat → List Nat
  | 0, l => l
  | n + 1, l =>
    match bestPair ms l 0 with
    | none => l
    | some (_, i, x) => mergeLoop ms n (l.take i ++ x :: l.drop (i + 2))

/-- Tokens of a validated text (R301). -/
def tokensOf (tab : Bytes) (text : Bytes) : List Nat :=
  let ms := tokMerges tab
  (tokChunks tab text [] none).flatMap fun c => mergeLoop ms c.length (c.map fun b => w32At tab (4 * b.toNat))

/-- The rules of R300 on a table image. -/
def vocabOk (img : Bytes) : Bool :=
  let m := w32At img 1280
  let ms := tokMerges img
  decide (1284 ≤ img.length) && decide (m + 256 ≤ 262144) && img.length == 1284 + 16 * m &&
  ((List.range 256).all fun b => decide (w32At img (4 * b) < 262144) && decide (leAt img (1024 + b) 1 ≤ 15)) &&
  (ms.all fun x => decide (x.1 < 262144) && decide (x.2.1 < 262144) && decide (x.2.2.1 < 262144)) &&
  ((ms.map fun x => x.2.2.2).eraseDups.length == ms.length)

/-! ### Images (R298, R304, R305) -/

/-- A pixel of the channel an output takes (R298). -/
def pixel (m : MediaOut) (c chan x y : Nat) : Nat :=
  let at' (k : Nat) : Nat := (m.vals.getD ((k * m.height + y) * m.width + x) 0).toNat
  if c = 3 then (if m.chans = 1 then at' 0 else at' chan)
  else if m.chans = 1 then at' 0
  else add32 (add32 (mul32 0x3E991687 (at' 0)) (mul32 0x3F1645A2 (at' 1))) (mul32 0x3DE978D5 (at' 2))

/-- Source position of an output index: first pixel, second pixel, fraction (R305). -/
def lerpAt (n m : Nat) (x : Int) : Nat × Nat × Nat :=
  let sx := sub32 (mul32 (add32 (ofInt32 x) half32) (ratio32 n m)) half32
  let sx := if key32 sx < 0 then 0 else fminmax false sx (nat32 (n - 1))
  let i := floorNat sx
  (i, min (i + 1) (n - 1), sub32 sx (nat32 i))

/-- Interpolation between two values. -/
def lerp (a b f : Nat) : Nat := add32 (mul32 a (sub32 0x3F800000 f)) (mul32 b f)

/-- The region of an image output (R304): source offset and span, grid size and first grid index, for columns and rows. -/
structure Region where
  x0 : Nat
  cw : Nat
  gw : Nat
  gx : Int
  y0 : Nat
  ch : Nat
  gh : Nat
  gy : Int
  deriving DecidableEq, Repr

/-- The region from the kind parameters, the image size and the draws (R304). -/
def regionFor (o : Bytes) (w h : Nat) (u : Nat → Nat) : Region :=
  let oh := leAt o 0xC 2
  let ow := leAt o 0xE 2
  match leAt o 9 1 with
  | 1 =>
    let rs := w32At o 0x10
    let s := min w h
    let other (side : Nat) : Nat := if side = s then rs else (rnInt (divNat32 (mul32 (nat32 side) (nat32 rs)) s)).toNat
    let gw := other w
    let gh := other h
    ⟨0, w, gw, ((gw : Int) - ow) / 2, 0, h, gh, ((gh : Int) - oh) / 2⟩
  | 2 =>
    let lg (x : Nat) : Nat := (xfn32 1 x).1
    let a := add32 (w32At o 0x14) (mul32 (sub32 (w32At o 0x18) (w32At o 0x14)) (u 0))
    let r := (xfn32 0 (add32 (lg (w32At o 0x1C)) (mul32 (sub32 (lg (w32At o 0x20)) (lg (w32At o 0x1C))) (u 1)))).1
    let area := mul32 (mul32 a (nat32 w)) (nat32 h)
    let cw := min w (rnInt (xfn32 3 (mul32 area r)).1).toNat
    let ch := min h (rnInt (xfn32 3 (div32 area r)).1).toNat
    ⟨floorNat (mul32 (u 2) (nat32 (w - cw + 1))), cw, ow, 0, floorNat (mul32 (u 3) (nat32 (h - ch + 1))), ch, oh, 0⟩
  | _ => ⟨0, w, ow, 0, 0, h, oh, 0⟩

/-- An image output: its values in FP32, channel after channel. -/
def imageVals (o : Bytes) (m : MediaOut) (draw : Nat → Nat) : List Nat :=
  let c := leAt o 8 1
  let oh := leAt o 0xC 2
  let ow := leAt o 0xE 2
  let r := regionFor o m.width m.height fun j => unitOf (draw j)
  let flip := leAt o 0xA 1 = 2 ∨ (leAt o 0xA 1 = 1 ∧ (draw 4).testBit 31 = true)
  let cols := (List.range ow).map fun x => lerpAt r.cw r.gw (r.gx + (if flip then ow - 1 - x else x : Nat))
  let rows := (List.range oh).map fun y => lerpAt r.ch r.gh (r.gy + (y : Nat))
  (List.range c).flatMap fun k => rows.flatMap fun ry => cols.map fun cx =>
    let row (y : Nat) : Nat := lerp (pixel m c k (r.x0 + cx.1) (r.y0 + y)) (pixel m c k (r.x0 + cx.2.1) (r.y0 + y)) cx.2.2
    let v := lerp (row ry.1) (row ry.2.1) ry.2.2
    mul32 (sub32 v (w32At o (0x24 + 4 * k))) (w32At o (0x30 + 4 * k))

/-! ### Audio (R297, R306, R307) -/

/-- A PCM field (R294, R297): reason 8 for a width or channel count that is not supported. -/
def pcmOf (b : Bytes) : MediaOut :=
  let bits := leAt b 0 1
  let ch := leAt b 1 1
  if !(bits == 16 || bits == 24) || ch == 0 || decide (8 < ch) then
    { reason := 8, pad := true, width := 0, height := 0, chans := 0, rate := 0, vals := [] }
  else
    let by' := bits / 8
    let n := (b.length - 8) / (by' * ch)
    let v (c i : Nat) : W32 :=
      let z := sext bits (leAt b (8 + (i * ch + c) * by') by')
      BitVec.ofNat 32 (pack32 (.fin (decide (z < 0)) z.natAbs (1 - (bits : Int)))).1
    { reason := if (b.length - 8) % (by' * ch) = 0 then 0 else 7, pad := false, width := n, height := 1, chans := ch
      rate := w32At b 4, vals := (List.range ch).flatMap fun c => (List.range n).map fun i => v c i }

/-- Samples of a channel. -/
def chanOf (m : MediaOut) (c : Nat) : List Nat := ((m.vals.drop (c * m.width)).take m.width).map (·.toNat)

/-- The mono mix (R306). -/
def monoOf (m : MediaOut) : List Nat :=
  let k := ratio32 1 m.chans
  (List.range m.width).map fun i =>
    mul32 ((List.range m.chans).foldl (fun a c => let x := (m.vals.getD (c * m.width + i) 0).toNat; if c = 0 then x else add32 a x) 0) k

/-- Elements of a list at every second place from one. -/
def everyOther {α : Type} : Bool → List α → List α
  | _, [] => []
  | true, a :: t => a :: everyOther false t
  | false, _ :: t => everyOther true t

/-- Twiddle of index k among 2^s points. -/
def twiddle (s k : Nat) : Nat × Nat :=
  let x := if k = 0 then 0 else (pack32 (.fin true (2 * k) (-(s : Int)))).1
  ((xfn32 8 x).1, (xfn32 7 x).1)

/-- The radix-2 decimation-in-time FFT of 2^s points (R307): each stage's butterflies round each operation. -/
def fft : Nat → List (Nat × Nat) → List (Nat × Nat)
  | 0, l => l
  | s + 1, l =>
    let e := fft s (everyOther true l)
    let o := fft s (everyOther false l)
    let t := ((List.range o.length).zip o).map fun p =>
      let w := twiddle (s + 1) p.1
      (sub32 (mul32 w.1 p.2.1) (mul32 w.2 p.2.2), add32 (mul32 w.1 p.2.2) (mul32 w.2 p.2.1))
    ((e.zip t).map fun p => (add32 p.1.1 p.2.1, add32 p.1.2 p.2.2)) ++
      (e.zip t).map fun p => (sub32 p.1.1 p.2.1, sub32 p.1.2 p.2.2)

/-- One frame of a log-mel output: its NMEL values. -/
def melFrame (o : Bytes) (win fb mono : List Nat) (t : Nat) : List Nat :=
  let nfft := leAt o 0x14 2
  let hop := leAt o 0x18 2
  let frame := (List.range nfft).map fun i => if i < win.length then (mul32 (mono.getD (t * hop + i) 0) (win.getD i 0), 0) else (0, 0)
  let sp := fft (Nat.log2 nfft) frame
  let nb := nfft / 2 + 1
  let p := (sp.take nb).map fun z => (fma32 z.2 z.2 (fma32 z.1 z.1 0 false false).1 false false).1
  (List.range (leAt o 0x1A 2)).map fun n =>
    let m := (p.zip ((fb.drop (n * nb)).take nb)).foldl (fun a z => (fma32 z.2 z.1 a false false).1) 0
    mul32 (xfn32 1 (fminmax true m (w32At o 0x30))).1 (w32At o 0x34)

/-- FP32 values stored in a format under RNE and SATFIN (R304). -/
def storeVals (fmt : Nat) (l : List Nat) : Bytes :=
  l.flatMap fun y => leBytes (fmtBits fmt / 8) (convert fmt y y none false true).1

end Sys2Proof.Machine
end

