-- ==== Sys2Proof/Machine/Ingest.lean ====
section
/-! DEFINITION. The ingest engines (R284–R319): the record parser, decode contexts, samples, batches. -/
namespace Sys2Proof.Machine

/-! ### Descriptors (R284–R286) -/

/-- NB. -/
def idNb (b : Bytes) : Nat := leAt b 0xC 2
/-- NBATCH. -/
def idNbatch (b : Bytes) : Nat := leAt b 0xE 2
/-- CTL. -/
def idCtl (b : Bytes) : Nat := w32At b 0x30
/-- Budget in strokes. -/
def idBudget (b : Bytes) : Nat := let n := fld (idCtl b) 21 14; if n = 0 then 4 else n
/-- NOUT. -/
def idNout (b : Bytes) : Nat := fld (idCtl b) 23 22 + 1
/-- Output descriptor. -/
def idOut (b : Bytes) (o : Nat) : Bytes := slice b (0x80 + 96 * o) 96
/-- Elements of a sample's part of an output (R286). -/
def outElems (o : Bytes) : Nat :=
  match leAt o 0 1 with
  | 0 => leAt o 8 1 * leAt o 0xC 2 * leAt o 0xE 2
  | 1 => max 1 (leAt o 8 1) * w32At o 0x10
  | 2 => leAt o 0x1A 2 * w32At o 0x10
  | 3 => w32At o 8
  | _ => leAt o 8 2
/-- Format of an output. -/
def outFmt (o : Bytes) : Nat := leAt o 1 1
/-- Bytes of a sample's part of an output. -/
def outBytes (o : Bytes) : Nat := outElems o * (fmtBits (outFmt o) / 8)
/-- VA of batch `n`. -/
def batchVa (b : Bytes) (n : Nat) : Nat := (w64At b 0x18 + n * w64At b 0x20) % 2 ^ 64
/-- VA of a sample's part of an output: slot numbered over all batches. -/
def slotVa (b : Bytes) (o slot : Nat) : Nat :=
  (batchVa b (slot / idNb b) + w32At (idOut b o) 4 + slot % idNb b * outBytes (idOut b o)) % 2 ^ 64

/-- A descriptor of a step. -/
def ingDesc (st : Step) (i : Nat) : Bytes := (progOf st).ingests.getD i []

/-- An ingest failure (R318, R319). -/
def ingFail (d : Dev) (k g desc bit code uc : Nat) : Dev :=
  failStep (recordErr d rING_ERR rING_ERRINFO bit (g + 16 * desc + 256 * code)) k code uc

/-- An access of an ingest engine fails translation. -/
def ingX (d : Dev) (k g desc : Nat) (e : XErr) (uc : Nat) : Dev := ingFail (noteX d e) k g desc 4 e.code uc

/-- Change the run of a descriptor. -/
def modIng (d : Dev) (k i : Nat) (f : IngRun → IngRun) : Dev :=
  modStep d k fun st => { st with ings := match tfind st.ings i with
    | some r => tput st.ings i (f r)
    | none => st.ings }

/-! ### The record parser (R289–R296) -/

/-- An entry of the shard list (R289). -/
def shardEntry (d : Dev) (g : Nat) (b : Bytes) (i : Nat) : Except XErr Bytes := vaRead d g ((w64At b 0 + 32 * i) % 2 ^ 64) 32

/-- Record counts of the shards. -/
def shardCounts (d : Dev) (g : Nat) (b : Bytes) : Except XErr (List Nat) :=
  match vaRead d g (w64At b 0) (32 * w32At b 8) with
  | .error e => .error e
  | .ok bs => .ok ((List.range (w32At b 8)).map fun i => w32At bs (32 * i + 0x10))

/-- The shard that holds an index, from a shard on. -/
def findShard : List Nat → Nat → Nat → Nat × Nat
  | [], _, i => (i, 0)
  | c :: t, s, i => if s < c then (i, s) else findShard t (s - c) (i + 1)

/-- Shard and record index of a sample (R289). -/
def locate (d : Dev) (g : Nat) (b : Bytes) (smp : Nat) : Except XErr (Nat × Nat) :=
  match shardCounts d g b with
  | .error e => .error e
  | .ok cs =>
    let tot := cs.foldl (· + ·) 0
    .ok (findShard cs (if tot = 0 then 0 else smp % tot) 0)

/-- Parse states past the end of a shard. -/
def parseShort : Nat := 2 ^ 64
/-- Every sample of the shard is FRAME: its stream header failed (R291). -/
def parseFrame : Nat := 2 ^ 64 + 1

/-- A parsed record is listed, and the parser moves on. -/
def addRec (d : Dev) (k desc shard idx off len reason pos next : Nat) : Dev :=
  modIng d k desc fun r => { r with recs := tput r.recs (shard * 2 ^ 32 + idx) (off, len, reason), parse := tput r.parse shard (pos, next) }

/-- The parser's position changes. -/
def setParse (d : Dev) (k desc shard pos found : Nat) : Dev := modIng d k desc fun r => { r with parse := tput r.parse shard (pos, found) }

/-- Records `a` to below `b` are lost: FRAME. -/
def loseRecs (d : Dev) (k desc shard a b off : Nat) : Dev :=
  modIng d k desc fun r => { r with recs := (List.range (b - a)).foldl (fun t i => tput t (shard * 2 ^ 32 + a + i) (off, 0, 4)) r.recs }

/-- The next offset at which a test holds, in steps. -/
def seek (step : Nat) (ok : Bytes → Bool) : Nat → Nat → Bytes → Option Nat
  | 0, _, _ => none
  | n + 1, pos, bs => if bs.isEmpty then none else if ok bs then some pos else seek step ok n (pos + step) (bs.drop step)

/-- One Cleusk record header (R292–R295). `bs` holds the shard from `pos` on; `idx` is set where an INDEX gives the place. -/
def parseClsk (d : Dev) (k desc shard nrec pos found : Nat) (indexed : Bool) (bs : Bytes) : Dev :=
  let next := fun (p : Nat) => if indexed then 0 else p
  if bs.length < 24 then setParse d k desc shard parseShort found
  else
    let h := bs.take 24
    let len := w32At h 4
    let ty := leAt h 2 1
    if recSound h && (decide (ty ≠ 0) || w32At h 8 == found) then
      if ty = 1 then setParse d k desc shard parseShort found
      else if ty = 2 then setParse d k desc shard (pos + 24 + len) found
      else if bs.length < 24 + len then setParse d k desc shard parseShort found
      else
        let body := (bs.drop 24).take len
        let reason := if w32At h 0xC != crc32c body then 3
          else match fieldsOf (body.length + 1) body with
            | none => 5
            | some l => if tagsOk l then 0 else 5
        addRec d k desc shard found (pos + 24) len reason (next (pos + 24 + len)) (found + 1)
    else if indexed then addRec d k desc shard found pos 0 4 0 (found + 1)
    else
      let d := inc32 d rING_RESYNCCNT 1
      match seek 8 (fun b => recSync b && decide (found ≤ w32At b 8)) (bs.length / 8 + 1) (pos + 8) (bs.drop 8) with
      | none => setParse d k desc shard parseShort found
      | some p =>
        let seq := min nrec (w32At (bs.drop (p - pos)) 8)
        setParse (loseRecs d k desc shard found seq pos) k desc shard p seq

/-- Bytes of the members of a ustar record from its first header on: those with the same key (R296). -/
def tarGroup (key : Bytes) : Nat → Bytes → Nat
  | 0, _ => 0
  | n + 1, b =>
    if b.length < 512 ∨ !tarOk b ∨ b.length < tarSpan b then 0
    else if !tarData b then (let r := tarGroup key n (b.drop (tarSpan b)); if r = 0 then 0 else tarSpan b + r)
    else if (tarKey (tarPath b)).1 = key then tarSpan b + tarGroup key n (b.drop (tarSpan b))
    else 0

/-- One ustar record (R296). -/
def parseTar (d : Dev) (k desc shard pos found : Nat) (indexed : Bool) (bs : Bytes) : Dev :=
  let next := fun (p : Nat) => if indexed then 0 else p
  if bs.length < 512 ∨ allZero (bs.take 1024) then setParse d k desc shard parseShort found
  else if !tarOk bs then
    if indexed then addRec d k desc shard found pos 0 4 0 (found + 1)
    else
      let d := inc32 d rING_RESYNCCNT 1
      match seek 512 tarOk (bs.length / 512 + 1) (pos + 512) (bs.drop 512) with
      | none => addRec d k desc shard found pos 0 4 parseShort (found + 1)
      | some p => addRec d k desc shard found pos 0 4 p (found + 1)
  else if !tarData bs && !indexed then
    if bs.length < tarSpan bs then setParse d k desc shard parseShort found else setParse d k desc shard (pos + tarSpan bs) found
  else
    let n := tarGroup (tarKey (tarPath bs)).1 (bs.length / 512 + 1) bs
    if n = 0 then setParse d k desc shard parseShort found
    else addRec d k desc shard found pos n 0 (next (pos + n)) (found + 1)

/-- RECORD_PARSE (R292): one record of a shard, or its stream header. -/
def recordParse (d : Dev) (k : Nat) (sp : Step) (i shard : Nat) (r : IngRun) : Dev :=
  let b := ingDesc sp i
  let g := sp.g.toNat
  let uc := unitCode 5 0
  if w32At b 8 ≤ shard then d
  else match shardEntry d g b shard with
    | .error e => ingX d k g i e uc
    | .ok se =>
      let (pos, found) := tget (0, 0) r.parse shard
      let base := w64At se 0
      let size := w64At se 8
      let nrec := w32At se 0x10
      let clsk := (w32At se 0x14).testBit 0
      let index := w64At se 0x18
      if 2 ^ 64 ≤ pos ∨ nrec ≤ found then d
      else if clsk ∧ pos = 0 ∧ found = 0 ∧ (tfind r.parse shard).isNone then
        match vaGet d g base (min 32 size) with
        | .error e => ingX d k g i e uc
        | .ok (h, d) =>
          let d := inc64 d rING_PARSEBYTES h.length
          setParse d k i shard (if size < 32 ∨ !clskOk h then parseFrame else if index = 0 then 32 else 0) 0
      else
        let place : Except XErr Nat := if index = 0 then .ok pos
          else match vaRead d g ((index + 8 * found) % 2 ^ 64) 8 with
            | .error e => .error e
            | .ok o => .ok (leNat o)
        match place with
        | .error e => ingX d k g i e uc
        | .ok p =>
          match vaGet d g ((base + p) % 2 ^ 64) (size - p) with
          | .error e => ingX d k g i e uc
          | .ok (bs, d) =>
            let d := if clsk then parseClsk d k i shard nrec p found (index != 0) bs else parseTar d k i shard p found (index != 0) bs
            match (tfind d.steps k).bind fun s => (tfind s.ings i).bind fun r => tfind r.parse shard with
            | some (q, _) => inc64 d rING_PARSEBYTES (if decide (p ≤ q) && decide (q < 2 ^ 64) then q - p else 0)
            | none => d

/-- RECORD_PARSE. -/
def execRecordParse (st : StepName) (desc : BitVec 2) (shard : W32) (s : State) : Host.Outcome State Fault Refusal :=
  run (fun d =>
    match liveStep d st with
    | none => d
    | some (k, sp) => match tfind sp.ings desc.toNat with
      | none => d
      | some r => recordParse d k sp desc.toNat shard.toNat r) s

/-- What the parser knows of a record: its place and the reason of its damage; none while it has not been reached. -/
def recordAt (r : IngRun) (shard idx : Nat) : Option (Nat × Nat × Nat) :=
  match tfind r.parse shard with
  | some (pos, found) =>
    if pos = parseFrame then some (0, 0, 4)
    else match tfind r.recs (shard * 2 ^ 32 + idx) with
      | some x => some x
      | none => if pos = parseShort ∧ found ≤ idx then some (0, 0, 0xC) else none
  | none => none

/-! ### Decode contexts (R308) -/

/-- A context holds a slot of a descriptor. -/
def slotHeld (d : Dev) (k i slot : Nat) : Bool := d.decs.any fun c => c.2.busy && c.2.step == k && c.2.desc == i && c.2.slot == slot

/-- The first slot of a descriptor that is neither final nor held. -/
def nextSlot (d : Dev) (k i n : Nat) (r : IngRun) : Option Nat :=
  (List.range n).find? fun s => (tfind r.finals s).isNone && !slotHeld d k i s

/-- Unstarted samples of a gauntlet: sample index, step, descriptor, slot. -/
def unstarted (d : Dev) (g : Nat) : List (Nat × Nat × Nat × Nat) :=
  d.steps.flatMap fun p =>
    if p.2.g.toNat ≠ g ∨ !canRun d p.1 then []
    else p.2.ings.filterMap fun r =>
      let b := ingDesc p.2 r.1
      (nextSlot d p.1 r.1 (idNb b * idNbatch b) r.2).map fun s => ((r.2.first.toNat + s) % 2 ^ 64, p.1, r.1, s)

/-- The entry of lowest sample index. -/
def lowest : List (Nat × Nat × Nat × Nat) → Option (Nat × Nat × Nat × Nat)
  | [] => none
  | a :: t => match lowest t with
    | none => some a
    | some b => if a.1 ≤ b.1 then some a else some b

/-- DECODE_CONTEXT_TAKE (R308): gauntlets in turn, each its lowest unstarted sample. -/
def execDecodeContextTake (ctx : BitVec 6) (s : State) : Host.Outcome State Fault Refusal :=
  run (fun d =>
    let fenced := d.pst.repairs.any fun r => r.kind == 9 && r.state == 2 && r.unit.toNat == 256 + ctx.toNat
    if (decOf d ctx.toNat).busy || fenced then d
    else match ((List.range 16).map fun i => (d.decTurn.toNat + 1 + i) % 16).findSome? fun g => (lowest (unstarted d g)).map fun x => (g, x) with
      | none => d
      | some (g, smp, k, i, slot) =>
        modDec { d with decTurn := BitVec.ofNat 4 g } ctx.toNat fun _ => { DecCtx.reset with
          busy := true, step := k, desc := i, slot := slot, sample := BitVec.ofNat 64 smp, g := BitVec.ofNat 4 g }) s

/-! ### Decode items (R297–R309, R313, R339) -/

/-- What an output makes of its field: values as stored bytes, valid length, truncation; or the damage. -/
structure OutRes where
  /-- reason of R312, 0 for none -/
  reason : Nat
  /-- the whole sample is padded -/
  pad : Bool
  /-- only this output is padded (MISSING) -/
  missing : Bool
  data : Bytes
  len : Nat
  trunc : Bool
  tag : Nat
  toks : Nat
  deriving DecidableEq, Repr

/-- An output with nothing wrong. -/
def OutRes.good (data : Bytes) (len : Nat) : OutRes :=
  { reason := 0, pad := false, missing := false, data := data, len := len, trunc := false, tag := 0, toks := 0 }
/-- A padded sample. -/
def OutRes.padded (reason tag : Nat) : OutRes :=
  { reason := reason, pad := true, missing := false, data := [], len := 0, trunc := false, tag := tag, toks := 0 }
/-- A missing field. -/
def OutRes.absent (tag : Nat) : OutRes :=
  { reason := 6, pad := false, missing := true, data := [], len := 0, trunc := false, tag := tag, toks := 0 }

/-- Values of an array of INT32, kept to a length and filled. -/
def intOut (o : Bytes) (vals : List Nat) (n : Nat) : OutRes :=
  let kept := vals.take n
  { OutRes.good ((kept ++ List.replicate (n - kept.length) (w32At o 0x58)).flatMap (leBytes 4)) kept.length with
    trunc := decide (n < vals.length) }

/-- The media value of a field (R294, R297). -/
def mediaOf (tag : Nat) (bytes : Bytes) (wsz frame : Nat) : MediaOut := if tag = 0x23 then pcmOf bytes else Config.media tag bytes wsz frame

/-- An image output (R298, R304, R339). -/
def imageOut (o : Bytes) (fs : List (Nat × Bytes)) (wsz : Nat) (draw : Nat → Nat) : OutRes :=
  let want := leAt o 2 2
  match fs.find? fun f => if want = 0 then f.1 == 0x10 || f.1 == 0x11 else f.1 == want with
  | none => OutRes.absent want
  | some (tag, v) =>
    if !(tag == 0x10 || tag == 0x11 || tag == 0x40) then OutRes.padded 8 tag
    else
      let frame := floorNat (mul32 (unitOf (draw 5)) (nat32 (w32At o 0x40 + 1))) + w32At o 0x3C
      let m := mediaOf tag v wsz (if tag = 0x40 then frame else 0)
      if m.reason = 6 then OutRes.absent tag
      else if m.reason ≠ 0 ∧ m.pad then OutRes.padded m.reason tag
      else { OutRes.good (storeVals (outFmt o) (imageVals o m draw)) (leAt o 0xE 2) with reason := m.reason, tag := tag }

/-- Channels that the source lacks take free values (log 49). -/
def freeWords (d : Dev) (n : Nat) : List Nat := (List.range n).map fun i => (Config.free (d.free + i)).toNat % 2 ^ 32

/-- An audio output of kind 1 or 2 (R306, R307). -/
def audioOut (d : Dev) (g : Nat) (o : Bytes) (fs : List (Nat × Bytes)) (wsz : Nat) (draw : Nat → Nat) : Except XErr OutRes :=
  let want := leAt o 2 2
  match fs.find? fun f => f.1 == want with
  | none => .ok (OutRes.absent want)
  | some (tag, v) =>
    if !(tag == 0x20 || tag == 0x21 || tag == 0x23) then .ok (OutRes.padded 8 tag)
    else
      let m := mediaOf tag v wsz 0
      if m.reason ≠ 0 ∧ m.pad then .ok (OutRes.padded m.reason tag)
      else if m.rate ≠ w32At o 0xC then .ok (OutRes.padded 0xA tag)
      else if leAt o 0 1 = 1 then
        let ns := w32At o 0x10
        let ch := leAt o 8 1
        let start := if w32At o 0x14 % 256 = 1 ∧ ns ≤ m.width then floorNat (mul32 (unitOf (draw 0)) (nat32 (m.width - ns + 1))) else 0
        let cut (l : List Nat) : List Nat := let x := (l.drop start).take ns; x ++ List.replicate (ns - x.length) 0
        let vals := if ch = 0 then cut (monoOf m)
          else (List.range ch).flatMap fun c => if c < m.chans then cut (chanOf m c) else cut (freeWords d ns)
        .ok { OutRes.good (storeVals (outFmt o) vals) (min ns (m.width - start)) with reason := m.reason, tag := tag }
      else
        match vaRead d g (w64At o 0x20) (4 * leAt o 0x16 2), vaRead d g (w64At o 0x28) (4 * (leAt o 0x1A 2 * (leAt o 0x14 2 / 2 + 1))) with
        | .ok win, .ok fb =>
          let nf := w32At o 0x10
          let mono := monoOf m
          let frames := (List.range nf).map fun t => melFrame o (words32 win) (words32 fb) mono t
          let vals := (List.range (leAt o 0x1A 2)).flatMap fun n => frames.map fun f => f.getD n 0
          let hop := leAt o 0x18 2
          .ok { OutRes.good (storeVals (outFmt o) vals) (min nf ((m.width + hop - 1) / hop)) with reason := m.reason, tag := tag }
        | .error e, _ => .error e
        | _, .error e => .error e

/-- A token output (R299–R302). -/
def tokenOut (d : Dev) (g : Nat) (o : Bytes) (fs : List (Nat × Bytes)) : OutRes :=
  let fl := leAt o 0xD 1
  let pre := fl.testBit 2
  let want := if pre then 3 else leAt o 2 2
  match fs.find? fun f => f.1 == want with
  | none => OutRes.absent want
  | some (tag, v) =>
    let (ids, bad) := if pre then (words32 v, false)
      else
        let (t, bad) := utf8Fix v.length v
        (tokensOf (tget [] (gaunt d g).toks (leAt o 0xC 1)) t, bad)
    if !pre ∧ 2 ^ 30 < v.length then OutRes.padded 9 tag
    else
      let l := (if fl.testBit 0 then [w32At o 0x10] else []) ++ ids ++ if fl.testBit 1 then [w32At o 0x14] else []
      { intOut o l (w32At o 8) with reason := if bad then 0xB else 0, tag := tag, toks := if pre then 0 else ids.length }

/-- An output of a sample. -/
def outputOf (d : Dev) (g : Nat) (o : Bytes) (fs : List (Nat × Bytes)) (wsz : Nat) (draw : Nat → Nat) : Except XErr OutRes :=
  match leAt o 0 1 with
  | 0 => .ok (imageOut o fs wsz draw)
  | 1 | 2 => audioOut d g o fs wsz draw
  | 3 => .ok (tokenOut d g o fs)
  | _ => match fs.find? fun f => f.1 == leAt o 2 2 with
    | none => .ok (OutRes.absent (leAt o 2 2))
    | some (tag, v) => .ok { intOut o (words32 v) (leAt o 8 2) with tag := tag }

/-- Padding of an output's slot (R314). -/
def padBytes (o : Bytes) : Bytes :=
  let v := w32At o 0x58
  let e := if leAt o 0 1 ≤ 2 then storeVals (outFmt o) [v] else leBytes 4 v
  (List.replicate (outElems o) e).flatten

/-- The first damage of a sample is kept (R312). -/
def noteDamage (d : Dev) (c : Nat) (reason tag out : Nat) (pad : Bool) : Dev :=
  modDec d c fun x =>
    let x := if x.reason = 0 then { x with reason := reason, ftag := tag, outNo := out } else x
    { x with pad := x.pad || pad }

/-- Fields of a sample's record. -/
def sampleFields (d : Dev) (g : Nat) (b : Bytes) (shard off len : Nat) : Except XErr (List (Nat × Bytes) × Dev) :=
  match shardEntry d g b shard with
  | .error e => .error e
  | .ok se => match vaGet d g ((w64At se 0 + off) % 2 ^ 64) len with
    | .error e => .error e
    | .ok (bs, d) => .ok (if (w32At se 0x14).testBit 0 then (fieldsOf (bs.length + 1) bs).getD [] else tarFields (bs.length / 512 + 1) bs, d)

/-- Draws of a sample. -/
def sampleDraw (d : Dev) (g : Nat) (b : Bytes) (smp : Nat) (j : Nat) : Nat := drawOf (gaunt d g).seed.toNat (w32At b 0x34) smp j

/-- The next decode item of a context: item 0 takes the record from the parser, item o + 1 makes output o (log 50). -/
def decodeItem (d : Dev) (c : Nat) (x : DecCtx) (st : Step) (r : IngRun) : Dev :=
  let k := x.step
  let g := st.g.toNat
  let b := ingDesc st x.desc
  let uc := unitCode 7 c
  match locate d g b x.sample.toNat with
  | .error e => ingX d k g x.desc e uc
  | .ok (shard, idx) =>
    match recordAt r shard idx with
    | none => d
    | some (off, len, reason) =>
      if x.item = 0 then
        (if reason = 0 then modDec d c fun x => { x with item := 1 }
        else modDec (noteDamage d c reason 0 255 true) c fun x => { x with item := idNout b + 1 })
      else
        let o := x.item - 1
        let od := idOut b o
        match sampleFields d g b shard off len with
        | .error e => ingX d k g x.desc e uc
        | .ok (fs, d) => match outputOf d g od fs (w32At b 0x40) (sampleDraw d g b x.sample.toNat) with
          | .error e => ingX d k g x.desc e uc
          | .ok res =>
            let d := { d with free := d.free + outElems od }
            if res.pad then modDec (noteDamage d c res.reason res.tag o true) c fun x => { x with item := idNout b + 1 }
            else
              let d := if res.reason = 0 then d else noteDamage d c res.reason res.tag o false
              match vaWrite d g (slotVa b o x.slot) (if res.missing then padBytes od else res.data) with
              | .error e => ingX d k g x.desc e uc
              | .ok d =>
                let d := inc64 d rING_TOKCNT res.toks
                modDec d c fun x => { x with item := x.item + 1, trunc := x.trunc || res.trunc,
                                             outv := if res.missing then x.outv else x.outv ||| 2 ^ o,
                                             lens := x.lens ++ [BitVec.ofNat 32 res.len] }

/-- A context's sample, with its step and descriptor run, while it may go on: before its budget boundary (R310). -/
def liveSample (d : Dev) (c : Nat) : Option (DecCtx × Step × IngRun) :=
  let x := decOf d c
  if !x.busy || !canRun d x.step then none
  else match tfind d.steps x.step with
    | none => none
    | some st => (tfind st.ings x.desc).map fun r => (x, st, r)

/-- The budget boundary of a sample has come (R310). -/
def overBudget (st : Step) (x : DecCtx) : Bool := decide (idBudget (ingDesc st x.desc) < x.seen)

/-- DECODE_ITEM (R309). -/
def execDecodeItem (ctx : BitVec 6) (s : State) : Host.Outcome State Fault Refusal :=
  run (fun d =>
    match liveSample d ctx.toNat with
    | none => d
    | some (x, st, r) =>
      if x.pad || overBudget st x || decide (idNout (ingDesc st x.desc) < x.item) then d
      else
        let (n, d) := freeCycles d
        decodeItem (account d st.g.toNat fun a => { a with deccyc := a.deccyc + BitVec.ofNat 64 n }) ctx.toNat x st r) s

/-! ### Samples, batches (R310, R314–R316) -/

/-- Offset that a report gives of a record: its start (R316). -/
def reportOff (d : Dev) (g : Nat) (b : Bytes) (r : IngRun) (smp : Nat) : Nat :=
  match locate d g b smp with
  | .error _ => 0
  | .ok (shard, idx) => match recordAt r shard idx, shardEntry d g b shard with
    | some (off, _, reason), .ok se => if (w32At se 0x14).testBit 0 && (reason == 0 || reason == 3 || reason == 5) then off - 24 else off
    | some (off, _, _), .error _ => off
    | none, _ => 0

/-- Padding of every output of a slot (R314). -/
def padSlot (g : Nat) (b : Bytes) (slot : Nat) : List Nat → Dev → Except XErr Dev
  | [], d => .ok d
  | o :: t, d =>
    match vaWrite d g (slotVa b o slot) (padBytes (idOut b o)) with
    | .error e => .error e
    | .ok d => padSlot g b slot t d

/-- A sample's slot becomes final: padding, slot record, counters; the context is free (R314, R315). -/
def finishSample (d : Dev) (c : Nat) (x : DecCtx) (st : Step) (r : IngRun) : Dev :=
  let k := x.step
  let g := st.g.toNat
  let b := ingDesc st x.desc
  let conc := !x.pad && decide (x.reason ≠ 0)
  let valid := !x.pad && !(conc && (idCtl b).testBit 5)
  let trunc := x.trunc && !x.pad
  let flags := b2n valid + 2 * b2n conc + 4 * b2n x.pad + 8 * b2n trunc
  let outv := if x.pad then 0 else x.outv
  let recd := leBytes 2 flags ++ leBytes 1 x.reason ++ leBytes 1 outv ++ leBytes 4 0 ++ leBytes 8 x.sample.toNat ++
    padTo 16 (if x.pad then [] else x.lens.flatMap fun l => leBytes 4 l.toNat)
  match padSlot g b x.slot (if x.pad then List.range (idNout b) else []) d with
  | .error e => ingX d k g x.desc e (unitCode 7 c)
  | .ok d => match vaWrite d g ((batchVa b (x.slot / idNb b) + w32At b 0x28 + 32 * (x.slot % idNb b)) % 2 ^ 64) recd with
    | .error e => ingX d k g x.desc e (unitCode 7 c)
    | .ok d =>
      let f : FinalSlot := { flags := flags, reason := x.reason, outv := outv, action := if x.pad then 2 else if conc then 1 else 0,
                             off := reportOff d g b r x.sample.toNat, ftag := x.ftag, out := x.outNo }
      let d := modIng d k x.desc fun r => { r with finals := tput r.finals x.slot f }
      let d := inc64 d rING_SAMPCNT 1
      let d := if conc then inc32 d rING_CONCCNT 1 else d
      let d := if x.pad then inc32 d rING_PADCNT 1 else d
      let d := if x.reason = 1 ∨ x.reason = 2 then inc32 d rING_BUDGETCNT 1 else d
      modDec d c fun _ => DecCtx.reset

/-- A sample is abandoned (R309–R311): its whole slot is padded. -/
def abandon (d : Dev) (c : Nat) (reason : Nat) : Dev :=
  match liveSample d c with
  | none => d
  | some (_, st, r) =>
    let d := modDec d c fun x => { x with reason := reason, pad := true, ftag := 0, outNo := 255 }
    finishSample d c (decOf d c) st r

/-- SAMPLE_BUDGET_EXPIRY (R310). -/
def execSampleBudgetExpiry (ctx : BitVec 6) (s : State) : Host.Outcome State Fault Refusal :=
  run (fun d =>
    match liveSample d ctx.toNat with
    | none => d
    | some (x, st, _) => if overBudget st x then abandon d ctx.toNat 2 else d) s

/-- SAMPLE_COMPLETE (R314): every output is made, before the budget boundary. -/
def execSampleComplete (ctx : BitVec 6) (s : State) : Host.Outcome State Fault Refusal :=
  run (fun d =>
    match liveSample d ctx.toNat with
    | none => d
    | some (x, st, r) =>
      if overBudget st x || decide (x.item ≤ idNout (ingDesc st x.desc)) then d else finishSample d ctx.toNat x st r) s

/-- A report record (R316). -/
def reportRec (d : Dev) (g : Nat) (b : Bytes) (first slot : Nat) (f : FinalSlot) : Bytes :=
  let smp := (first + slot) % 2 ^ 64
  let (shard, idx) := match locate d g b smp with
    | .ok x => x
    | .error _ => (0, 0)
  leBytes 8 smp ++ leBytes 8 f.off ++ leBytes 4 shard ++ leBytes 4 idx ++ leBytes 2 (slot % idNb b) ++ leBytes 1 f.reason ++
    leBytes 1 f.action ++ leBytes 2 f.ftag ++ leBytes 1 f.out ++ [0]

/-- BATCH_COMPLETE (R316): every slot is final; the status and the reports are written. -/
def execBatchComplete (st : StepName) (desc : BitVec 2) (batch : W16) (s : State) : Host.Outcome State Fault Refusal :=
  run (fun d =>
    match liveStep d st with
    | none => d
    | some (k, sp) => match tfind sp.ings desc.toNat with
      | none => d
      | some r =>
        let b := ingDesc sp desc.toNat
        let g := sp.g.toNat
        let n := batch.toNat
        let slots := (List.range (idNb b)).map fun j => (n * idNb b + j, tfind r.finals (n * idNb b + j))
        if idNbatch b ≤ n ∨ r.batches.contains n ∨ (slots.any fun x => x.2.isNone) then d
        else
          let fs := slots.filterMap fun x => x.2.map fun f => (x.1, f)
          let count (t : FinalSlot → Bool) : Nat := (fs.filter fun x => t x.2).length
          let reps := fs.filter fun x => x.2.reason != 0
          let stat := padTo 64 (leBytes 8 (r.first.toNat / idNb b + n) ++ leBytes 4 (count fun f => f.flags.testBit 0) ++
            leBytes 4 (count fun f => f.flags.testBit 1) ++ leBytes 4 (count fun f => f.flags.testBit 2) ++ leBytes 4 reps.length ++
            leBytes 8 ((r.first.toNat + n * idNb b) % 2 ^ 64) ++ leBytes 8 (d.strk.count + 1).toNat)
          match vaWrite d g ((batchVa b n + w32At b 0x2C) % 2 ^ 64) (stat ++ reps.flatMap fun x => reportRec d g b r.first.toNat x.1 x.2) with
          | .error e => ingX d k g desc.toNat e (unitCode 5 0)
          | .ok d => modIng d k desc.toNat fun r => { r with batches := r.batches ++ [n] }) s

/-- INGEST_DESCRIPTOR_COMPLETE (R287): all its batches are complete. -/
def execIngestDescriptorComplete (st : StepName) (desc : BitVec 2) (s : State) : Host.Outcome State Fault Refusal :=
  run (fun d =>
    match liveStep d st with
    | none => d
    | some (k, sp) => match tfind sp.ings desc.toNat with
      | none => d
      | some r =>
        if (List.range (idNbatch (ingDesc sp desc.toNat))).all fun n => r.batches.contains n then
          modIng d k desc.toNat fun r => { r with complete := true } else d) s

/-- A reset of a gauntlet's ingest ring or sample queue (R311): every sample with entries in it is padded with QUEUE. -/
def ingestLost (d : Dev) (g : Nat) : Dev :=
  d.decs.foldl (fun d c => if c.2.busy && c.2.g.toNat == g && decide (c.2.item ≠ 0) then abandon d c.1 0xD else d) d

end Sys2Proof.Machine
end

