-- ==== Sys2Proof/Machine/Power.lean ====
section
/-! DEFINITION. Supply, brace and thermal limits (R427–R432, R499, R504–R506), power domains (R433–R440) and PWAIT
(R442–R446). -/
namespace Sys2Proof.Machine

/-! ### Supply (R427, R431, R432) -/

/-- PWR_VIN shows the input voltage. -/
def setVin (d : Dev) (v : W16) : Dev := setReg { d with sup := { d.sup with vin := v } } rPWR_VIN v.toNat

/-- A bit of PWR_STATUS that stays set (R448; log 60). -/
def statusBit (d : Dev) (i : Nat) : Dev := setReg d rPWR_STATUS (reg d rPWR_STATUS ||| 2 ^ i)

/-- SUPPLY event (R477): VIN and condition, to the event log. -/
def supplyEvent (d : Dev) (v : W16) (cond : Nat) : Dev := event d 2 none 0 [v.toNat, cond] []

/-- OVERVOLTAGE_CUTOFF: above 64.0 V the converters go off and the module is held in reset (R427). -/
def execOvervoltageCutoff (vin : W16) (s : State) : Host.Outcome State Fault Refusal :=
  run (fun d =>
    let d := setVin d vin
    if vin.toNat ≤ 6400 then d
    else
      let d := resetModule (supplyEvent d vin 1)
      setVin { d with sup := { d.sup with ovHold := true } } vin) s

/-- OVERVOLTAGE_RELEASE: VIN has stayed below 60.0 V for 100 ms (R427). -/
def execOvervoltageRelease (vin : W16) (s : State) : Host.Outcome State Fault Refusal :=
  run (fun d =>
    let d := setVin d vin
    if vin.toNat < 6000 then { d with sup := { d.sup with ovHold := false } } else d) s

/-- OVERVOLTAGE_WARNING: above 61.0 V (R427). -/
def execOvervoltageWarning (vin : W16) (s : State) : Host.Outcome State Fault Refusal :=
  run (fun d =>
    let d := setVin d vin
    if 6100 < vin.toNat then supplyEvent (statusBit d 2) vin 2 else d) s

/-- UNDERRANGE_WARNING: between 47.0 V and 50.0 V (R427). -/
def execUnderrangeWarning (vin : W16) (s : State) : Host.Outcome State Fault Refusal :=
  run (fun d =>
    let d := setVin d vin
    if 4700 ≤ vin.toNat ∧ vin.toNat < 5000 then supplyEvent (statusBit d 1) vin 3 else d) s

/-- The lower of two voltages. -/
def lowVin (a b : W16) : W16 := if b.toNat < a.toNat then b else a

/-- The module enters brace, or a further cause joins the brace it is in (R429, R505). During PWAIT the event waits for the
wake (R446). -/
def enterBrace (d : Dev) (vin : W16) (f : Supply → Supply) : Dev :=
  if d.sup.brace then
    { d with sup := f { d.sup with minVin := lowVin d.sup.minVin vin, resumeRun := false, resumeDue := false } }
  else
    let (t, d) := timeNow d
    let d := { d with sup := f { d.sup with brace := true, minVin := vin, braceAt := t, resumeRun := false, resumeDue := false
                                            inInterval := true } }
    let d := inc32 d rPWR_BRACECNT 1
    if d.pwait.active then { d with pwait := { d.pwait with braced := true } }
    else event d 1 none 0 [vin.toNat] (allG d)

/-- BRACE_ENTRY: below 47.0 V (R429). -/
def execBraceEntry (vin : W16) (s : State) : Host.Outcome State Fault Refusal :=
  run (fun d =>
    let d := setVin d vin
    if vin.toNat < 4700 then enterBrace d vin fun u => { u with supplyCause := true } else d) s

/-- VIN_RECOVERY: a rise through 48.0 V in brace starts the 2 ms count, a fall below it ends the count (R431). -/
def execVinRecovery (vin : W16) (s : State) : Host.Outcome State Fault Refusal :=
  run (fun d =>
    let d := setVin d vin
    if !d.sup.brace then d
    else if 4800 < vin.toNat then { d with sup := { d.sup with resumeRun := true, resumeDue := false } }
    else { d with sup := { d.sup with resumeRun := false, resumeDue := false, minVin := lowVin d.sup.minVin vin } }) s

/-- RESUME_COUNT_EXPIRY: every cause has been clear for 2 ms, brace ends at the next boundary (R431, R505). -/
def execResumeCountExpiry (s : State) : Host.Outcome State Fault Refusal :=
  run (fun d =>
    if !d.sup.brace || (d.sup.supplyCause && !d.sup.resumeRun) then d
    else { d with sup := { d.sup with resumeRun := false, resumeDue := true, supplyCause := false, junction := false
                                      flow := false, inlet := false } }) s

/-- SUPPLY_RESET: below 43.0 V the MC writes SUPPLYRESET and the module is reset (R432, R459). -/
def execSupplyReset (vin : W16) (s : State) : Host.Outcome State Fault Refusal :=
  run (fun d =>
    let d := setVin d vin
    if 4300 ≤ vin.toNat then d
    else
      let d := resetModule (jrec d 6 0xFF 0 0 0)
      setVin { d with sup := { d.sup with vinOk := false } } vin) s

/-- POWER_ON_START: VIN is qualified, TIME counts from here (R427, R480). -/
def execPowerOnStart (vin : W16) (s : State) : Host.Outcome State Fault Refusal :=
  run (fun d =>
    let d := setVin d vin
    if 4800 < vin.toNat ∧ !d.sup.vinOk then
      { d with sup := { d.sup with vinOk := true }, strk := { d.strk with time := 0 } }
    else d) s

/-- EN_CLOSE: the switched converters may start (R499). -/
def execEnClose (s : State) : Host.Outcome State Fault Refusal :=
  run (fun d => { d with sup := { d.sup with enClosed := true } }) s

/-- EN_OPEN: only D113 and D114 draw current, so every switched domain loses what it holds (R434, R499). -/
def execEnOpen (s : State) : Host.Outcome State Fault Refusal :=
  run (fun d =>
    let d := resetModule d
    { d with sup := { d.sup with enClosed := false } }) s

/-- FLOW_QUALIFIED: the MC may leave B00 (R504). -/
def execFlowQualified (flow : W16) (s : State) : Host.Outcome State Fault Refusal :=
  run (fun d =>
    let d := setReg d rPWR_COOL (reg d rPWR_COOL % 2 ^ 16 + flow.toNat * 2 ^ 16)
    if 400 ≤ flow.toNat then { d with sup := { d.sup with flowOk := true } } else d) s

/-! ### Temperatures and flow (R505, R506) -/

/-- Byte of PWR_TJ that a die's reading stands in (R507; dies as R457 numbers them). -/
def tjByte (die : Nat) : Nat := min die 5

/-- Show a junction reading. -/
def setTj (d : Dev) (die v : Nat) : Dev :=
  let i := 8 * tjByte die
  let o := reg d rPWR_TJ
  setReg d rPWR_TJ (o - fld o (i + 7) i * 2 ^ i + v % 256 * 2 ^ i)

/-- A thermal cause is active. -/
def thermal (u : Supply) : Bool := u.junction || u.flow || u.inlet

/-- The entry condition of a cause (R505). -/
def thermalMet (cause : ThermalCause) (reading : Nat) : Bool :=
  match cause with
  | .junction _ => decide (100 ≤ sext 8 reading)
  | .flow => decide (reading < 300)
  | .inlet => decide (45 < sext 8 reading)

/-- The registers show a reading (R507). -/
def thermalShow (d : Dev) (cause : ThermalCause) (reading : Nat) : Dev :=
  let o := reg d rPWR_COOL
  match cause with
  | .junction die => setTj d die.toNat reading
  | .flow => setReg d rPWR_COOL (o % 2 ^ 16 + reading * 2 ^ 16)
  | .inlet => setReg d rPWR_COOL (o - o % 256 + reading % 256)

/-- Code of a cause in THERMAL, and the die of a junction cause (R477). -/
def thermalDetail (cause : ThermalCause) (reading : Nat) : List Nat :=
  match cause with
  | .junction die => [1, reading, die.toNat]
  | .flow => [2, reading]
  | .inlet => [3, reading]

/-- A cause becomes active. -/
def thermalSet (cause : ThermalCause) (u : Supply) : Supply :=
  match cause with
  | .junction _ => { u with junction := true }
  | .flow => { u with flow := true }
  | .inlet => { u with inlet := true }

/-- THERMAL_BRACE_ENTRY (R505): PWR_THMCNT counts the braces that have a thermal cause. -/
def execThermalBraceEntry (cause : ThermalCause) (reading : W16) (s : State) : Host.Outcome State Fault Refusal :=
  run (fun d =>
    let d := thermalShow d cause reading.toNat
    if !thermalMet cause reading.toNat then d
    else
      let first := !d.sup.brace || !thermal d.sup
      let d := enterBrace d d.sup.vin (thermalSet cause)
      let d := if first then inc32 d rPWR_THMCNT 1 else d
      event d 0x0C none 0 (thermalDetail cause reading.toNat) []) s

/-- THERMAL_TRIP: at 110 °C the module resets, and the journal holds THERMALRESET (R506). -/
def execThermalTrip (die : BitVec 5) (celsius : Byte) (s : State) : Host.Outcome State Fault Refusal :=
  run (fun d =>
    if sext 8 celsius.toNat < 110 then setTj d die.toNat celsius.toNat
    else
      let d := resetModule (jrec d 12 0xFF 0 0 die.toNat)
      setTj { d with sup := { d.sup with lastTrip := true } } die.toNat celsius.toNat) s

/-! ### Domains (R433–R440) -/

/-- A domain is on for every purpose; a fenced crew reads as off (R435). -/
def domOn (d : Dev) (n : Nat) : Bool := decide (113 ≤ n) || ((domOf d n).state == 0 && !(decide (n < 64) && (coxOf d n).fenced))

/-- Modes that a domain allows (R435): 0 on, 1 retention, 2 off, 3 auto. -/
def modeOk (n m : Nat) : Bool :=
  if decide (n < 64) || (decide (102 ≤ n) && decide (n ≤ 109)) then decide (m ≤ 3)
  else if n = 88 ∨ n = 89 ∨ n = 112 then decide (m ≤ 1)
  else if n ≤ 112 then decide (m ≤ 2)
  else false

/-- Engine domains that a step's descriptors name (R433, R438; log 61). -/
def stepDoms (p : Prog) : List Nat :=
  (if p.ingests.isEmpty then [] else [104, 105, 106]) ++
  (if p.ingests.any fun b => (List.range (idNout b)).any fun o => leAt (idOut b o) 2 2 == 0x40 then [102] else []) ++
  (if p.stems.isEmpty then [] else [107]) ++ (if p.embs.isEmpty then [] else [108]) ++
  (if p.disp.isEmpty then [] else [109])

/-- Steps that are admitted or suspended. -/
def loadedSteps (d : Dev) : List Step :=
  (tvals d.steps).filter fun st => st.st == .admitted || st.st == .suspended

/-- A codec session, a tokeniser table or a step holds an engine domain (R435, R437). -/
def engineUsed (d : Dev) (n : Nat) : Bool :=
  (d.steps.any fun p => (p.2.st == .admitted || p.2.st == .suspended) && (stepDoms (progOf p.2)).contains n) ||
  (n == 102 && d.sess.any fun x => x.2.isOpen && !x.2.enc) || (n == 103 && d.sess.any fun x => x.2.isOpen && x.2.enc) ||
  (n == 105 && (allG d).any fun g => !(gaunt d g).toks.isEmpty) || (n == 107 && !d.stems.isEmpty)

/-- SRAM dies that hold an extent mapped in a gauntlet's table, the LPDDR5X groups and the network: what its memory needs on (R438). -/
def memDoms (d : Dev) (g : Nat) : List Nat :=
  [98, 99, 100, 101, 112] ++ ((List.range 20).filter fun i => d.xlate.any fun p => p.1 / 4096 == g && p.2.toNat.testBit 0 &&
    fld p.2.toNat 10 8 == 2 && 5 * fld p.2.toNat 19 18 + fld p.2.toNat 17 12 / 12 == i).map (68 + ·)

/-- A crew is held by a step, or is saving, restoring or wiping. -/
def crewUsed (d : Dev) (c : Nat) : Bool :=
  let x := coxOf d c
  (loadedSteps d).any (fun st => st.crews.contains c) || x.saving || x.restoring || x.wiping ||
    (List.range 9).any fun i => (seatOf d (16 * c + i)).wiping

/-- Ports of an engine that the configuration in force enables (R254). -/
def engPortOn (d : Dev) (e : Nat) : Bool :=
  match d.fab with
  | none => false
  | some f => (List.range 4).any fun i => ((f.portmap.getD (4 * e + i) (false, 0, 0)).1)

/-- Optical engines and laser banks of the enabled ports (R438). -/
def fabDoms (d : Dev) : List Nat := ((List.range 4).filter (engPortOn d)).flatMap fun e => [90 + e, 94 + e]

/-- What a candidate needs on besides its crews (R438). A program that cannot be checked yet names no engine. -/
def candOn (d : Dev) (g : Nat) (crews : List Nat) (p : Option Prog) : Bool :=
  crews.all (fun c => domOn d (64 + c / 16)) && (memDoms d g).all (domOn d) &&
    (match p with
      | some p => (stepDoms p).all (domOn d) && (!fabUse p || (fabDoms d).all (domOn d))
      | none => true)

/-- Extents of an SRAM die: state and owner bytes (R165). -/
def dieExtents (d : Dev) (n l : Nat) : List Nat := (List.range 12).map fun i => (tget (0 : Byte) d.sown (60 * n + 12 * l + i)).toNat

/-- An admitted step belongs to a gauntlet with an extent on the SRAM die. -/
def dieUsed (d : Dev) (n l : Nat) : Bool :=
  (dieExtents d n l).any fun o => fld o 5 4 == 1 && d.steps.any fun p => p.2.st == .admitted && p.2.g.toNat == fld o 3 0

/-- Every extent of the SRAM die is free. -/
def dieFree (d : Dev) (n l : Nat) : Bool := (dieExtents d n l).all fun o => fld o 5 4 == 0

/-- A domain may leave the on state for the level `lvl` (R435), after every wipe in it (R183). D088, D089, D112 and the LPDDR5X groups leave it only in PWAIT. -/
def mayLeave (d : Dev) (n lvl : Nat) : Bool :=
  if n < 64 then !crewUsed d n
  else if n < 68 then
    let i := n - 64
    (List.range 16).all (fun c => !domOn d (16 * i + c)) && (List.range 5).all fun l => !domOn d (68 + 5 * i + l)
  else if n < 88 then
    let i := n - 68
    !dieUsed d (i / 5) (i % 5) && !(d.wipeExt.any fun x => x / 12 == i) && (lvl != 2 || dieFree d (i / 5) (i % 5))
  else if n < 90 then false
  else if n < 94 then !engPortOn d (n - 90) && !domOn d (n + 4)
  else if n < 98 then !engPortOn d (n - 94)
  else if n < 102 then false
  else if n < 110 then !engineUsed d n
  else if n < 112 then
    if d.wipeMedia then false
    else if lvl = 1 then (List.range 8).all fun i => !domOn d (102 + i)
    else (allG d).all (fun g => (gaunt d g).msram == 0 && (gaunt d g).rcpart == 0) && d.decs.all fun c => !c.2.busy
  else false

/-- The registers of a seat that a supply loss returns to reset. -/
def dropRegs (d : Dev) (a n : Nat) : Dev := { d with regs := d.regs.filter fun p => !(decide (a ≤ p.1) && decide (p.1 < a + n)) }

/-- A crew loses its contents (R434): seats and weight cache hold no gauntlet. Repairs stay. -/
def crewLose (d : Dev) (c : Nat) : Dev :=
  let d := (List.range 9).foldl (fun d i =>
    let u := 16 * c + i
    let o := seatOf d u
    let d := dropRegs (store d (.fill (seatBase u) seatSpan 0)) (seatPage u) 4096
    modSeat d u fun _ => { Seat.reset i with logical := o.logical, fenced := o.fenced, spare := o.spare }) d
  dropRegs (modCox d c fun x => { Cox.reset with fenced := x.fenced }) (coxPage c) 4096

/-- What a domain loses with its supply (R434, R435). -/
def domLose (d : Dev) (n : Nat) : Dev :=
  if n < 64 then crewLose d n
  else if 68 ≤ n ∧ n < 88 then
    let i := n - 68
    store d (.fill (stackBase + (60 * (i / 5) + 12 * (i % 5)) * 2 ^ 28) (12 * 2 ^ 28) 0)
  else if n = 110 ∨ n = 111 then store d (.fill (mediaBase + (n - 110) * 2 ^ 28) (2 ^ 28) 0)
  else d

/-- Move a domain to retention or off (R436). -/
def domLower (d : Dev) (n lvl : Nat) : Dev :=
  let d := if lvl = 2 then domLose d n else d
  inc64 (modDom d n fun x => { x with state := BitVec.ofNat 2 lvl, idle := 0, returned := false }) rPWR_CHGCNT 1

/-- Begin a domain's return (R436). -/
def domRaise (d : Dev) (n : Nat) : Dev := modDom d n fun x => { x with state := 3, returned := false }

/-- A return has ended: the domain is on (R436). -/
def domArrive (d : Dev) (n : Nat) : Dev :=
  inc64 (modDom d n fun x => { x with state := 0, idle := 0, returned := false }) rPWR_CHGCNT 1

/-- DOMAIN_RETURN_DONE: the delay of R440 has passed; the domain is on from the next boundary (R436). -/
def execDomainReturnDone (dom : DomNo) (s : State) : Host.Outcome State Fault Refusal :=
  runIf (domWf dom) (fun d => if (domOf d dom.toNat).state = 3 then modDom d dom.toNat fun x => { x with returned := true } else d) s

/-- A command that waits for an engine domain needs it as a held candidate does: TOKLOAD the tokeniser's, VSOPEN the codec's that
its descriptor names (R437, R438; log 161). -/
def cmdNeeds (d : Dev) (n : Nat) : Bool :=
  d.bnds.any fun w =>
    (w.op == 0x48 && n == 105) ||
    (w.op == 0x49 && (match vaRead d w.g.toNat w.cmd.p0.toNat 1 with
      | .ok b => n == 102 + leAt b 0 1
      | .error _ => false))

/-- A domain in auto mode is needed (R437). A candidate counts by its latest hold. -/
def domNeeded (d : Dev) (n : Nat) : Bool :=
  if n < 64 then
    (loadedSteps d).any (fun st => st.crews.contains n) ||
      d.steps.any fun p => p.2.st == .queued && p.2.hold != 0 && p.2.p1.toNat.testBit n
  else engineUsed d n || cmdNeeds d n || d.steps.any fun p => p.2.st == .queued && p.2.hold != 0 && (stepDoms (progOf p.2)).contains n

/-- Idle boundaries of auto mode: 0 counts as 1 (R448). -/
def autoIdle (d : Dev) : Nat := max 1 (fld (reg d rPWR_AUTOIDLE) 7 0)

/-- An auto-mode domain that has not been needed for PWR_AUTOIDLE boundaries enters retention (R437). -/
def autoRetain (d : Dev) (n : Nat) : Dev :=
  let x := domOf d n
  if x.mode = 3 ∧ x.state = 0 ∧ autoIdle d ≤ x.idle ∧ mayLeave d n 1 ∧ !d.sup.brace then domLower d n 1 else d

/-- AUTO_IDLE_RETENTION (R437). -/
def execAutoIdleRetention (dom : DomNo) (s : State) : Host.Outcome State Fault Refusal :=
  runIf (domWf dom) (fun d => autoRetain d dom.toNat) s

/-- Boundary action 5 for one domain: auto-mode counting, and the lowering its mode asks for (R435–R437). -/
def domDown (d : Dev) (n : Nat) : Dev :=
  let x := domOf d n
  if x.mode = 3 then
    autoRetain (modDom d n fun x => { x with idle := if domNeeded d n then 0 else x.idle + 1 }) n
  else if (x.mode = 1 ∧ x.state = 0) ∨ (x.mode = 2 ∧ (x.state = 0 ∨ x.state = 1)) then
    if mayLeave d n x.mode.toNat then domLower d n x.mode.toNat else d
  else d

/-- Boundary action 7 for one domain: returns begin (R436, R437). -/
def domUp (d : Dev) (n : Nat) : Dev :=
  let x := domOf d n
  if (x.state = 1 ∨ x.state = 2) ∧ ((x.mode = 0) ∨ (x.mode = 1 ∧ x.state = 2) ∨ (x.mode = 3 ∧ domNeeded d n)) then domRaise d n
  else d

/-- Domains whose return delay has passed are on from this boundary (R436). -/
def domArrivals (d : Dev) : Dev :=
  (List.range 113).foldl (fun d n => if (domOf d n).state = 3 ∧ (domOf d n).returned then domArrive d n else d) d

/-- A mode change waits for its condition (R435, MODEPEND). -/
def modePend (d : Dev) : Bool :=
  (List.range 113).any fun n =>
    let x := domOf d n
    (x.mode == 1 && x.state == 0) || (x.mode == 2 && (x.state == 0 || x.state == 1))

/-! ### Wake (R443–R446) -/

/-- The records of the intervals that ended during PWAIT, with zero counts (R446; log 59). -/
def lateRecords (d : Dev) : Dev :=
  d.pwait.late.foldl (fun d x =>
    let d := exportInterval d x.1 x.2.1 x.2.2 fun _ => Acct.reset
    newInterval d fun g => (gaunt d g).acct) d

/-- LPDDR5X extents go to state 2 when the groups return from off (R435). -/
def dramZero (d : Dev) : Dev :=
  let held := if d.opt1T then 1016 else 2040
  { store (store d (.fill lpBase (2 ^ 41) 0)) (.fill acctBase (2 ^ 27) 0) with
    lown := (List.range held).foldl (fun t e => tset (0 : Byte) t e 0x20) d.lown, acctN := [] }

/-- The module wakes from PWAIT (R445): domains return, late records are written, the source is recorded. The command
processor runs on; the LPDDR5X groups and D089 end their returns by rows of their own (log 7). -/
def wakeNow (d : Dev) (code : Nat) : Dev :=
  let p := d.pwait
  let d := setReg (setReg d rPWR_LASTWAKE (code + 16 * b2n p.deep)) rPWR_WAKESTROKE d.strk.count.toNat
  let d := domArrive (domArrive d 112) 88
  let d := if p.deep then [98, 99, 100, 101, 89].foldl (fun d n => if (domOf d n).state = 0 then d else domRaise d n) d else d
  let d := if p.deep && p.dramoff then dramZero d else d
  let d := lateRecords { d with actSent := [] }
  let d := if p.braced then event d 1 none 0 [d.sup.minVin.toNat] (allG d) else d
  { d with pwait := { p with active := false, deep := false, dramoff := false, strokes := 0, late := [], braced := false, wake := 0 } }

/-- A wake source (R445); brace defers the wake (R446). -/
def wakeBy (d : Dev) (code : Nat) : Dev :=
  if !d.pwait.active then d
  else if code = 2 ∧ d.pwait.deep then d
  else if d.sup.brace then
    if d.pwait.wake = 0 then { d with pwait := { d.pwait with wake := code } } else d
  else wakeNow d code

/-- SMBUS_WAKE_MATCH: the address phase matches PWR_WAKEADDR with WAKEEN set (R444). -/
def execSmbusWakeMatch (addr : BitVec 7) (s : State) : Host.Outcome State Fault Refusal :=
  run (fun d =>
    let w := reg d rPWR_WAKEADDR
    if w.testBit 7 && fld w 6 0 == addr.toNat then wakeBy d 1 else d) s

/-- MC_WAKE_REQUEST (R445). -/
def execMcWakeRequest (s : State) : Host.Outcome State Fault Refusal := run (fun d => wakeBy d 3) s

/-- WAKE_TIMER_EXPIRY: PWR_WTIMER strokes have passed since PWAIT (R445). -/
def execWakeTimerExpiry (s : State) : Host.Outcome State Fault Refusal :=
  run (fun d =>
    let t := reg d rPWR_WTIMER
    if t ≠ 0 ∧ t ≤ d.pwait.strokes then wakeBy d 4 else d) s

end Sys2Proof.Machine
end

