-- ==== Sys2Proof/Machine/Stem.lean ====
section
/-! DEFINITION. The stem engine (R197–R203). -/
namespace Sys2Proof.Machine

/-- A stem descriptor of a step. -/
def stemDesc (p : Prog) (i : Nat) : Bytes := p.stems.getD i []
/-- CTL. -/
def smCtl (b : Bytes) : Nat := w32At b 0x28
/-- GEOM. -/
def smGeom (b : Bytes) : Nat := w32At b 0x3C
/-- FH and FW. -/
def smFilter (b : Bytes) : Nat × Nat := (fld (smGeom b) 7 4, fld (smGeom b) 3 0)
/-- Products of an output element: CIN × FH × FW. -/
def smK (b : Bytes) : Nat := leAt b 0x2C 2 * (smFilter b).1 * (smFilter b).2
/-- Output rows in all. -/
def smRows (b : Bytes) : Nat := w32At b 0x38 * leAt b 0x34 2
/-- IOD cycles per output position (R197). -/
def smCost (b : Bytes) : Nat :=
  if (smCtl b).testBit 0 then (smK b + 511) / 512 else (leAt b 0x2E 2 + 63) / 64 * ((smK b + 127) / 128)

/-- A stem failure: STEM_ERR, STEM_ERRINFO (R203). -/
def stemFail (d : Dev) (k slot bit code : Nat) : Dev :=
  let d := { d with stems := match tfind d.stems slot with
    | some (a, b, c, s, _) => tput d.stems slot (a, b, c, s, true)
    | none => d.stems }
  failStep (recordErr d rSTEM_ERR rSTEM_ERRINFO bit (slot + 256 * code)) k code (unitCode 5 4)

/-- The ingest descriptor whose output feeds a stem descriptor (R199, CTL of R284). -/
def stemFeed (p : Prog) (i : Nat) : Option Nat :=
  p.ingests.findIdx? fun b => (idCtl b).testBit 24 && fld (idCtl b) 28 27 == i

/-- Where the input map of an image lies: VA, elements per row and per plane; none while the augment unit has not
delivered the sample (R199). -/
def stemSource (st : Step) (i n : Nat) : Option (Nat × Nat × Nat) :=
  let p := progOf st
  let b := stemDesc p i
  if !(smCtl b).testBit 1 then some ((w64At b 0 + n * w32At b 0x58 * 2) % 2 ^ 64, w32At b 0x44, w32At b 0x48)
  else match stemFeed p i with
    | none => none
    | some f => match tfind st.ings f with
      | none => none
      | some r =>
        let ib := ingDesc st f
        if (tfind r.finals n).isSome then
          some (slotVa ib (fld (idCtl ib) 26 25) n, leAt b 0x32 2, leAt b 0x32 2 * leAt b 0x30 2)
        else none

/-- Input elements that an output row reads: by channel, tap row and column (R198, R200). -/
def stemLine (d : Dev) (g : Nat) (b : Bytes) (src : Nat × Nat × Nat) (ic : Nat) (iy : Int) : Except XErr (List Nat × Dev) :=
  let w := leAt b 0x32 2
  if iy < 0 ∨ (leAt b 0x30 2 : Int) ≤ iy then .ok ([], d)
  else match vaGet d g ((src.1 + (ic * src.2.2 + iy.toNat * src.2.1) * 2) % 2 ^ 64) (w * 2) with
    | .error e => .error e
    | .ok (bs, d) => .ok ((List.range w).map fun x => leAt bs (2 * x) 2, d)

/-- The lines that an output row reads, by ic × FH + ty; a line outside the plane is empty. -/
def stemLines (g : Nat) (b : Bytes) (src : Nat × Nat × Nat) (oy : Nat) : List Nat → Dev → Except XErr (List (List Nat) × Dev)
  | [], d => .ok ([], d)
  | j :: t, d =>
    let fh := (smFilter b).1
    let iy : Int := (oy * fld (smGeom b) 15 12 + j % fh * fld (smGeom b) 23 20 : Nat) - (fld (w32At b 0x40) 7 0 : Nat)
    match stemLine d g b src (j / fh) iy with
    | .error e => .error e
    | .ok (l, d) => match stemLines g b src oy t d with
      | .error e => .error e
      | .ok (ls, d) => .ok (l :: ls, d)

/-- The input at tap k of an output column: PADV outside the plane. -/
def stemIn (b : Bytes) (lines : List (List Nat)) (ox k : Nat) : Nat :=
  let fw := (smFilter b).2
  let ix : Int := (ox * fld (smGeom b) 11 8 + k % fw * fld (smGeom b) 19 16 : Nat) - (fld (w32At b 0x40) 15 8 : Nat)
  let line := lines.getD (k / fw) []
  if ix < 0 then fld (w32At b 0x40) 31 16 else line.getD ix.toNat (fld (w32At b 0x40) 31 16)

/-- Sum of the products of an output element in k-blocks of 64 (R55, R200). -/
def stemSum (wrow : List Nat) (inp : Nat → Nat) (kk : Nat) : Nat → Nat → Nat → Nat
  | 0, _, acc => acc
  | n + 1, k, acc =>
    let m := min 64 (kk - k)
    let ab := (List.range m).map fun i => (elemVal 1 (wrow.getD (k + i) 0), elemVal 1 (inp (k + i)))
    stemSum wrow inp kk n (k + 64) (accBlockF acc ab).1

/-- One output channel of a row: its elements y with their indices (R200). -/
def stemChan (b : Bytes) (lines : List (List Nat)) (wrow : List Nat) (bias : Option Nat) (n oc oy : Nat) : List (Nat × Nat) :=
  let oh := leAt b 0x34 2
  let ow := leAt b 0x36 2
  (List.range ow).map fun ox =>
    let y := stemSum wrow (stemIn b lines ox) (smK b) ((smK b + 63) / 64) 0 0
    let y := match bias with
      | some v => add32 y v
      | none => y
    let y := if (smCtl b).testBit 2 then fminmax true y 0 else y
    (y, (((n * leAt b 0x2E 2 + oc) * oh + oy) * ow + ox) % 2 ^ 64)

/-- The channels of a row, converted and written. -/
def stemChans (g : Nat) (st : Step) (b : Bytes) (sl : ScaleSlot) (lines : List (List Nat)) (n oy : Nat) :
    List Nat → Running → Dev → Except XErr (Running × Dev)
  | [], r, d => .ok (r, d)
  | oc :: t, r, d =>
    match vaGet d g ((w64At b 8 + oc * smK b * 2) % 2 ^ 64) (smK b * 2) with
    | .error e => .error e
    | .ok (wb, d) =>
      let bias : Except XErr (Option Nat) := if w64At b 0x10 = 0 then .ok none
        else match vaRead d g ((w64At b 0x10 + 4 * oc) % 2 ^ 64) 4 with
          | .error e => .error e
          | .ok x => .ok (some (leNat x))
      match bias with
      | .error e => .error e
      | .ok bias =>
        let c := smCtl b
        let (bs, r) := convRun d st sl (c.testBit 3) (c.testBit 4) (c.testBit 5)
          (stemChan b lines ((List.range (smK b)).map fun i => leAt wb (2 * i) 2) bias n oc oy) r
        match vaWrite d g ((w64At b 0x18 + (n * w32At b 0x5C + oc * w32At b 0x50 + oy * w32At b 0x4C) * (fmtBits sl.fmt.toNat / 8)) % 2 ^ 64) bs with
        | .error e => .error e
        | .ok d => stemChans g st b sl lines n oy t r d

/-- Every band that the next row of a stem reads is published (R194). -/
def stemReady (st : Step) (i row : Nat) : Bool :=
  let p := progOf st
  (List.range p.convs.length).all fun ci =>
    let cv := p.convs.getD ci []
    if leAt cv 1 1 = 0x80 + i then bandsReady st cv ci (64 + i) row else true

/-- The next row of a slot (R200). -/
def stemRow (d : Dev) (slot k i cur : Nat) (st : Step) : Dev :=
  let p := progOf st
  let b := stemDesc p i
  let g := st.g.toNat
  let oh := leAt b 0x34 2
  if smRows b ≤ cur then d
  else if !stemReady st i cur then inc32 d rSTEM_WAITCNT 1
  else match stemSource st i (cur / oh) with
    | none => d
    | some src => match stemLines g b src (cur % oh) (List.range (leAt b 0x2C 2 * (smFilter b).1)) d with
      | .error e => stemFail (noteX d e) k slot 4 e.code
      | .ok (lines, d) =>
        let sl := recSlot p (w64At b 0x20) (fld (smCtl b) 9 6)
        match stemChans g st b sl lines (cur / oh) (cur % oh) (List.range (leAt b 0x2E 2)) Running.reset d with
        | .error e => stemFail (noteX d e) k slot 4 e.code
        | .ok (r, d) =>
          let d := engMerge d k g sl r (unitCode 5 4)
          let cyc := leAt b 0x36 2 * smCost b
          let d := account (inc64 (inc64 d rSTEM_ROWCNT 1) rSTEM_BUSY cyc) g fun a => { a with stemcyc := a.stemcyc + BitVec.ofNat 64 cyc }
          { d with stems := tput d.stems slot (k, i, cur + 1, false, false) }

/-- STEM_ROW (R200, R201). -/
def execStemRow (slot : BitVec 2) (s : State) : Host.Outcome State Fault Refusal :=
  run (fun d =>
    match tfind d.stems slot.toNat with
    | none => d
    | some (k, i, cur, susp, failed) =>
      if susp || failed || !canRun d k then d
      else match tfind d.steps k with
        | none => d
        | some st => stemRow d slot.toNat k i cur st) s

end Sys2Proof.Machine
end

