-- ==== Sys2Proof/Machine/Video.lean ====
section
/-! DEFINITION. The codec (R320–R345): sessions and their queues, pipes, frames, damage. What the published standards
say of a frame is `Config.video` and `Config.encode` (log 8). -/
namespace Sys2Proof.Machine

/-! ### Class U queues of a gauntlet (R331, R346) -/

/-- Descriptor of a gauntlet's queue by its number (log 11). -/
def findQ (d : Dev) (g qid : Nat) : Option Nat :=
  (d.queues.find? fun p => decide (128 ≤ p.1) && p.2.gnt.toNat == g && p.2.qid.toNat == qid && p.2.enable).map (·.1)

/-- Take the oldest entry of a queue: none while it is empty. -/
def qTake (d : Dev) (n : Nat) : Option (Bytes × Dev) :=
  let q := queue d n
  if occ q = 0 then none
  else some (getEntry d n q.rp, modQ d n fun q => { setRp q (q.rp + 1) with cred := { q.cred with avail := if q.cred.limit ≤ q.cred.avail then q.cred.limit else q.cred.avail + 1 } })

/-- Write an entry under a credit: none while there is no space. -/
def qPut (d : Dev) (n : Nat) (bs : Bytes) : Option Dev :=
  let q := queue d n
  if !q.enable || decide (2 ^ q.nlog.toNat ≤ occ q) then none
  else some (modQ (putEntry d n q.wp bs) n fun q => { setWp q (q.wp + 1) with cred := { q.cred with avail := q.cred.avail - 1 } })

/-! ### Sessions (R326–R331) -/

/-- CODEC of a session. -/
def vsCodec (x : VSess) : Nat := leAt x.desc 1 1
/-- CLASS live. -/
def vsLive (x : VSess) : Bool := leAt x.desc 2 1 == 1
/-- CONCEAL. -/
def vsConceal (x : VSess) : Bool := (w32At x.desc 4).testBit 4
/-- INQ, RETQ and OUTQ. -/
def vsQueue (x : VSess) (i : Nat) : Nat := leAt x.desc (0x20 + 2 * i) 2
/-- A frame-buffer descriptor of the pool. -/
def vsBuf (x : VSess) (i : Nat) : Bytes := x.pool.getD i []
/-- A pool record. -/
def vsRec (x : VSess) (i : Nat) : PoolRec := tget { state := 0, mark := 0, ltidx := 0, slots := 0, poc := 0, disp := 0 } x.recs i
/-- The free buffer of lowest index (R328). -/
def vsFree (x : VSess) : Option Nat := (List.range x.pool.length).find? fun i => (vsRec x i).state == 0

/-- Bytes of a pool record (R327). -/
def poolBytes (r : PoolRec) : Bytes :=
  [r.state, r.mark, r.ltidx, r.slots] ++ leBytes 4 r.poc.toNat ++ leBytes 8 r.disp.toNat

/-- A session stops with a status (R344, R351). -/
def vidFail (d : Dev) (n bit code : Nat) : Dev :=
  let x := sessOf d n
  let d := recordErr d rVID_ERR rVID_ERRINFO bit (x.g.toNat + n % 64 * 16 + (if 64 ≤ n then 1024 else 0) + code * 2 ^ 16)
  modSess d n fun x => { x with failed := true }

/-- An access of a session fails translation. -/
def vidX (d : Dev) (n : Nat) (e : XErr) : Dev := vidFail (noteX d e) n 4 e.code

/-- Write gauntlet memory for a session. -/
def vidWrite (d : Dev) (n va : Nat) (bs : Bytes) : Dev :=
  match vaWrite d (sessOf d n).g.toNat va bs with
  | .error e => vidX d n e
  | .ok d => d

/-- Change a pool record, in the session and in memory (R327). -/
def setRec (d : Dev) (n i : Nat) (r : PoolRec) : Dev :=
  vidWrite (modSess d n fun x => { x with recs := tput x.recs i r }) n ((w64At (sessOf d n).desc 0x10 + 16 * i) % 2 ^ 64) (poolBytes r)

/-- A codec queue fails its check: it is reset and the session fails with QPTR (R351). -/
def vidReset (d : Dev) (n q : Nat) : Dev := vidFail (forceReset d q) n 2 0x50

/-- Read a session's queue until it is empty. -/
def vidRead (n qi : Nat) (f : Dev → Bytes → Dev) : Nat → Dev → Dev
  | 0, d => d
  | k + 1, d =>
    let x := sessOf d n
    match findQ d x.g.toNat (vsQueue x qi) with
    | none => d
    | some q =>
      if !qOk (queue d q) then vidReset d n q
      else match qTake d q with
        | none => d
        | some (e, d) => vidRead n qi f k (f d e)

/-- An INQ entry (R331). -/
def takeIn (n : Nat) (d : Dev) (e : Bytes) : Dev :=
  let ty := leAt e 0 1
  let x := sessOf d n
  if ty = 2 then modSess d n fun x => { x with ended := true }
  else if ty ≠ 1 then vidFail d n 0 0x48
  else if x.enc then modSess d n fun x => { x with
    encIn := x.encIn ++ [((leAt e 1 1).testBit 0, BitVec.ofNat 64 (w64At e 8), BitVec.ofNat 64 (w64At e 0x18))] }
  else modSess d n fun x => { x with
    input := x.input ++ [(BitVec.ofNat 64 (w64At e 8), w32At e 0x10, BitVec.ofNat 64 (w64At e 0x18))] }

/-- A RETQ entry (R331). -/
def takeRet (n : Nat) (d : Dev) (e : Bytes) : Dev :=
  let ty := leAt e 0 1
  let x := sessOf d n
  let i := leAt e 1 1
  if ty = 1 ∧ !x.enc ∧ i < x.pool.length then
    let r := vsRec x i
    setRec d n i { r with state := r.state &&& 3 }
  else if ty = 2 ∧ x.enc then modSess d n fun x => { x with
    bufs := x.bufs ++ [(BitVec.ofNat 64 (w64At e 8), w32At e 0x10, 0)] }
  else vidFail d n 0 0x48

/-- Read a session's input and return queues. -/
def vidPull (d : Dev) (n : Nat) : Dev := vidRead n 0 (takeIn n) 65536 (vidRead n 1 (takeRet n) 65536 d)

/-- Bytes of the input not yet decoded, entry after entry. -/
def inputBytes (d : Dev) (x : VSess) : Except XErr Bytes :=
  x.input.foldl (fun a e => match a with
    | .error e => .error e
    | .ok bs => match vaRead d x.g.toNat e.1.toNat e.2.1 with
      | .error e => .error e
      | .ok b => .ok (bs ++ b)) (.ok [])

/-- The input without its first bytes. -/
def dropInput : List (W64 × Nat × W64) → Nat → List (W64 × Nat × W64)
  | [], _ => []
  | (a, n, p) :: t, k => if n ≤ k then dropInput t (k - n) else (a + BitVec.ofNat 64 k, n - k, p) :: t

/-- A session's next frame is ready (R333). -/
def vidReady (d : Dev) (n : Nat) : Bool :=
  let x := sessOf d n
  let room := match findQ d x.g.toNat (vsQueue x 2) with
    | some q => decide (occ (queue d q) < 2 ^ (queue d q).nlog.toNat)
    | none => false
  x.isOpen && !x.failed && !x.busy && !x.closing && room && x.due.isEmpty && (vsFree x).isSome &&
  (if x.enc then !x.encIn.isEmpty
  else match inputBytes d x with
    | .error _ => true
    | .ok bs => !bs.isEmpty && (x.ended || decide ((Config.video (vsCodec x) bs x.frames).used < bs.length)))

/-- Number the sessions that have become ready, in order (R333). -/
def markReady (d : Dev) : Dev :=
  (tkeys d.sess).foldl (fun d n =>
    let d := if (sessOf d n).isOpen then vidPull d n else d
    let r := vidReady d n
    if r && (sessOf d n).readyAt == 0 then
      modSess { d with readySeq := d.readySeq + 1 } n fun x => { x with readyAt := d.readySeq + 1 }
    else if r then d else modSess d n fun x => { x with readyAt := 0 }) d

/-! ### Delivery (R331, R332, R338) -/

/-- Add one to a status count of R338. -/
def vidCount (d : Dev) (n i : Nat) : Dev :=
  modSess d n fun x =>
    let l := (List.range 6).map fun j => x.counts.getD j 0
    { x with counts := l.set i (BitVec.ofNat 32 (satN 32 ((l.getD i 0).toNat + 1))) }

/-- Rewrite the session status block (R338). -/
def vidStatus (d : Dev) (n : Nat) : Dev :=
  let x := sessOf d n
  vidWrite d n (w64At x.desc 0x18) (padTo 64 ((List.range 6).flatMap (fun i => leBytes 4 (x.counts.getD i 0).toNat) ++ leBytes 8 x.lastDisp.toNat))

/-- Deliver the frames that are due while OUTQ has credits (R332, R343). -/
def vidDeliver (n : Nat) : Nat → Dev → Dev
  | 0, d => d
  | k + 1, d =>
    let x := sessOf d n
    match x.due, findQ d x.g.toNat (vsQueue x 2) with
    | j :: t, some q =>
      if !qOk (queue d q) then vidReset d n q
      else
        let e := tget [] x.outs j
        let e := if x.ended && x.input.isEmpty && t.isEmpty && x.outs.length == 1 then patch e 1 [BitVec.ofNat 8 (leAt e 1 1 ||| 64)] else e
        match qPut d q e with
        | none => d
        | some d =>
          let i := leAt e 0 1
          let r := vsRec (sessOf d n) i
          let d := setRec d n i { r with state := r.state ||| 4 }
          let d := vidCount (modSess d n fun x => { x with due := t, outs := tdel x.outs j, lastDisp := BitVec.ofNat 64 j }) n 0
          vidDeliver n k d
    | _, _ => d

/-! ### Frame start (R329, R333, R334) -/

/-- A session that a pipe may take a frame of: decode or encode, and live where the pipe is reserved. -/
def pipeTakes (d : Dev) (p : Nat) (x : VSess) : Bool :=
  (x.enc == decide (16 ≤ p)) && (decide (16 ≤ p) || vsLive x || decide (reg d rVID_CFG ≤ p))

/-- The session whose frame a free pipe takes: live first, earliest ready, lowest number (R333). -/
def chooseSess (d : Dev) (p : Nat) : Option Nat :=
  let l := (tkeys d.sess).filter fun n => (sessOf d n).readyAt != 0 && pipeTakes d p (sessOf d n)
  let key (n : Nat) : Nat × Nat := (b2n (!vsLive (sessOf d n)), (sessOf d n).readyAt)
  (sortBy (fun a b => decide ((key a).1 < (key b).1) || ((key a).1 == (key b).1 && decide ((key a).2 ≤ (key b).2))) l).head?

/-- A frame that is not delivered: it is counted (R337). -/
def vidDiscard (d : Dev) (n : Nat) (o : VideoOut) (hdr : Bool) : Dev :=
  vidStatus (vidCount (modSess d n fun x => { x with
    input := dropInput x.input (max 1 o.used), frames := x.frames + 1, discont := x.discont || hdr, readyAt := 0 }) n 3) n

/-- Sample bytes of a frame. -/
def vidSs (o : VideoOut) : Nat := if o.ten then 2 else 1

/-- The pool holds a coded picture (R329). -/
def poolHolds (x : VSess) (o : VideoOut) : Bool :=
  decide (o.dpb + 1 ≤ x.pool.length) && x.pool.all fun b =>
    decide (o.width ≤ leAt b 0x28 2) && decide (o.height ≤ leAt b 0x2A 2) && leAt b 0x2C 1 == b2n o.ten

/-- A decode pipe takes the next frame of a session. -/
def decodeStart (d : Dev) (p n : Nat) : Dev :=
  let x := sessOf d n
  match inputBytes d x with
  | .error e => vidX d n e
  | .ok bs =>
    let o := Config.video (vsCodec x) bs x.frames
    if o.damage = 2 then vidDiscard d n o true
    else if x.discont && !o.key then vidDiscard d n o false
    else if o.key && !poolHolds x o then vidFail d n 1 0x49
    else match vsFree x with
      | none => d
      | some i =>
        let b := vsBuf x i
        let small := decide (leAt b 0x28 2 < o.width) || decide (leAt b 0x2A 2 < o.height)
        let flags := (if o.damage = 1 then 1 else 0) + (if x.taint && !o.key then 2 else 0) + (if x.discont then 4 else 0) + (if o.grain then 32 else 0)
        let d := setRec d n i { state := 1, mark := 0, ltidx := 0, slots := 0, poc := o.poc, disp := BitVec.ofNat 64 o.disp }
        let d := modSess d n fun x => { x with
          busy := true, readyAt := 0, discont := false, taint := x.taint && !o.key, frames := x.frames + 1
          input := dropInput x.input (max 1 o.used) }
        modPipe d p fun _ => { Pipe.reset with
          busy := true, live := vsLive x, g := x.g, sess := n, buf := i, out := some o
          row := if small ∨ o.reason ≠ 0 ∧ o.damage = 0 then o.height else 0
          flags := BitVec.ofNat 8 flags, reason := if small then 9 else o.reason, pts := (x.input.head?.map (·.2.2)).getD 0 }

/-- An encode pipe takes the next frame of a session. -/
def encodeStart (d : Dev) (p n : Nat) : Dev :=
  let x := sessOf d n
  match x.encIn, vsFree x with
  | (fi, va, pts) :: t, some i =>
    let d := setRec d n i { state := 1, mark := 0, ltidx := 0, slots := 0, poc := BitVec.ofNat 32 x.frames, disp := BitVec.ofNat 64 x.frames }
    let d := modSess d n fun x => { x with busy := true, readyAt := 0, encIn := t }
    modPipe d p fun _ => { Pipe.reset with
      busy := true, live := vsLive x, g := x.g, sess := n, buf := i, enc := (fi, va), pts := pts }
  | _, _ => d

/-- VIDEO_FRAME_START (R333). -/
def execVideoFrameStart (pipe : PipeNo) (s : State) : Host.Outcome State Fault Refusal :=
  runIf (pipeWf pipe) (fun d =>
    let p := pipe.toNat
    if (pipeOf d p).busy || (pipeOf d p).fenced then d
    else
      let d := markReady d
      match chooseSess d p with
      | none => d
      | some n => if 16 ≤ p then encodeStart d p n else decodeStart d p n) s

/-! ### Block rows (R323–R325, R335–R337) -/

/-- One line of a plane goes to its buffer: answers false where it would reach past the allotment (R336). -/
def putLine (d : Dev) (n base size pitch y : Nat) (bs : Bytes) : Dev × Bool :=
  if size < y * pitch + bs.length then (d, false) else (vidWrite d n ((base + y * pitch) % 2 ^ 64) bs, true)

/-- Lines from `y` on of a frame, luma and chroma. -/
def putLines (n : Nat) (b : Bytes) (w : Nat) (luma chroma : Bytes) : Nat → Nat → Dev → Dev × Bool
  | 0, _, d => (d, true)
  | k + 1, y, d =>
    let pitch := w32At b 0x24
    let (d, ok) := putLine d n (w64At b 0) (w32At b 0x18) pitch y (slice luma (y * w) w)
    let (d, ok2) := if y % 2 = 0 ∧ w64At b 8 ≠ 0 then putLine d n (w64At b 8) (w32At b 0x1C) pitch (y / 2) (slice chroma (y / 2 * w) w) else (d, true)
    if ok && ok2 then putLines n b w luma chroma k (y + 1) d else (d, false)

/-- Samples that stand in for damaged rows: the co-located ones of the most recent short-term reference, or mid-grey
(R337). -/
def standIn (d : Dev) (x : VSess) (o : VideoOut) : Bytes × Bytes :=
  let w := o.width * vidSs o
  match x.lastRef with
  | some i =>
    let b := vsBuf x i
    let line (base y : Nat) : Bytes := match vaRead d x.g.toNat ((base + y * w32At b 0x24) % 2 ^ 64) w with
      | .ok l => l
      | .error _ => []
    ((List.range o.height).flatMap fun y => padTo w (line (w64At b 0) y),
     (List.range ((o.height + 1) / 2)).flatMap fun y => padTo w (line (w64At b 8) y))
  | none =>
    let grey (k : Nat) : Bytes := if o.ten then (List.replicate k (leBytes 2 512)).flatten else List.replicate k 128
    (grey (o.width * o.height), grey (o.width * ((o.height + 1) / 2)))

/-- The remaining block rows of a pipe's frame are handled as damaged (R335–R337). -/
def concealRest (d : Dev) (p reason flag : Nat) : Dev :=
  let x := pipeOf d p
  match x.out with
  | none => d
  | some o =>
    let s := sessOf d x.sess
    let (l, c) := standIn d s o
    let y := x.row * o.rowLines
    let (d, _) := if vsConceal s then putLines x.sess (vsBuf s x.buf) (o.width * vidSs o) l c (o.height - y) y d else (d, true)
    modPipe d p fun x => { x with row := max x.row o.height, flags := x.flags ||| BitVec.ofNat 8 (1 + flag)
                                  reason := if x.reason = 0 then reason else x.reason }

/-- VIDEO_BLOCK_ROW_ITEM (R325): a run of block rows of the pipe's frame. -/
def execVideoBlockRowItem (pipe : PipeNo) (rows : W16) (s : State) : Host.Outcome State Fault Refusal :=
  runIf (pipeWf pipe) (fun d =>
    let p := pipe.toNat
    let x := pipeOf d p
    if !x.busy || x.fenced then d
    else match x.out with
      | none => modPipe d p fun x => { x with row := x.row + rows.toNat }
      | some o =>
        let y := x.row * o.rowLines
        if o.height ≤ y then d
        else
          let k := min (rows.toNat * o.rowLines) (o.height - y)
          let sx := sessOf d x.sess
          let (d, ok) := putLines x.sess (vsBuf sx x.buf) (o.width * vidSs o) o.luma o.chroma k y d
          if ok then modPipe d p fun x => { x with row := x.row + rows.toNat }
          else concealRest (vidCount (inc32 d rVID_BOUNDCNT 1) x.sess 5) p 9 16) s

/-- VIDEO_WATCHDOG (R335). -/
def execVideoWatchdog (pipe : PipeNo) (s : State) : Host.Outcome State Fault Refusal :=
  runIf (pipeWf pipe) (fun d =>
    let p := pipe.toNat
    let x := pipeOf d p
    if !x.busy || x.out.isNone then d
    else concealRest (vidCount (inc32 d rVID_WDOGCNT 1) x.sess 4) p 7 8) s

/-! ### Frame end (R324, R331, R332, R343) -/

/-- A closed session: its number is free, its buffers released, and its VSCLOSE answered (R343, R377). -/
def vidClose (d : Dev) (n : Nat) : Dev :=
  let ws := d.waits.filter fun w => w.op == 0x4A && w.key == n
  let d := { d with sess := tdel d.sess n, waits := d.waits.filter fun w => !(w.op == 0x4A && w.key == n) }
  ws.foldl (fun d w => replyOk d w.cmd 0x4A 0 0) d

/-- A pipe's cycles go on the account (R404), and it is free. -/
def pipeFree (d : Dev) (p : Nat) : Dev :=
  let x := pipeOf d p
  let (c, d) := freeCycles d
  let d := account (inc64 d rVID_BUSY c) x.g.toNat fun a => { a with vidcyc := a.vidcyc + BitVec.ofNat 64 c }
  modPipe (modSess d x.sess fun s => { s with busy := false }) p fun y => { Pipe.reset with g := y.g, fenced := y.fenced }

/-- Reference marking after a frame (R328). -/
def markRefs (d : Dev) (n : Nat) (refs : List (Nat × Byte × Byte × Byte)) : Dev :=
  (List.range (sessOf d n).pool.length).foldl (fun d i =>
    let r := vsRec (sessOf d n) i
    if r.state = 0 then d
    else
      let r' := match refs.find? fun f => f.1 == r.disp.toNat with
        | some (_, m, l, s) => { r with state := (r.state &&& 4) ||| 2, mark := m, ltidx := l, slots := s }
        | none => { r with state := r.state &&& 4, mark := 0, ltidx := 0, slots := 0 }
      if r' = r then d else setRec d n i r') d

/-- Free bytes: contents that a standard leaves to the decoder (log 56). -/
def freeBytes (d : Dev) (n : Nat) : Bytes × Dev := ((List.range n).map fun i => Config.freeByte (d.free + i), { d with free := d.free + n })

/-- The end of a decode session's frame: records, delivery, status. -/
def publishFrame (d : Dev) (p : Nat) (x : Pipe) (o : VideoOut) : Dev :=
  let n := x.sess
  let s := sessOf d n
  let b := vsBuf s x.buf
  let conc := x.flags.getLsbD 0
  let bad := conc || decide (x.reason ≠ 0)
  let entry := leBytes 1 x.buf ++ [x.flags] ++ leBytes 1 x.reason ++ [0] ++ leBytes 2 o.dispW ++ leBytes 2 o.dispH ++ leBytes 8 o.disp ++
    leBytes 8 x.pts.toNat ++ leBytes 2 o.cropX ++ leBytes 2 o.cropY ++ leBytes 4 0
  let (side, d) := freeBytes d (min (w32At b 0x20) (32 * ((leAt b 0x28 2 + 15) / 16) * ((leAt b 0x2A 2 + 15) / 16) + 65536))
  let d := if w64At b 0x10 = 0 then d else vidWrite d n (w64At b 0x10) side
  let drop := bad && !vsConceal s
  let d := modSess d n fun s => { s with
    outs := if drop then s.outs else tput s.outs o.disp entry, taint := s.taint || conc
    lastRef := if o.refs.any fun r => r.1 == o.disp && r.2.1 == 1 then some x.buf else s.lastRef }
  let d := inc64 d rVID_FRAMECNT 1
  let d := if conc then vidCount (inc32 d rVID_CONCCNT 1) n 1 else d
  let d := if x.flags.getLsbD 1 then vidCount d n 2 else d
  let d := if drop then vidCount d n 3 else d
  let d := markRefs d n o.refs
  let s := sessOf d n
  let due := if s.ended && s.input.isEmpty then tkeys s.outs else o.deliver.filter fun j => (tfind s.outs j).isSome
  let d := vidDeliver n 64 (modSess d n fun s => { s with due := s.due ++ due.filter fun j => !s.due.contains j })
  vidStatus (pipeFree d p) n

/-- VIDEO_FRAME_PUBLISH (R324). -/
def execVideoFramePublish (pipe : PipeNo) (s : State) : Host.Outcome State Fault Refusal :=
  runIf (pipeWf pipe) (fun d =>
    let p := pipe.toNat
    let x := pipeOf d p
    if !x.busy || x.fenced then d
    else match x.out with
      | none => d
      | some o =>
        if x.row * o.rowLines < o.height ∧ x.row < o.height then d
        else
          let d := publishFrame d p x o
          let d := if (sessOf d x.sess).closing then vidClose d x.sess else d
          markReady d) s

/-- Write a bitstream into the buffers supplied, oldest first: the writes, and the buffers left (R331). -/
def layBits : List (W64 × Nat × Nat) → Bytes → Option (List (Nat × Bytes) × List (W64 × Nat × Nat))
  | [], bs => if bs.isEmpty then some ([], []) else none
  | (va, n, u) :: t, bs =>
    if bs.isEmpty then some ([], (va, n, u) :: t) else
    let k := min bs.length (n - u)
    if k = bs.length ∧ u + k < n then some ([(va.toNat + u, bs)], (va, n, u + k) :: t)
    else (layBits t (bs.drop k)).map fun r => ((va.toNat + u, bs.take k) :: r.1, r.2)

/-- The samples of an encode input frame, rows of EW samples (R326). -/
def encFrame (d : Dev) (x : VSess) (b : Bytes) : Except XErr Bytes :=
  let ss := leAt b 0x2C 1 + 1
  let w := leAt x.desc 0x28 2 * ss
  let h := leAt x.desc 0x2A 2
  let lines (base k : Nat) (a : Except XErr Bytes) : Except XErr Bytes :=
    (List.range k).foldl (fun a y => match a with
      | .error e => .error e
      | .ok bs => match vaRead d x.g.toNat ((base + y * w32At b 0x24) % 2 ^ 64) w with
        | .error e => .error e
        | .ok l => .ok (bs ++ l)) a
  lines (w64At b 8) (h / 2) (lines (w64At b 0) h (.ok []))

/-- The end of an encode session's frame. -/
def emitFrame (d : Dev) (p : Nat) (x : Pipe) : Dev :=
  let n := x.sess
  let s := sessOf d n
  let g := s.g.toNat
  match vaRead d g x.enc.2.toNat 64 with
  | .error e => pipeFree (vidX d n e) p
  | .ok b => match encFrame d s b with
    | .error e => pipeFree (vidX d n e) p
    | .ok fr =>
      let gop := w32At s.desc 0x40
      let key := x.enc.1 || s.frames == 0 || (gop != 0 && s.frames % gop == 0)
      let bits := Config.encode s.desc fr s.frames x.enc.1
      match layBits s.bufs bits, findQ d g (vsQueue s 2) with
      | some (ws, left), some q =>
        let (qv, d) := freeVal d
        let qp := if leAt s.desc 0x2C 1 = 0 then leAt s.desc 0x2E 2 else qv.toNat
        let last := s.ended && s.encIn.isEmpty
        let entry := leBytes 1 (b2n key + 2 + 4 * b2n last) ++ leBytes 1 qp ++ [0, 0] ++ leBytes 4 bits.length ++
          leBytes 8 ((ws.head?.map (·.1)).getD 0) ++ leBytes 8 x.pts.toNat ++ leBytes 8 s.frames
        if !qOk (queue d q) then pipeFree (vidReset d n q) p
        else match qPut d q entry with
          | none => d
          | some d =>
            let d := ws.foldl (fun d w => vidWrite d n w.1 w.2) d
            let fb := vsBuf s x.buf
            let (rcL, d) := freeBytes d (min (w32At fb 0x18) (w32At fb 0x24 * leAt fb 0x2A 2))
            let (rcC, d) := freeBytes d (min (w32At fb 0x1C) (w32At fb 0x24 * ((leAt fb 0x2A 2 + 1) / 2)))
            let d := vidWrite (vidWrite d n (w64At fb 0) rcL) n (w64At fb 8) rcC
            let d := modSess d n fun s => { s with bufs := left, frames := s.frames + 1, lastDisp := BitVec.ofNat 64 s.frames }
            let keep := (List.range (min (leAt s.desc 0x2D 1) (s.frames + 1))).map fun i => (s.frames - i, (1 : Byte), (0 : Byte), (0 : Byte))
            let d := markRefs (vidCount d n 0) n keep
            vidStatus (pipeFree (inc64 d rVID_FRAMECNT 1) p) n
      | _, _ => d

/-- ENCODE_FRAME_EMIT (R324, R331): the whole frame is encoded. -/
def execEncodeFrameEmit (pipe : PipeNo) (s : State) : Host.Outcome State Fault Refusal :=
  runIf (pipeWf pipe) (fun d =>
    let p := pipe.toNat
    let x := pipeOf d p
    if !x.busy || x.fenced || x.out.isSome || decide (p < 16) then d
    else
      let d := if (sessOf d x.sess).isOpen then vidPull d x.sess else d
      if x.row * 64 < leAt (sessOf d x.sess).desc 0x2A 2 then d
      else
        let d := emitFrame d p x
        let d := if (sessOf d x.sess).closing && !(pipeOf d p).busy then vidClose d x.sess else d
        markReady d) s

end Sys2Proof.Machine
end

