-- ==== Sys2Proof/Machine/Queue.lean ====
section
/-! DEFINITION. The four classes of hardware queue (R346–R359): writes, gap markers, FLUSH and DROPREST, forced
resets with what follows from them. -/
namespace Sys2Proof.Machine

/-- First descriptor of the seat context queues (log 11). -/
def ctxQ0 : Nat := 1792

/-- Seat and context of a seat context queue's descriptor (log 11). -/
def ctxQueue (n : Nat) : Option (Nat × Nat) :=
  if n < ctxQ0 then none
  else some (16 * ((n - ctxQ0) / 36) + (n - ctxQ0) % 36 / 4, (n - ctxQ0) % 4)

/-- The codec session that reads or writes a queue. -/
def codecOf (d : Dev) (q : Queue) : Option Nat :=
  (d.sess.find? fun p => p.2.isOpen && p.2.g == q.gnt && (List.range 3).any fun i => vsQueue p.2 i == q.qid.toNat).map (·.1)

/-- A forced reset with what follows from it (R351): a step or session whose queue is reset fails with QPTR, the samples
of a sample queue are padded (R311). -/
def qReset (d : Dev) (n : Nat) : Dev :=
  let d' := forceReset d n
  if 80 ≤ n ∧ n < 112 then ingestLost d' (n % 16)
  else match codecOf d (queue d n) with
    | some x => if 128 ≤ n then vidFail d' x 2 0x50 else d'
    | none => d'

/-- An update of a queue's pointers: made only where the check of R348 holds, else the queue is reset. -/
def qUpdate (d : Dev) (n : Nat) (f : Dev → Dev) : Dev := if qOk (queue d n) then f d else qReset d n

/-- Append an entry: the item cut or filled to the entry size. -/
def appendEntry (d : Dev) (n : Nat) (bs : Bytes) : Dev :=
  let q := queue d n
  modQ (putEntry d n q.wp (padTo (2 ^ q.esz.toNat) bs)) n fun q => { setWp q (q.wp + 1) with written := q.written + 1 }

/-- Free entries. -/
def qFree (q : Queue) : Nat := 2 ^ q.nlog.toNat - occ q

/-- Count a dropped item (R352). -/
def countDrop (q : Queue) : Queue := { q with gaps := BitVec.ofNat 32 (satN 32 (q.gaps.toNat + 1)) }

/-- Write a gap marker that carries PENDDROP and `more` (R352, R353). -/
def writeMarker (d : Dev) (n more : Nat) : Dev :=
  let q := queue d n
  let since := if q.penddrop = 0 then d.strk.count else q.gapStroke
  let d := appendEntry d n (gapMarker (q.gapidx + 1) (q.penddrop.toNat + more) since (2 ^ q.esz.toNat))
  modQ d n fun q => { q with gapidx := q.gapidx + 1, penddrop := 0 }

/-- A writer without a credit arrives at a class L queue (R352). -/
def writeL (d : Dev) (n : Nat) (item : Bytes) : Dev :=
  let q := queue d n
  if 2 ≤ qFree q then
    appendEntry (if q.penddrop = 0 then d else writeMarker d n 0) n item
  else if qFree q = 1 then modQ (writeMarker d n 1) n countDrop
  else modQ d n fun q => countDrop { q with
    penddrop := BitVec.ofNat 32 (satN 32 (q.penddrop.toNat + 1))
    gapStroke := if q.penddrop = 0 then d.strk.count else q.gapStroke }

/-- LAST of a class D entry (R356). -/
def isLast (bs : Bytes) : Bool := (leAt bs 0 1).testBit 1

/-- Count an entry that DROPREST discards. -/
def countDisc (q : Queue) : Queue := { q with drops := BitVec.ofNat 32 (satN 32 (q.drops.toNat + 1)) }

/-- A write under a credit (R31): of the packet that DROPREST discards, the entry takes no space and its credit returns
at once (R356). -/
def writeCred (d : Dev) (n : Nat) (item : Bytes) : Dev :=
  let q := queue d n
  if q.cls = 2 ∧ q.dropping then modQ d n fun q => countDisc { q with dropping := !isLast item }
  else if q.cred.avail = 0 ∨ qFree q = 0 then d
  else modQ (appendEntry d n item) n fun q => { q with cred := { q.cred with avail := q.cred.avail - 1 } }

/-- Queues whose entries are written one by one: the others have their own writers (R359). -/
def qPlain (n : Nat) : Bool := decide (64 ≤ n) && decide (n < ctxQ0)

/-- QUEUE_WRITE_L (R352); with a credit, a write to a queue of class L, D or U (R354, R356, R357; log 54). -/
def execQueueWriteL (q : QNo) (item : Bytes) (credited : Bool) (s : State) : Host.Outcome State Fault Refusal :=
  run (fun d =>
    let n := q.toNat
    let x := queue d n
    if !qPlain n || !x.enable || x.cls == 1 then d
    else if credited then
      let d := qUpdate d n fun d => writeCred d n item
      if x.cls = 3 then markReady d else d
    else if x.cls = 0 then qUpdate d n fun d => writeL d n item else d) s

/-- A class E write to a queue in its owner's memory (R355). -/
def writeEMem (d : Dev) (n : Nat) (body : Bytes) : Dev :=
  let d := if qOk (queue d n) then d else qReset d n
  if !(queue d n).enable then d
  else
    let d := modQ d n fun q => if qFree q = 0 then
      { setRp q (q.rp + 1) with lost := BitVec.ofNat 32 (satN 32 (q.lost.toNat + 1)) } else q
    appendEntry d n (leBytes 4 (eseqOf ((queue d n).written + 1)) ++ body)

/-- QUEUE_WRITE_E (R355). -/
def execQueueWriteE (q : QNo) (body : Bytes) (s : State) : Host.Outcome State Fault Refusal :=
  run (fun d =>
    let n := q.toNat
    let x := queue d n
    if !x.enable || x.cls != 1 then d
    else
      let b := padTo (2 ^ x.esz.toNat - 4) body
      if n < 64 then (if n % 4 = 2 then pushEv d (n / 4) b else pushE d n 2 b)
      else if x.int then modQ d n fun q => rawE q b
      else writeEMem d n b) s

/-- A descriptor as its class and owner show it; a seat context queue's is computed (log 11). -/
def clsOf (d : Dev) (n : Nat) : BitVec 2 × Gnt :=
  match ctxQueue n with
  | some (u, _) => (3, (seatOf d u).gnt)
  | none => ((queue d n).cls, (queue d n).gnt)

/-- Only the reader of a queue, or G0, writes QCTL (R346). -/
def mayCtl (d : Dev) (n : Nat) : QWriter → Bool
  | .provider => true
  | .reader g _ => g == 0 || g == (clsOf d n).2

/-- An ignored FLUSH or DROPREST shows in the status of the writer's step (R346, R379). -/
def ctlIgnored (d : Dev) : QWriter → Dev
  | .reader _ (some st) => match findStep d st with
    | some k => modFl d k fun f => { f with qstat := true }
    | none => d
  | _ => d

/-- Count a flush: FGEN and FLUSHES, AVAIL back to LIMIT. -/
def countFlush (q : Queue) : Queue :=
  { q with fgen := q.fgen + 1, flushes := BitVec.ofNat 32 (satN 32 (q.flushes.toNat + 1)), cred := { q.cred with avail := q.cred.limit } }

/-- FLUSH of a class U queue (R357, R358): a queue that fails R348 is reset instead. -/
def flushQ (d : Dev) (n : Nat) : Dev :=
  match ctxQueue n with
  | some (u, c) =>
    modQ (modCtx d u c fun x => refill { x with pos := x.pos + x.queue.length, queue := [] }) n countFlush
  | none => qUpdate d n fun d => modQ d n fun q => countFlush (setRp q q.wp)

/-- The reader's side of QCTL.FLUSH. -/
def ctlFlush (d : Dev) (n : Nat) (wr : QWriter) : Dev :=
  if !mayCtl d n wr then d
  else if (clsOf d n).1 = 3 then markReady (flushQ d n) else ctlIgnored d wr

/-- FLUSH (R357). -/
def execQueueFlush (q : QNo) (wr : QWriter) (s : State) : Host.Outcome State Fault Refusal :=
  run (fun d => ctlFlush d q.toNat wr) s

/-- Discard entries from the reader's position to the packet's LAST; where it is not in the queue, what follows is
discarded as it arrives. -/
def dropPacket (n : Nat) : Nat → Dev → Dev
  | 0, d => d
  | k + 1, d =>
    let q := queue d n
    if occ q = 0 then modQ d n fun q => { q with dropping := true }
    else
      let last := isLast (getEntry d n q.rp)
      let d := modQ d n fun q => countDisc { setRp q (q.rp + 1) with
        cred := { q.cred with avail := if q.cred.limit ≤ q.cred.avail then q.cred.limit else q.cred.avail + 1 } }
      if last then d else dropPacket n k d

/-- The reader's side of QCTL.DROPREST (R356). -/
def ctlDroprest (d : Dev) (n : Nat) (wr : QWriter) : Dev :=
  if !mayCtl d n wr then d
  else if (clsOf d n).1 ≠ 2 then ctlIgnored d wr
  else if (queue d n).dropping then d
  else qUpdate d n (dropPacket n (2 ^ (queue d n).nlog.toNat + 1))

/-- DROPREST (R356). -/
def execQueueDroprest (q : QNo) (wr : QWriter) (s : State) : Host.Outcome State Fault Refusal :=
  run (fun d => ctlDroprest d q.toNat wr) s

end Sys2Proof.Machine
end

