-- ==== Sys2Proof/Machine/Steps.lean ====
section
/-! DEFINITION. The end of a step (R28, R63–R68, R218, R288, R379, R402, R476), cancellation (R44, R400), suspension, saves and
restores (R101, R396–R401). -/
namespace Sys2Proof.Machine

/-! ### Words that report a step (R379, R402) -/

/-- The flags of R379 with STROKES. -/
def flagsWord (st : Step) : Nat :=
  let f := st.fl
  b2n f.late + 2 * b2n f.nonfinite + 4 * b2n f.ovf + 8 * b2n f.accnf + 16 * b2n f.embidx + 32 * b2n f.expdrop +
    64 * b2n f.stall + 128 * b2n f.overrun + f.lstat.toNat * 256 + 2 ^ 14 * b2n f.qstat + 2 ^ 15 * b2n f.preempted +
    satN 32 st.strokes * 2 ^ 32

/-- Key of the calibration table (R402): header VA, popcount of P1, length block. -/
def calibKey (st : Step) : W64 × Nat × List W32 := (st.p0, popcount 64 st.p1.toNat, (progOf st).lens)

/-- ΣE of the table's entry for a step. -/
def calibOf (d : Dev) (st : Step) : Option Nat :=
  let (a, b, c) := calibKey st
  ((gaunt d st.g.toNat).calib.find? fun x => x.1 == a && x.2.1 == b && x.2.2.1 == c).map (·.2.2.2)

/-- STEPSTAT's RES1: SLOWDOWN, CAL and ΣE (R402). A quotient of two zeros, for which the spec states no result, is a free
value (log 4). -/
def slowWord (d : Dev) (st : Step) : Nat × Dev :=
  let (n, cal) : Nat × Bool := match calibOf d st with
    | some c => (c, true)
    | none => (st.ecyc - st.icyc, false)
  let (v, d) := freeVal d
  let s := if n = 0 then (if st.ecyc = 0 then v.toNat % 65536 else 0xFFFF) else satN 16 (st.ecyc * 256 / n)
  (s + 65536 * b2n cal + satN 32 (st.ecyc / 1024) * 2 ^ 32, d)

/-- A completed run enters the calibration table (R402): most recently used first, 64 entries. -/
def calibPut (d : Dev) (st : Step) : Dev :=
  let (a, b, c) := calibKey st
  modG d st.g.toNat fun x =>
    let old := x.calib.find? fun y => y.1 == a && y.2.1 == b && y.2.2.1 == c
    let rest := x.calib.filter fun y => !(y.1 == a && y.2.1 == b && y.2.2.1 == c)
    if st.alone then { x with calib := ((a, b, c, st.ecyc) :: rest).take 64 }
    else match old with
      | some y => { x with calib := y :: rest }
      | none => x

/-- A step-end entry after ESEQ (R476). -/
def endEntry (g stroke : Nat) (st : Step) (res slow : Nat) : Bytes :=
  let adm := st.adm.toNat
  let z (n : Nat) : Nat := if adm = 0 then 0 else n
  [2] ++ leBytes 1 g ++ [0, 0] ++ leBytes 8 stroke ++ leBytes 8 adm ++ leBytes 8 (z res) ++
    leBytes 8 (z (pStepnum (progOf st))) ++ leBytes 8 (z slow) ++
    (([st.bins.fwd, st.bins.bwd, st.bins.opt, st.bins.other, st.bins.ingw, st.bins.fabw, st.bins.red].flatMap fun v =>
      leBytes 8 (z v.toNat))) ++ List.replicate 24 0

/-! ### What a step holds (R133, R211, R511) -/

/-- A context of a seat is free again: its tiles, registers and region (R511). -/
def freeCtx (s : Seat) (c : Nat) : Seat :=
  let s := releaseTiles s c
  let s := if s.krun ∧ s.kctx.toNat = c then stopKernel s else s
  { s with ctxs := tdel s.ctxs c
           scrcfg := s.scrcfg - BitVec.ofNat 64 (fld s.scrcfg.toNat (16 * c + 15) (16 * c) * 2 ^ (16 * c)) }

/-- Contexts of a seat that hold a step. -/
def ctxsOf (s : Seat) (k : Nat) : List Nat := (List.range 4).filter fun c => (ctxOf s c).step == some k

/-- A crew forgets a step: contexts, counters, its slot. -/
def coxForget (x : Cox) (k : Nat) : Cox :=
  let mine := (x.slots.filter fun p => p.2 == k).map (·.1)
  { x with slots := x.slots.filter fun p => p.2 != k, counters := x.counters.filter fun p => !(mine.contains p.2.slot.toNat) }

/-- A step leaves a crew (R511); a cancelled step's context queues are flushed (R400). -/
def leaveCrew (k : Nat) (flush : Bool) (d : Dev) (crew : Nat) : Dev :=
  let d := (List.range 9).foldl (fun d i =>
    let u := 16 * crew + i
    (ctxsOf (seatOf d u) k).foldl (fun d c =>
      let d := modSeat d u fun s => freeCtx s c
      if flush then modQ d (ctxQ0 + 36 * crew + 4 * i + c) countFlush else d) d) d
  modCox d crew fun x => coxForget x k

/-- Free every save slot of a crew block that no step uses any longer (R399). -/
def dropSaves (d : Dev) (g k : Nat) : Dev :=
  let hit := d.saves.filter fun p => p.1 / 64 == g && (match p.2.2 with
    | some n => (tget ⟨0, 0, Cox.reset, [], []⟩ d.blocks n).cox.slots.any fun q => q.2 == k
    | none => false)
  hit.foldl (fun d p => match p.2.2 with
    | some n =>
      let b := tget ⟨0, 0, Cox.reset, [], []⟩ d.blocks n
      let others := b.cox.slots.any fun q => q.2 != k && (tfind d.steps q.2).any fun st => st.st == .suspended
      if others then d else { d with saves := tdel d.saves p.1 }
    | none => d) d

/-- Tables that a step walks, each once, with the generation captured (R211). -/
def walked (p : Prog) : List (Nat × Nat) :=
  (p.capt.filter fun x => decide (x.1 < 16)).foldl (fun a x =>
    let t := wkTab (walkOf p x.1)
    if a.any fun y => y.1 == t then a else a ++ [(t, x.2.1.toNat)]) []

/-- Everything but the crews and the step's own record goes back: walkers retire (R211), PEND clears, staging frames (R225),
stem slots (R201), decode contexts (R308), shared counters, save slots. -/
def leaveEngines (d : Dev) (k : Nat) (st : Step) : Dev :=
  let p := progOf st
  let g := st.g.toNat
  let d := (walked p).foldl (fun d x => kvRetire d x.1 x.2) d
  let d := (appends p).foldl (fun d x => modKv d x.1 fun r => { r with pend := 0 }) d
  let d := if st.staging.isEmpty then d else freeFrames d g (st.staging.map fun f => (false, f))
  let d := { d with stems := d.stems.filter fun s => s.2.1 != k }
  let d := { d with decs := d.decs.filter fun c => !(c.2.busy && c.2.step == k) }
  let d := { d with dies := tmap (fun _ t => t.filter fun p => p.1 / 64 != k) d.dies }
  dropSaves d g k

/-! ### The end (R379) -/

/-- Write the reply to SUBMIT (R379). -/
def submitReply (d : Dev) (st : Step) (status code res : Nat) : Dev :=
  let d := if code = 0 then d else noteCode d st.fn.toNat 0x28 code
  postReply d st.fn.toNat
    { tag := st.tag, status := BitVec.ofNat 8 status, reason := BitVec.ofNat 8 code, opcode := 0x28, res0 := st.adm
      res1 := BitVec.ofNat 64 res, stroke := d.strk.count } (st.flags8.toNat.testBit 0)

/-- A step ends: what it held goes back, its reply and its step-end entry are written, its report is kept (R379, R402,
R476). -/
def endStep (d : Dev) (k status code : Nat) (cancelled : Bool) : Dev :=
  match tfind d.steps k with
  | none => d
  | some st =>
    let g := st.g.toNat
    let live := st.st = .admitted ∨ st.st = .suspended
    let d := if status = 2 ∧ live then sendAborts d st code else d
    let d := if live then leaveEngines (st.crews.foldl (leaveCrew k cancelled) d) k st else d
    let res := flagsWord st
    let (slow, d) := if st.adm = 0 then (0, d) else slowWord d st
    let d := if status = 0 then calibPut d st else d
    let d := modG d g fun x => { x with
      kept := if st.adm = 0 then x.kept else ((st.adm, BitVec.ofNat 64 slow) :: x.kept).take 256
      telPend := if x.telCfg.toNat.testBit 1 then x.telPend ++ [endEntry g d.strk.count.toNat st res slow] else x.telPend
      acct := if cancelled then { x.acct with cancels := x.acct.cancels + 1 } else x.acct }
    submitReply { d with steps := tdel d.steps k } st status code res

/-- A step is cancelled (R400): CANCELLED, 0x5F. -/
def cancelStep (d : Dev) (k : Nat) : Dev := endStep d k 2 0x5F true

/-! ### Completion (R28, R38 action 3) -/

/-- Summary items of a step that are still to do (R209). -/
def sumsLeft (d : Dev) (st : Step) : Bool :=
  let p := progOf st
  (appends p).any fun x =>
    let napp := wkNapp (walkOf p x.2)
    let (a, b) := sumSpan (kvOf d x.1) (captLen p x.2) napp
    decide (0 < napp) && (List.range (b - a)).any fun i => !st.sums.contains (x.1 * 2 ^ 22 + a + i)

/-- The last item of a step has finished with its writes landed (R137, R236, R244, R270, R276, R287, R200, R218). -/
def stepDone (d : Dev) (k : Nat) (st : Step) : Bool :=
  let p := progOf st
  st.failing.isNone && !st.kill && st.items.isEmpty && (List.range p.jobsets.length).all (fun j => st.jsDone.contains j) &&
  st.buckets.all (fun b => b.released) && st.ings.all (fun c => c.2.complete) &&
  (List.range p.embs.length).all (fun i => (tfind st.embs i).any fun e => e.landed) &&
  (match st.round with
    | some r => r.phase == 6
    | none => true) && st.copies.all (fun c => c.2.complete) &&
  d.stems.all (fun s => s.2.1 != k || decide (smRows (stemDesc p s.2.2.1) ≤ s.2.2.2.1)) && !sumsLeft d st

/-- Update the scale records that a step wrote (R68): the first that cannot be read or written fails the step. -/
def updateRecs (g stepnum : Nat) : List W64 → Dev → Dev × Option XErr
  | [], d => (d, none)
  | va :: t, d =>
    match vaRead d g va.toNat 64 with
    | .error e => (d, some e)
    | .ok b => match vaWrite d g va.toNat (completeRec b stepnum) with
      | .error e => (d, some e)
      | .ok d => updateRecs g stepnum t d

/-- A write range of a step holds more than what its embedding jobs write (R240). -/
def otherWrites (p : Prog) : Bool :=
  p.access.any fun a => a.2.2 && !(p.embs.any fun b =>
    overlaps a.1.toNat (a.2.1 * 65536) (w64At b 8) (w64At b 0x10 * w32At b 0x18) || overlaps a.1.toNat (a.2.1 * 65536) (w64At b 0x38) 1)

/-- A step completes (R38 action 3): records, LEN of the tables it appended to, cursors, caches. -/
def completeStep (d : Dev) (k : Nat) : Dev :=
  match tfind d.steps k with
  | none => d
  | some st =>
    let p := progOf st
    let g := st.g.toNat
    let (d, bad) := updateRecs g (pStepnum p) st.recsWritten d
    match bad with
    | some e => endStep (failX d k e (unitCode 4 0)) k 2 e.code false
    | none =>
      let d := (appends p).foldl (fun d x => modKv d x.1 fun r =>
        { r with len := BitVec.ofNat 32 (captLen p x.2 + wkNapp (walkOf p x.2)), pend := 0 }) d
      let d := modG d g fun x => { x with
        cursors := p.ingests.foldl (fun t b => if (idCtl b).testBit 4 then
          let i := fld (idCtl b) 3 0
          tput t i (tget 0 t i + BitVec.ofNat 64 (idNb b * idNbatch b)) else t) x.cursors
        wrote := x.wrote || p.access.any fun a => a.2.2
        wroteRow := x.wroteRow || otherWrites p
        lastStep := if x.lastStep.1.toNat < st.adm.toNat then (st.adm, BitVec.ofNat 64 (pStepnum p)) else x.lastStep }
      endStep d k 0 0 false

/-! ### Suspension (R101, R396, R397) -/

/-- Steps that must be suspended with some steps: whole crews are saved (R397). -/
def withCrews (d : Dev) : Nat → List Nat → List Nat
  | 0, l => l
  | n + 1, l =>
    let more := (d.steps.filter fun p => p.2.st == .admitted && !l.contains p.1 &&
      l.any fun k => (tfind d.steps k).any fun st => st.g == p.2.g && st.crews.any fun c => p.2.crews.contains c).map (·.1)
    if more.isEmpty then l else withCrews d n (l ++ more)

/-- The lowest free save slot of a gauntlet. -/
def freeSlot (d : Dev) (g : Nat) : Option Nat :=
  (List.range (gaunt d g).crewmax.toNat).find? fun s => (tfind d.saves (64 * g + s)).isNone

/-- The suspend order reaches a crew: it begins its save into a slot (R397). Without a free slot its steps fail with status
SAVE. -/
def orderSave (g : Nat) (d : Dev) (crew : Nat) : Dev :=
  match freeSlot d g with
  | some s => modCox { d with saves := tput d.saves (64 * g + s) (crew, none) } crew fun x => { x with saving := true }
  | none => (tvals (coxOf d crew).slots).foldl (fun d k => failStep d k 0x69 (unitCode 1 crew)) d

/-- Suspend steps at this boundary as one or more resume sets (R399): those chosen, then every step on their crews. `over`
are those that overran, `pre` those preempted. -/
def suspendSteps (d : Dev) (ovr pre : List Nat) : Dev :=
  let first := ovr ++ pre.filter fun k => !ovr.contains k
  let all := withCrews d d.steps.length first
  let d0 := d
  let d := all.foldl (fun d k => modStep d k fun st =>
    { st with st := .suspended, fresh := true, evict := false
              rset := some (d.strk.count, (sortBy (fun a b => decide (a ≤ b)) (withCrews d0 d0.steps.length [k])).headD k)
              fl := { st.fl with overrun := st.fl.overrun || ovr.contains k, preempted := st.fl.preempted || !ovr.contains k } }) d
  -- R311: samples in flight are discarded without report
  let d := { d with decs := d.decs.filter fun c => !(c.2.busy && all.contains c.2.step) }
  let d := all.foldl (fun d k => match tfind d.steps k with
    | some st => account d st.g.toNat fun a =>
        if ovr.contains k then { a with overruns := a.overruns + 1 } else { a with preempts := a.preempts + 1 }
    | none => d) d
  let crews := (List.range 64).filter fun c => all.any fun k => (tfind d.steps k).any fun st => st.crews.contains c
  crews.foldl (fun d c => orderSave (match (tvals (coxOf d c).slots).head? with
    | some k => ((tfind d.steps k).map fun st => st.g.toNat).getD 0
    | none => 0) d c) d

/-- Bytes of a logical seat in a crew block (R397): scratchpad, accumulator tiles, tile registers. -/
def seatBlock : Nat := 4587520

/-- First byte of a crew block. -/
def blockVa (d : Dev) (g slot : Nat) : Nat := (gaunt d g).saveva.toNat + 36 * 2 ^ 20 * slot

/-- The header of a cox block (R397); the revision letter is B. -/
def blockHdr (d : Dev) (g crew : Nat) (stroke : Nat) : Bytes :=
  padTo 64 (leBytes 4 0x56454153 ++ [0x42] ++ leBytes 1 g ++ [0, 0] ++ leBytes 4 (gaunt d g).inst.toNat ++ leBytes 1 crew ++
    [0, 0, 0] ++ leBytes 8 stroke)

/-- The writes of a save: header, the number that its private part stands for (log 62), kernel stores and seats. -/
def saveWrites (d : Dev) (g slot crew n : Nat) (stroke : Nat) : List (Nat × Bytes) :=
  let va := blockVa d g slot
  (va + 35 * 2 ^ 20, blockHdr d g crew stroke ++ leBytes 8 n) ::
  (List.range 8).flatMap fun j => match physOf d crew j with
    | some i => [(va + seatBlock * j, peek d (seatBase (16 * crew + i)) seatBlock),
                 (va + 35 * 2 ^ 20 + 65536 * (1 + j), peek d (kernBase (16 * crew + i)) 65536)]
    | none => []

/-- Write a list of ranges, none of them if one fails translation. -/
def writeAll (d : Dev) (g : Nat) (l : List (Nat × Bytes)) : Except XErr Dev :=
  l.foldl (fun a x => match a with
    | .error e => .error e
    | .ok d => vaWrite d g x.1 x.2) (.ok d)

/-- The save slot that a crew is being saved into. -/
def savingSlot (d : Dev) (crew : Nat) : Option Nat := (d.saves.find? fun p => p.2.1 == crew && p.2.2.isNone).map (·.1)

/-- A crew's seats are wiped, and it holds no gauntlet until they are (R399, R401). -/
def wipeCrew (d : Dev) (crew : Nat) : Dev :=
  (List.range 9).foldl (fun d i =>
    let u := 16 * crew + i
    let d := store d (.fill (seatBase u) seatSpan 0)
    modSeat d u fun s => { Seat.reset i with logical := s.logical, fenced := s.fenced, spare := s.spare, wiping := true }) d

/-- CREW_SAVE_DONE: the crew block stands in its slot (R398); a slot that cannot be written fails the block's steps (R401). -/
def execCrewSaveDone (crew : CrewNo) (s : State) : Host.Outcome State Fault Refusal :=
  run (fun d =>
    let c := crew.toNat
    let x := coxOf d c
    if !x.saving then d
    else
      let d := modCox d c fun x => { x with saving := false }
      match savingSlot d c with
      | none => d
      | some key =>
        let g := key / 64
        let n := d.blocks.length
        let ks := tvals x.slots
        let b : Saved := { crew := c, stroke := d.strk.count, cox := x
                           seats := (List.range 9).map fun i => (i, seatOf d (16 * c + i))
                           steps := d.steps.filter fun p => ks.contains p.1 }
        match writeAll d g (saveWrites d g (key % 64) c n d.strk.count.toNat) with
        | .error _ =>
          wipeCrew (ks.foldl (fun d k => failStep d k 0x69 (unitCode 1 c)) { d with saves := tdel d.saves key }) c
        | .ok d2 =>
          -- R404: save traffic is counted to G0
          let l := (transRange d g (blockVa d g (key % 64)) (36 * 2 ^ 20) true).toOption.getD []
          let d := { d2 with gaunts := d.gaunts }
          let d := dramCount d 0 l
          let d := { d with blocks := tput d.blocks n b, saves := tput d.saves key (c, some n) }
          ks.foldl (fun d k => leaveCrew k false d c) d) s

/-! ### Resumption (R399) -/

/-- The save slot and block of a crew for a step. -/
def savedFor (d : Dev) (g crew k : Nat) : Option (Nat × Saved) :=
  d.saves.findSome? fun p =>
    if p.1 / 64 = g ∧ p.2.1 = crew then
      match p.2.2 with
      | some n => match tfind d.blocks n with
        | some b => if b.cox.slots.any fun q => q.2 == k then some (p.1, b) else none
        | none => none
      | none => none
    else none

/-- A crew block can be read, and its header matches the module, the gauntlet, its instance and the crew (R399). -/
def blockOk (d : Dev) (g slot crew : Nat) (b : Saved) : Bool :=
  match transRange d g (blockVa d g slot) (36 * 2 ^ 20) false, vaRead d g (blockVa d g slot + 35 * 2 ^ 20) 64 with
  | .ok _, .ok h => h == blockHdr d g crew b.stroke.toNat
  | _, _ => false

/-- A seat's bytes come back from the crew block. -/
def restoreBytes (d : Dev) (g slot crew j i : Nat) : Dev :=
  let va := blockVa d g slot
  let u := 16 * crew + i
  let put (d : Dev) (va n dst : Nat) : Dev :=
    match vaRead d g va n with
    | .ok b => putBytes d dst b
    | .error _ => d
  put (put d (va + seatBlock * j) seatBlock (seatBase u)) (va + 35 * 2 ^ 20 + 65536 * (1 + j)) 65536 (kernBase u)

/-- A context as admission loads it, from a saved one: its step, scale slots and registers, no work (R148). -/
def freshCtx (x : Ctx) : Ctx :=
  { Ctx.reset with slots := tmap (fun _ p => { p with run := Running.reset }) x.slots, step := x.step }

/-- A seat comes back from its saved structure; repairs and wipes stand as they are now. -/
def restoreSeat (now old : Seat) : Seat :=
  { old with logical := now.logical, fenced := now.fenced, wiping := now.wiping, spare := now.spare, gnt := now.gnt, valid := now.valid }

/-- A seat that replaces a saved one: the contexts of the step are bound anew (R148). -/
def replaceSeat (now old : Seat) : Seat :=
  { now with acccfg := old.acccfg, tregcfg := old.tregcfg, scrcfg := old.scrcfg, tiles := []
             ctxs := tmap (fun _ x => freshCtx x) old.ctxs, flights := [], drains := [], kloops := [], krun := false, lanes := [] }

/-- Restore a crew's structures from a block, its grants of lost contexts re-granted (R148, R399). -/
def restoreCrew (d : Dev) (crew : Nat) (b : Saved) (bad : List (Nat × Nat)) : Dev :=
  let gone (i : Nat) : Bool :=
    let now := seatOf d (16 * crew + i)
    let old := tget (Seat.reset i) b.seats i
    old.logical.toNat < 8 && (now.logical != old.logical || now.fenced) && !old.fenced
  let d := modCox d crew fun x => { x with slots := b.cox.slots, counters := b.cox.counters }
  let lost := (List.range 9).filter gone
  let d := (List.range 9).foldl (fun d i =>
    let old := tget (Seat.reset i) b.seats i
    modSeat d (16 * crew + i) fun now => if lost.contains i then { now with ctxs := old.ctxs } else restoreSeat now old) d
  let cs := lost.flatMap (fun i => (List.range 4).map fun c => (16 * crew + i, c)) ++ bad
  let d := regrantCtxs d crew cs
  let d := bad.foldl (fun d m => modCtx d m.1 m.2 freshCtx) d
  lost.foldl (fun d i =>
    let old := tget (Seat.reset i) b.seats i
    let d := modSeat d (16 * crew + i) fun s => { s with ctxs := [] }
    match physOf d crew old.logical.toNat with
    | some j => if (seatOf d (16 * crew + j)).fenced then d else modSeat d (16 * crew + j) fun now => replaceSeat now old
    | none => d) d

/-- CREW_RESTORE_DONE: the crew's block is back, its slot is free (R399). -/
def execCrewRestoreDone (crew : CrewNo) (badCtx : List CtxAt) (s : State) : Host.Outcome State Fault Refusal :=
  runIf (badCtx.all CtxAt.wf) (fun d =>
    let c := crew.toNat
    if !(coxOf d c).restoring || (List.range 9).any (fun i => (seatOf d (16 * c + i)).wiping) then d
    else
      let d := modCox d c fun x => { x with restoring := false }
      match d.saves.findSome? fun p => match p.2.2 with
        | some n => match tfind d.blocks n with
          | some b => if b.crew = c ∧ b.cox.slots.any (fun q => (tfind d.steps q.2).any fun st => st.st == .admitted) then some (p.1, b) else none
          | none => none
        | none => none with
      | none => d
      | some (key, b) =>
        let g := key / 64
        let l := (transRange d g (blockVa d g (key % 64)) (36 * 2 ^ 20) false).toOption.getD []
        let d := dramCount d 0 l
        let d := (List.range 8).foldl (fun d j => match physOf d c j with
          | some i => restoreBytes d g (key % 64) c j i
          | none => d) d
        let d := restoreCrew d c b ((badCtx.filter fun x => x.crew == crew).map fun x => (ctxIdx x, x.ctx.toNat))
        let d := (b.cox.slots.filter fun q => (tfind d.steps q.2).isNone).foldl (fun d q => leaveCrew q.2 false d c) d
        { d with saves := tdel d.saves key }) s

end Sys2Proof.Machine
end

