-- ==== Sys2Proof/Machine/Validate.lean ====
section
/-! DEFINITION. What the cox reads at admission (R131–R135, R138, R378, R511) and the checks it makes there: R134, R143, R144,
R155, R189, R197, R221–R228, R235–R249, R268, R270–R274, R282, R284–R289, R300, R318, R380. -/
namespace Sys2Proof.Machine

/-- Why a step fails at admission: the reason code, the number that its chapter's ERRINFO holds beside it, and the access
that failed translation, if one did. -/
structure Rej where
  code : Nat
  info : Nat
  x : Option XErr
  deriving DecidableEq, Repr

/-- A condition of admission. -/
def need (ok : Bool) (code info : Nat) : Except Rej Unit := if ok then .ok () else .error ⟨code, info, none⟩

/-- Bytes of the step's gauntlet. -/
def fetch (d : Dev) (g va n : Nat) : Except Rej Bytes :=
  match vaRead d g va n with
  | .error e => .error ⟨e.code, 0, some e⟩
  | .ok b => .ok b

/-- Bytes whose failing translation is a fault of the packet's structures (R378). -/
def fetchPkt (d : Dev) (g va n : Nat) : Except Rej Bytes :=
  match vaRead d g va n with
  | .error e => .error ⟨0x58, 0, some e⟩
  | .ok b => .ok b

/-- A check of every element of a list. -/
def eachOk {α : Type} (f : α → Except Rej Unit) : List α → Except Rej Unit
  | [] => .ok ()
  | a :: t => match f a with
    | .error e => .error e
    | .ok () => eachOk f t

/-- A value for every element of a list. -/
def eachOf {α β : Type} (f : α → Except Rej β) : List α → Except Rej (List β)
  | [] => .ok []
  | a :: t => match f a with
    | .error e => .error e
    | .ok b => match eachOf f t with
      | .error e => .error e
      | .ok bs => .ok (b :: bs)

/-! ### Reading (R131–R135, R138, R378) -/

/-- Ranges of the header (R131, R155). -/
def headerOk (h : Bytes) : Bool :=
  decide (1 ≤ leAt h 8 2) && decide (1 ≤ leAt h 0xA 1) && decide (leAt h 0xA 1 ≤ 64) && decide (1 ≤ leAt h 0x48 2) &&
  decide (leAt h 0x48 2 ≤ 1024) && leAt h 0xB 1 % 16 != 0 && leAt h 0xB 1 / 16 == 0 &&
  decide (leAt h 0xC 2 + leAt h 0xE 2 ≤ 16384) && allZero (slice h 0x4A 6) && allZero (slice h 0x58 40)

/-- The access list (R378): entries with V clear are ignored. -/
def accessOf (b : Bytes) : Except Rej (List (W64 × Nat × Bool)) :=
  let es := (pieces b 16 32).filter fun e => (w32At e 0xC).testBit 0
  match need (es.all fun e => w64At e 0 % 65536 == 0 && decide (1 ≤ w32At e 8) && w32At e 0xC / 4 == 0) 0x58 0 with
  | .error e => .error e
  | .ok () => .ok (es.map fun e => (BitVec.ofNat 64 (w64At e 0), w32At e 8, (w32At e 0xC).testBit 1))

/-- The attachment block (R378). More buckets than 32,768 are a fault of the bucket list (R282; log 64). -/
def attachOk (a : Bytes) : Except Rej Unit := do
  need (decide (leAt a 0x40 1 ≤ 16) && decide (leAt a 0x41 1 ≤ 4) && decide (leAt a 0x42 1 ≤ 16) && decide (leAt a 0x43 1 ≤ 8) &&
    decide (leAt a 0x44 1 ≤ 1) && decide (leAt a 0x45 1 ≤ 4) && decide (leAt a 0x4C 1 ≤ 4) && leAt a 0x47 1 == 0 &&
    allZero (slice a 0x4D 0x33) && (w32At a 0x48 == 0 || decide (leAt a 0x46 1 ≤ 7))) 0x58 0
  need (decide (w32At a 0x48 ≤ 32768)) 0x3A 0

/-- A list of descriptors. -/
def descs (d : Dev) (g : Nat) (a : Bytes) (off cnt size : Nat) : Except Rej (List Bytes) :=
  if cnt = 0 then .ok []
  else match fetch d g (w64At a off) (size * cnt) with
    | .error e => .error e
    | .ok b => .ok (pieces b size cnt)

/-- Scale records that a step names: in its scale table or in a descriptor (R64). -/
def recVas (scales : List W64) (stems embs disp : List Bytes) : List Nat :=
  let l := scales.map (·.toNat) ++ stems.map (fun b => w64At b 0x20) ++ embs.map (fun b => w64At b 0x40) ++
    (embs.filter fun b => leAt b 0 1 == 0).map (fun b => w64At b 0x48) ++ disp.map (fun b => w64At b 0x50)
  l.foldl (fun a v => if v = 0 ∨ a.contains v then a else a ++ [v]) []

/-- The captured GEN and LEN of a table (R211). -/
def captOf (d : Dev) (i t : Nat) : Nat × W32 × W32 := (i, (kvOf d t).gen, (kvOf d t).len)

/-- Read a step program as memory holds it now. -/
def readProg (d : Dev) (st : Step) : Except Rej Prog := do
  let g := st.g.toNat
  let h ← fetch d g st.p0.toNat 128
  need (headerOk h) 0x10 0
  let njs := leAt h 0xA 1
  let nsd := leAt h 0x48 2
  let acc ← fetchPkt d g (w64At h 0x40) 512
  let access ← accessOf acc
  let a ← if st.p2 = 0 then .ok (List.replicate 128 0) else fetchPkt d g st.p2.toNat 128
  attachOk a
  let js ← fetch d g (w64At h 0x18) (64 * njs)
  let jobsets := pieces js 64 njs
  let tmpls ← eachOf (fun b => do
    need (decide (1 ≤ jsNtmpl b) && decide (jsNtmpl b ≤ 16)) 0x10 0
    fetch d g (w64At b 0) (32 * jsNtmpl b)) jobsets
  let sd ← fetch d g (w64At h 0x20) (128 * nsd)
  let sc ← fetch d g (w64At h 0x28) 128
  let scales := (List.range 16).map fun i => BitVec.ofNat 64 (w64At sc (8 * i))
  let ln ← fetch d g (w64At h 0x30) 32
  let bd ← fetch d g (w64At h 0x38) 128
  let cr ← fetch d g (w64At h 0x50) 64
  let convs ← descs d g a 0 (leAt a 0x40 1) 32
  let stems ← descs d g a 8 (leAt a 0x41 1) 96
  let walks ← descs d g a 0x10 (leAt a 0x42 1) 64
  let embs ← descs d g a 0x18 (leAt a 0x43 1) 96
  let disp ← descs d g a 0x20 (leAt a 0x44 1) 128
  let copies ← descs d g a 0x28 (leAt a 0x45 1) 64
  let buckets ← descs d g a 0x30 (w32At a 0x48) 32
  let ingests ← descs d g a 0x38 (leAt a 0x4C 1) 512
  let recs0 ← eachOf (fun va => do
    let b ← fetch d g va 64
    pure (va, b)) (recVas scales stems embs disp)
  pure { hdr := h, jobsets := jobsets, tmpls := tmpls, streams := pieces sd 128 nsd, scales := scales
         lens := (List.range 8).map fun i => BitVec.ofNat 32 (w32At ln (4 * i))
         bind := (List.range 32).map fun i => BitVec.ofNat 32 (w32At bd (4 * i))
         ctxres := cr, access := access, convs := convs, stems := stems, walks := walks, embs := embs, disp := disp
         copies := copies, buckets := buckets, ingests := ingests
         group := if buckets.isEmpty then none else some (leAt a 0x46 1)
         capt := ((List.range walks.length).map fun i => captOf d i (wkTab (walks.getD i []))) ++
           ((List.range copies.length).filter fun i => leAt (copies.getD i []) 0 1 == 1).map fun i =>
             captOf d (16 + i) (fld (leAt (copies.getD i []) 0x24 2) 9 0)
         plist := [], recs0 := recs0 }

/-- Ranges of gauntlet memory that the reading of a program covers. -/
def progRanges (d : Dev) (st : Step) (p : Prog) : List (Nat × Nat) :=
  let h := p.hdr
  let a := if st.p2 = 0 then [] else (vaRead d st.g.toNat st.p2.toNat 128).toOption.getD []
  let lists : List (Nat × Nat × Nat) := [(0, p.convs.length, 32), (8, p.stems.length, 96), (0x10, p.walks.length, 64), (0x18, p.embs.length, 96),
    (0x20, p.disp.length, 128), (0x28, p.copies.length, 64), (0x30, p.buckets.length, 32), (0x38, p.ingests.length, 512)]
  [(st.p0.toNat, 128), (w64At h 0x18, 64 * p.jobsets.length), (w64At h 0x20, 128 * p.streams.length), (w64At h 0x28, 128),
   (w64At h 0x30, 32), (w64At h 0x38, 128), (w64At h 0x40, 512), (w64At h 0x50, 64), (w64At h 0x10, 4 * leAt h 0xE 2)] ++
  p.jobsets.map (fun b => (w64At b 0, 32 * jsNtmpl b)) ++ p.recs0.map (fun r => (r.1, 64)) ++
  lists.map (fun x => (w64At a x.1, x.2.1 * x.2.2)) ++ (if st.p2 = 0 then [] else [(st.p2.toNat, 128)])

/-! ### Contexts, streams and job sets (R155, R511) -/

/-- Entry of the context-resource table. -/
def crEntry (p : Prog) (c : Nat) : Bytes := slice p.ctxres (16 * c) 16

/-- An entry keeps the rules of R511's table. -/
def crOk (e : Bytes) : Bool :=
  decide (leAt e 0 1 ≤ 31) && decide (leAt e 1 1 ≤ 32) && decide (leAt e 0 1 + leAt e 1 1 ≤ 32) &&
  (leAt e 3 1 &&& (255 - leAt e 2 1)) == 0 && allZero (slice e 6 10)

/-- Two entries give nothing to two contexts. -/
def crApart (a b : Bytes) : Bool :=
  (leAt a 2 1 &&& leAt b 2 1) == 0 && (leAt a 4 2 &&& leAt b 4 2) == 0 &&
  !(decide (0 < leAt a 1 1) && decide (0 < leAt b 1 1) && overlaps (leAt a 0 1) (leAt a 1 1) (leAt b 0 1) (leAt b 1 1))

/-- The context-resource table (R511). -/
def ctxresOk (p : Prog) : Bool :=
  let cs := pCtxs p
  cs.all (fun c => crOk (crEntry p c)) && cs.all fun a => cs.all fun b => decide (b ≤ a) || crApart (crEntry p a) (crEntry p b)

/-- A dimension entry that is used. -/
def dimOk (b : Bytes) (k : Nat) : Bool :=
  let x := sdDim b k
  let gax := fld x 54 52
  decide (1 ≤ fld x 51 36) && (decide (gax ≤ 2) || gax == 7) && !x.testBit 55 && decide (sdLsel b k ≤ 8) && decide (sdPsel b k ≤ 2)

/-- A stream descriptor (R138, R153, R155). -/
def streamOk (b : Bytes) : Bool :=
  let c := sdCtl b
  allZero (slice b 0x18 0x18) && !c.testBit 15 && w32At b 0x10 / 2 ^ 15 == 0 && w32At b 0x14 / 2 ^ 30 == 0 &&
  decide (1 ≤ sdNdim b) && decide (sdNdim b ≤ 5) && decide (1 ≤ sdNblk b) && decide (sdNblk b ≤ 256) &&
  (List.range (sdNdim b)).all (dimOk b) && !(c.testBit 7 && c.testBit 8) && !(c.testBit 11 && !c.testBit 7) &&
  !((c.testBit 9 || c.testBit 10) && (List.range (sdNdim b)).any fun k => fld (sdDim b k) 54 52 == 0)

/-- A template entry (R144). -/
def tmplOk (t : Bytes) (n : Nat) : Bool :=
  let (w, pw) := tmplEntry t n
  allZero (slice t (32 * n + 20) 12) && (pw &&& 0x8000FFF8) == 0 && (!pw.testBit 0 || cOp w == 4) && (!pw.testBit 1 || cOp w == 1)

/-- Binding words (R134): reserved bits zero, every valid counter used. -/
def bindOk (p : Prog) : Bool :=
  (List.range 8).all fun l => (pCtxs p).all fun c =>
    let w := ((p.bind.getD (4 * l + c) 0)).toNat
    w / 2 ^ 28 == 0 && (List.range 4).all fun i => !w.testBit (24 + i) || (jsOfWcnt p (fld w (6 * i + 5) (6 * i))).isSome

/-- Logical seats and contexts bound to a job set. -/
def boundTo (p : Prog) (j : Nat) : List (Nat × Nat) :=
  (List.range 8).flatMap fun l => (List.range 4).filterMap fun c => if (boundJs p l c).contains j then some (l, c) else none

/-- The group rules of R151. -/
def groupsOk (p : Prog) (crews : List Nat) (j : Nat) (b : Bytes) : Bool :=
  let gs := jsGs b
  let gd := jsGd b
  if gs = 1 ∧ gd = 1 then true
  else
    let l := boundTo p j
    l.length % gs == 0 && jsNt b 0 % (gs * gd) == 0 &&
    (groupsOf l gs).all (fun g => (List.range g.length).all fun i => (g.take i).all fun m => m.1 != (g.getD i (0, 0)).1) &&
    (gd == 1 || (crews.length == gd && l.length == gs && crews.all fun c => c / 16 == crews.headD 0 / 16))

/-- The streams a job set names. -/
def jsStreams (b : Bytes) : List Nat := (List.range 5).filterMap (jsStream b)

/-- The fields of a job set (R135, R155). -/
def jobFields (b : Bytes) : Bool :=
  w32At b 0x24 == 0 && w64At b 0x38 == 0 && fld (jsSkl b) 15 14 == 0 && w64At b 0x30 / 2 ^ 55 == 0 && decide (jsRssel b ≤ 2) &&
  decide (jsCrewax b ≤ 2) && decide (jsRowax b ≤ 2) && decide (jsColax b ≤ 2) && decide (jsKlen b ≤ 8) &&
  (List.range 3).all (fun a => decide (jsLsel b a ≤ 8) && decide (1 ≤ jsNt b a)) && jsRowax b != jsColax b &&
  jsTsz b (jsRowax b) == 64 && jsTsz b (jsColax b) == 64 && decide (jsGs b ≤ 8) && decide (jsGd b ≤ 16)

/-- Streams of a job set: they exist, have the direction of their slot, select from a pointer list only where there is one
(R143), and their blocks lie within the region of every context bound to the job set. -/
def jobStreams (p : Prog) (j : Nat) (b : Bytes) : Bool :=
  (List.range 5).all fun i => match jsStream b i with
    | none => true
    | some n =>
      let s := sdOf p n
      let c := sdCtl s
      decide (n < p.streams.length) && (c.testBit 7 == (i == 4)) &&
      (jsPl b || (!c.testBit 14 && (List.range (sdNdim s)).all fun k => sdPsel s k == 0)) &&
      (boundTo p j).all fun m => decide (sdSoff s + sdNblk s * sdBlk s ≤ leAt (crEntry p m.2) 1 1 * 65536)

/-- A job set of a step (R155). -/
def jobOk (p : Prog) (crews : List Nat) (j : Nat) : Bool :=
  let b := jsOf p j
  jobFields b && (List.range (jsNtmpl b)).all (tmplOk (p.tmpls.getD j [])) && (jsPl b || jsRssel b == 0) &&
  jobStreams p j b && groupsOk p crews j b && (List.range j).all fun i => jsWcnt (jsOf p i) != jsWcnt b

/-- Every seat bound to the step is fenced (R150, R155). -/
def allFenced (d : Dev) (p : Prog) (crews : List Nat) : Bool :=
  let l := crews.flatMap fun c => (List.range 8).filterMap fun s =>
    if (List.range 4).any (fun x => !(boundJs p s x).isEmpty) then some (c, s) else none
  !l.isEmpty && l.all fun m => match physOf d m.1 m.2 with
    | some i => (seatOf d (16 * m.1 + i)).fenced
    | none => true

/-- R155 and R511 for the whole program. -/
def checkJobs (p : Prog) (crews : List Nat) : Except Rej Unit := do
  need (ctxresOk p) 0x10 0
  need (p.streams.all fun b => fmtOk (sdFmt b)) 0x02 0
  need (p.streams.all streamOk) 0x10 0
  need (bindOk p) 0x10 0
  eachOk (fun j => need (jobOk p crews j) 0x10 j) (List.range p.jobsets.length)
  need (p.recs0.all fun r => fmtOk (fld (w32At r.2 0x14) 3 0) && !ctrlBad (w32At r.2 0x14)) 0x02 0

/-- A field that names a job set, or 0xFF for none. -/
def jsRef (p : Prog) (v : Nat) : Bool := v == 0xFF || decide (v < p.jobsets.length)

/-- PJS lies below CJS where both are job sets. -/
def jsBelow (a b : Nat) : Bool := a == 0xFF || b == 0xFF || decide (a < b)

/-! ### Convolutions, bands and the stem (R189, R192, R197) -/

/-- Size of an output by the formula of R189. -/
def outSize (n pad filt dil stride : Nat) : Int := ((n + pad : Nat) - ((filt - 1) * dil : Nat) - 1 : Int) / (stride : Nat) + 1

/-- The filter's ranges (R189, R197). -/
def geomOk (g : Nat) : Bool :=
  let r (v lo hi : Nat) : Bool := decide (lo ≤ v) && decide (v ≤ hi)
  r (fld g 3 0) 1 15 && r (fld g 7 4) 1 15 && r (fld g 11 8) 1 8 && r (fld g 15 12) 1 8 && r (fld g 19 16) 1 8 && r (fld g 23 20) 1 8

/-- A producer or consumer field of a convolution descriptor names a unit of the step. -/
def convRef (p : Prog) (v : Nat) : Bool := decide (v < p.jobsets.length) || (decide (0x80 ≤ v) && decide (v < 0x80 + p.stems.length))

/-- The checks of R189 on a convolution descriptor, but for its bands. -/
def checkConv (p : Prog) (b : Bytes) : Except Rej Unit := do
  let g := w32At b 0x10
  let pads := w32At b 0x14
  let pjs := leAt b 0 1
  let cjs := leAt b 1 1
  let h := leAt b 4 2
  let oh := leAt b 8 2
  let n := w32At b 0xC
  need (geomOk g) 0x20 0
  need (leAt b 2 2 / 1024 == 0 && g / 2 ^ 24 == 0 && w32At b 0x1C == 0 && (pjs == 0xFF || convRef p pjs) && convRef p cjs) 0x10 0
  need (decide (outSize h (fld pads 7 0 + fld pads 23 16) (fld g 7 4) (fld g 23 20) (fld g 15 12) = oh) &&
    decide (outSize (leAt b 6 2) (fld pads 15 8 + fld pads 31 24) (fld g 3 0) (fld g 19 16) (fld g 11 8) = leAt b 0xA 2)) 0x10 0
  need (decide (0x80 ≤ cjs) || (jsPl (jsOf p cjs) && jsCrewax (jsOf p cjs) == 2 && jsNt (jsOf p cjs) 2 == n * oh)) 0x10 0
  need (decide (0x80 ≤ pjs) || (jsCrewax (jsOf p pjs) == 2 && jsNt (jsOf p pjs) 2 == n * h)) 0x10 0
  need (!(decide (pjs < 0x80) && decide (cjs < 0x80) && decide (cjs ≤ pjs)) && !(decide (0x80 ≤ pjs) && pjs != 0xFF && decide (0x80 ≤ cjs))) 0x21 0

/-- First and last input row that an output row reads (R190); none where it reads the border only. -/
def rowsRead (b : Bytes) (i2 : Nat) : Option (Nat × Nat) :=
  let g := w32At b 0x10
  let h := leAt b 4 2
  let oh := max 1 (leAt b 8 2)
  let top : Int := ((i2 % oh) * fld g 15 12 : Nat) - (fld (w32At b 0x14) 7 0 : Nat)
  let lo := max 0 top
  let hi := min ((h : Int) - 1) (top + ((fld g 7 4 - 1) * fld g 23 20 : Nat))
  if hi < lo then none else some (i2 / oh * h + lo.toNat, i2 / oh * h + hi.toNat)

/-- The first row read from an output row on. -/
def firstRead (b : Bytes) : Nat → Nat → Option Nat
  | 0, _ => none
  | n + 1, i => match rowsRead b i with
    | some r => some r.1
    | none => firstRead b n (i + 1)

/-- The last row read by output rows up to one. -/
def lastRead (b : Bytes) : Nat → Nat → Option Nat
  | 0, _ => none
  | n + 1, i => match rowsRead b i with
    | some r => some r.2
    | none => lastRead b n (i - 1)

/-- Rows that a consumer crew reads, first and last. -/
def crewReads (st : Step) (p : Prog) (b : Bytes) (crew : Nat) : Option (Nat × Nat) :=
  let (lo, n) := crewPart st (jsOf p (leAt b 1 1)) crew
  match firstRead b n lo, lastRead b n (lo + n - 1) with
  | some a, some z => if z < a then none else some (a, z)
  | _, _ => none

/-- A band of rows `a` to `z`; none where it is empty. -/
def bandOf (ci prod cons a z : Nat) : List Band :=
  if z < a then [] else [{ conv := ci, prod := prod, cons := cons, first := a, len := z + 1 - a, avail := 0 }]

/-- The bands of one consumer crew with a job-set producer (R192), refused where they reach past an adjacent part. -/
def crewBands (st : Step) (p : Prog) (ci : Nat) (b : Bytes) (r : Nat) : Except Rej (List Band) :=
  let crew := st.crews.getD r 0
  match crewReads st p b crew with
  | none => .ok []
  | some (a, z) =>
    let pj := jsOf p (leAt b 0 1)
    let part (i : Nat) : Nat × Nat := crewPart st pj (st.crews.getD i 0)
    let (s, n) := part r
    let (ps, _) := if r = 0 then (s, 0) else part (r - 1)
    let (ns, nn) := if r + 1 < st.crews.length then part (r + 1) else (s + n, 0)
    if a < ps ∨ ns + nn ≤ z then .error ⟨0x21, 0, none⟩
    else .ok ((if a < s then bandOf ci (st.crews.getD (r - 1) 0) crew a (min z (s - 1)) else []) ++
      (if s + n ≤ z then bandOf ci (st.crews.getD (r + 1) 0) crew (max a (s + n)) z else []))

/-- The bands of a convolution descriptor (R192). -/
def convBands (st : Step) (p : Prog) (ci : Nat) (b : Bytes) : Except Rej (List Band) :=
  let pjs := leAt b 0 1
  let cjs := leAt b 1 1
  if pjs = 0xFF then .ok []
  else if cjs < 0x80 ∧ pjs < 0x80 then
    match eachOf (crewBands st p ci b) (List.range st.crews.length) with
    | .error e => .error e
    | .ok l => .ok l.flatten
  else if cjs < 0x80 then
    .ok (st.crews.flatMap fun c => match crewReads st p b c with
      | some (a, z) => bandOf ci (64 + (pjs - 0x80)) c a z
      | none => [])
  else
    .ok (st.crews.flatMap fun c =>
      let (s, n) := crewPart st (jsOf p pjs) c
      if n = 0 then [] else bandOf ci c (64 + (cjs - 0x80)) s (s + n - 1))

/-- Every band of a step; one longer than 65,535 rows is refused (R189). -/
def stepBands (st : Step) (p : Prog) : Except Rej (List Band) :=
  match eachOf (fun ci => convBands st p ci (p.convs.getD ci [])) (List.range p.convs.length) with
  | .error e => .error e
  | .ok l => if l.flatten.all fun x => decide (x.len ≤ 65535) then .ok l.flatten else .error ⟨0x21, 0, none⟩

/-- Bytes that a stem descriptor takes in the media SRAM partition: weights and line buffer (R197). -/
def stemBytes (b : Bytes) : Nat :=
  let g := smGeom b
  leAt b 0x2E 2 * smK b * 2 + ((fld g 7 4 - 1) * fld g 23 20 + fld g 15 12) * leAt b 0x32 2 * leAt b 0x2C 2 * 2

/-- A stem descriptor (R197, R198). -/
def checkStem (p : Prog) (i : Nat) : Except Rej Unit := do
  let b := stemDesc p i
  let g := smGeom b
  let cin := leAt b 0x2C 2
  let cout := leAt b 0x2E 2
  need (smCtl b / 2 ^ 10 == 0 && g / 2 ^ 24 == 0 && w32At b 0x54 == 0 && (!(smCtl b).testBit 1 || w64At b 0 == 0)) 0x10 i
  need (decide (fld (smCtl b) 9 6 ≤ 5)) 0x02 (i + 4)
  need (geomOk g && decide (1 ≤ cin) && decide (1 ≤ cout) &&
    (if (smCtl b).testBit 0 then decide (cout ≤ 16) && decide (smK b ≤ 16384) else decide (cin ≤ 16) && decide (cout ≤ 4096)) &&
    decide (cout * smK b * 2 ≤ 524288) && decide (stemBytes b - cout * smK b * 2 ≤ 2 ^ 24)) 0x20 i

/-- Convolution and stem descriptors. The stem's buffers must lie in the gauntlet's partition (R197; log 65). -/
def checkConvs (d : Dev) (g : Nat) (p : Prog) : Except Rej Unit := do
  eachOk (checkStem p) (List.range p.stems.length)
  need (decide (p.stems.foldl (fun a b => a + stemBytes b) 0 ≤ (gaunt d g).msram.toNat * 2 ^ 22)) 0x20 0
  eachOk (checkConv p) p.convs

/-! ### KV walks (R215, R221–R228) -/

/-- A table exists and belongs to the gauntlet (R232). -/
def ownTable (d : Dev) (g t : Nat) : Bool :=
  (kvOf d t).cap != 0 && (kvOf d t).gnt.toNat == g && !(d.waits.any fun w => w.op == 0x3A && w.key == t)

/-- The fields of a walk descriptor (R221). -/
def walkFields (p : Prog) (w : Bytes) : Bool :=
  let rd := decide (wkMode w ≤ 1)
  decide (wkMode w ≤ 2) && decide (wkJs w < p.jobsets.length) && leAt w 2 2 / 1024 == 0 && !(wkStrm w).testBit 31 && w32At w 0x3C == 0 &&
  decide (fld (wkStrm w) 9 0 < p.streams.length) && decide (fld (wkStrm w) 19 10 < p.streams.length) && decide (fld (wkStrm w) 25 24 ≤ 2) &&
  decide (wkNstage w ≤ 64) && wkWin w % 64 == 0 && decide (wkWin w ≤ 8192) &&
  (!rd || (decide (1 ≤ wkNslot w) && decide (wkNslot w ≤ 16) && sdNblk (sdOf p (fld (wkStrm w) 9 0)) == wkNslot w &&
    sdNblk (sdOf p (fld (wkStrm w) 19 10)) == wkNslot w)) &&
  (wkMode w != 1 || (decide (1 ≤ wkNsel w) && decide (wkNsel w ≤ 512) && decide (leAt w 0xB 1 < p.jobsets.length)))

/-- The repeat body of a walk (R224): within the template, and without SWAPH, SETIDX or END. -/
def bodyOk (p : Prog) (w : Bytes) : Bool :=
  let (rs, re) := wkRpt w
  let t := p.tmpls.getD (wkJs w) []
  decide (2 ≤ wkMode w) || (decide (rs ≤ re) && decide (re < jsNtmpl (jsOf p (wkJs w))) &&
    (List.range (re + 1 - rs)).all fun i =>
      let o := cOp (tmplEntry t (rs + i)).1
      o != 4 && o != 5 && o != 9)

/-- A walk descriptor. -/
def checkWalk (d : Dev) (g : Nat) (p : Prog) (i : Nat) : Except Rej Unit := do
  let w := walkOf p i
  let t := wkTab w
  need (walkFields p w && bodyOk p w) 0x2B t
  need (ownTable d g t) 0x29 t
  let r := kvOf d t
  need ((wkStrm w).testBit 30 || decide (fld (wkStrm w) 29 26 < r.hg)) 0x2B t
  need (wkMode w != 2 || ((List.range i).all (fun j => wkMode (walkOf p j) != 2 || wkTab (walkOf p j) != t || wkNapp (walkOf p j) == wkNapp w) &&
    decide ((r.len.toNat + wkNapp w - 1) / 64 < r.cap.toNat))) 0x2B t
  match segMap d g w with
  | .error e => .error ⟨e.code, t, some e⟩
  | .ok none => .ok ()
  | .ok (some l) =>
    need (segOk l) 0x2B t
    eachOk (fun s => need (peerMid d g s.rank).isSome 0x3E 0) l

/-! ### Embedding jobs and dispatch (R235–R249) -/

/-- An embedding job descriptor (R235, R236, R239). -/
def embOk (p : Prog) (b : Bytes) : Bool :=
  let kind := leAt b 0 1
  let es := fmtBits (ebFmt b) / 8
  let pol := match p.recs0.find? fun r => r.1 == w64At b 0x40 with
    | some r => fld (w32At r.2 0x14) 5 4
    | none => 0
  decide (kind ≤ 1) && decide (leAt b 1 1 ≤ 3) && ebCtl b / 2 ^ 13 == 0 && w32At b 0x54 == 0 && w64At b 0x58 == 0 && decide (ebFmt b ≤ 5) &&
  decide (4 ≤ ebDim b) && decide (ebDim b ≤ 2048) && ebDim b % 4 == 0 && decide (1 ≤ ebRows b) && decide (ebRows b ≤ 2 ^ 40) &&
  w32At b 0x18 % 64 == 0 && decide (ebDim b * es ≤ w32At b 0x18) && decide (1 ≤ ebNbag b) && jsRef p (leAt b 6 1) && jsRef p (leAt b 7 1) &&
  jsBelow (leAt b 6 1) (leAt b 7 1) &&
  (if kind = 0 then decide (ebFmt2 b ≤ 4) && decide (ebDim b ≤ w32At b 0x50)
   else decide (ebFmt2 b ≤ 1) && leAt b 1 1 == 0 && decide (ebNbag b ≤ 65536) && w32At b 0x34 == 0 && pol == 0)

/-- Strictly ascending. -/
def ascending : List Nat → Bool
  | [] => true
  | [_] => true
  | a :: b :: t => decide (a < b) && ascending (b :: t)

/-- Ranks of a descriptor's member list. -/
def ranksAt (d : Dev) (g va n : Nat) : Except Rej (List Nat) :=
  match fetch d g va n with
  | .error e => .error e
  | .ok b => .ok (b.map (·.toNat))

/-- The fields of the dispatch descriptor (R243). -/
def dispFields (p : Prog) (b : Bytes) : Bool :=
  let c := xdCtl b
  let nl := xdNloc b
  decide (1 ≤ xdTopk b) && decide (xdTopk b ≤ 8) && decide (1 ≤ fld c 7 4) && decide (fld c 7 4 ≤ 4) && decide (fld c 11 8 ≤ 1) &&
  decide (fld c 15 12 ≤ 4) && c / 2 ^ 19 == 0 && decide (64 ≤ xdHid b) && decide (xdHid b ≤ 16384) && xdHid b % 64 == 0 && decide (nl ≤ 64) &&
  decide (1 ≤ leAt b 0xB 1) && decide (leAt b 0xB 1 ≤ 64) && decide (1 ≤ xdCap b) && decide (xdCap b ≤ 65536) && leAt b 0x47 1 == 0 &&
  allZero (slice b 0x68 24) && decide (leAt b 0x44 1 < p.jobsets.length) && jsRef p (leAt b 0x45 1) && jsRef p (leAt b 0x46 1) &&
  (nl == 0 || leAt b 0x45 1 != 0xFF)

/-- The dispatch descriptor, with its member ranks. -/
def checkDisp (d : Dev) (g : Nat) (p : Prog) : Except Rej (List Nat) :=
  match p.disp with
  | [] => .ok []
  | b :: _ => do
    need (dispFields p b) 0x32 0
    let rs ← ranksAt d g (w64At b 0x58) (leAt b 0xB 1)
    need (ascending rs) 0x32 0
    eachOk (fun r => need (peerMid d g r).isSome 0x3E 0) rs
    need (rs.any fun r => peerMid d g r == some (myMid d)) 0x32 0
    pure rs

/-! ### Copies and buckets (R270, R274) -/

/-- A copy-collective descriptor, with its member ranks. -/
def checkCopy (d : Dev) (g : Nat) (p : Prog) (b : Bytes) : Except Rej (List Nat) := do
  let m := leAt b 0 1
  let t := leAt b 0x24 2
  let n := leAt b 3 1
  need (decide (m ≤ 2) && jsRef p (leAt b 1 1) && jsRef p (leAt b 2 1) && decide (1 ≤ n) && decide (n ≤ 64) && (m != 2 || n == 1) &&
    w32At b 0x20 % 64 == 0 && t / 1024 == 0 && leAt b 0x26 2 == 0 && allZero (slice b 0x30 16)) 0x3A 0
  need (m != 1 || ownTable d g t) 0x29 t
  let rs ← ranksAt d g (w64At b 0x18) n
  need (ascending rs) 0x3A 0
  eachOk (fun r => need (peerMid d g r).isSome 0x3E 0) rs
  pure rs

/-- A bucket descriptor (R274). -/
def bucketOk (p : Prog) (b : Bytes) : Bool :=
  let n := w32At b 0x18
  let c := w32At b 0x1C
  decide (2 ^ 20 ≤ n) && decide (n ≤ 2 ^ 26) && n % 65536 == 0 && decide (fld c 3 0 ≤ 1) && c / 2 ^ 21 == 0 &&
  jsRef p (fld c 12 5) && jsRef p (fld c 20 13) && !overlaps (w64At b 0) n (w64At b 8) n

/-- Copies and buckets: the members of each copy. -/
def checkFabric (d : Dev) (g : Nat) (p : Prog) : Except Rej (List (List Nat)) := do
  need (p.buckets.all (bucketOk p)) 0x3A 0
  need (match p.group with
    | some n => (tfind (gaunt d g).groups n).isSome
    | none => true) 0x3A 0
  eachOf (checkCopy d g p) p.copies

/-! ### Ingest (R284–R289, R318) -/

/-- Kind parameters and format of an output (R285, R286). -/
def outOk (o : Bytes) : Bool :=
  let r (v lo hi : Nat) : Bool := decide (lo ≤ v) && decide (v ≤ hi)
  w32At o 0x5C == 0 &&
  match leAt o 0 1 with
  | 0 => decide (outFmt o ≤ 1) && (leAt o 8 1 == 1 || leAt o 8 1 == 3) && decide (leAt o 9 1 ≤ 2) && decide (leAt o 0xA 1 ≤ 2) &&
      r (leAt o 0xC 2) 1 4096 && r (leAt o 0xE 2) 1 4096
  | 1 => decide (outFmt o ≤ 1) && decide (leAt o 8 1 ≤ 8) && r (w32At o 0x10) 1 (2 ^ 24) && decide (leAt o 0x14 1 ≤ 1)
  | 2 => decide (outFmt o ≤ 1) && r (w32At o 0x10) 1 65535 && [256, 512, 1024, 2048].contains (leAt o 0x14 2) &&
      r (leAt o 0x16 2) 1 (leAt o 0x14 2) && decide (1 ≤ leAt o 0x18 2) && r (leAt o 0x1A 2) 1 256
  | 3 => outFmt o == 8 && r (w32At o 8) 1 1048576 && decide (leAt o 0xC 1 ≤ 3) && decide (leAt o 0xD 1 ≤ 7)
  | 4 => outFmt o == 8 && r (leAt o 8 2) 1 256
  | _ => false

/-- Outputs that overlap in a batch. -/
def outsApart (b : Bytes) : Bool :=
  (List.range (idNout b)).all fun i => (List.range i).all fun j =>
    !overlaps (w32At (idOut b i) 4) (idNb b * outBytes (idOut b i)) (w32At (idOut b j) 4) (idNb b * outBytes (idOut b j))

/-- The stem descriptor that an ingest descriptor with STEMEN feeds (R199, R284). -/
def stemMatch (p : Prog) (b : Bytes) : Bool :=
  let c := idCtl b
  if !c.testBit 24 then true
  else
    let o := idOut b (fld c 26 25)
    let s := stemDesc p (fld c 28 27)
    decide (fld c 28 27 < p.stems.length) && decide (fld c 26 25 < idNout b) && (smCtl s).testBit 1 && leAt o 0 1 == 0 && outFmt o == 1 &&
    leAt o 8 1 == leAt s 0x2C 2 && leAt o 0xC 2 == leAt s 0x30 2 && leAt o 0xE 2 == leAt s 0x32 2

/-- An entry of the shard list (R289, R318). -/
def shardOk (e : Bytes) : Bool :=
  let inside (a : Nat) : Bool := match window a with
    | some (t, _, _) => t == 2 || t == 3
    | none => false
  let a := w64At e 0
  let n := w64At e 8
  inside a && (n == 0 || inside (a + n - 1)) && w32At e 0x10 != 0 && w32At e 0x14 ≤ 1

/-- An ingest descriptor (R284–R289, R300). -/
def checkIngest (d : Dev) (g : Nat) (p : Prog) (i : Nat) : Except Rej Unit := do
  let b := p.ingests.getD i []
  let outs := (List.range (idNout b)).map (idOut b)
  need (decide (1 ≤ w32At b 8) && decide (w32At b 8 ≤ 65536) && decide (1 ≤ idNb b) && decide (idNb b ≤ 4096) && decide (1 ≤ idNbatch b) &&
    decide (idNbatch b ≤ 1024) && w64At b 0x20 % 64 == 0 && idCtl b / 2 ^ 29 == 0 && jsRef p (fld (idCtl b) 13 6) && allZero (slice b 0x44 0x3C) &&
    w32At b 0x40 % 65536 == 0 && outs.all outOk && outsApart b && stemMatch p b) 0x40 i
  let l ← fetch d g (w64At b 0) (32 * w32At b 8)
  need ((pieces l 32 (w32At b 8)).all shardOk) 0x41 i
  need (outs.all fun o => leAt o 0 1 != 3 || (leAt o 0xD 1).testBit 2 || (tfind (gaunt d g).toks (leAt o 0xC 1)).isSome) 0x42 i

/-! ### Features (R380) -/

/-- The feature bits of the engines that a step uses. -/
def stepFeats (p : Prog) : List Nat :=
  (if p.buckets.isEmpty && p.copies.isEmpty then [] else [8]) ++ (if p.ingests.isEmpty then [] else [9]) ++
  (if p.walks.isEmpty then [] else [11]) ++ (if p.embs.isEmpty then [] else [12]) ++ (if p.disp.isEmpty then [] else [13]) ++
  (if p.stems.isEmpty then [] else [14])

/-- What the checks give besides their consent: bands, ranks of the dispatch descriptor and of the copies, kernel image. -/
structure Checked where
  prog : Prog
  bands : List Band
  ranks : List Nat
  copies : List (List Nat)
  kernel : Bytes
  deriving DecidableEq, Repr

/-- The whole validation of a step program at admission. -/
def checkProg (d : Dev) (st : Step) : Except Rej Checked := do
  let g := st.g.toNat
  let p ← readProg d st
  let crews := setBits 64 st.p1.toNat
  let st1 := { st with prog := some p, crews := crews }
  checkJobs p crews
  let ker ← if leAt p.hdr 0xE 2 = 0 then .ok [] else fetch d g (w64At p.hdr 0x10) (4 * leAt p.hdr 0xE 2)
  need ((stepFeats p).all (feat d st.fn.toNat)) 0x5B 0
  checkConvs d g p
  let bands ← stepBands st1 p
  eachOk (checkWalk d g p) (List.range p.walks.length)
  eachOk (fun i => need (embOk p (p.embs.getD i [])) 0x30 i) (List.range p.embs.length)
  let ranks ← checkDisp d g p
  let cps ← checkFabric d g p
  eachOk (checkIngest d g p) (List.range p.ingests.length)
  need (!allFenced d p crews) 0x11 0
  pure { prog := p, bands := bands, ranks := ranks, copies := cps, kernel := ker }

end Sys2Proof.Machine
end

