-- ==== Sys2Proof/Machine/Admit.lean ====
section
/-! DEFINITION. Boundary action 6: candidates and holds (R39, R133, R390–R393, R213, R216, R267, R274, R288), admission
(R133, R136, R146, R192, R211, R216, R225, R274, R288), resumption (R399), and the search for an automatic preemption (R396). -/
namespace Sys2Proof.Machine

/-! ### Failure at admission -/

/-- Take a step out of its queue (R390). -/
def unqueue (d : Dev) (k : Nat) : Dev :=
  match tfind d.steps k with
  | none => d
  | some st => modG d st.g.toNat fun x =>
      { x with queues := tput x.queues st.queueNo.toNat ((tget [] x.queues st.queueNo.toNat).filter (· != k)) }

/-- The ERR register of the chapter that gives a status (R155, R203, R233, R250, R283, R319). -/
def recordRej (d : Dev) (st : Step) (r : Rej) : Dev :=
  let g := st.g.toNat
  let c := r.code
  let within (a b : Nat) : Bool := decide (a ≤ c) && decide (c ≤ b)
  if within 0x10 0x12 then (setBits 64 st.p1.toNat).foldl (fun d crew =>
    recordErr d (coxPage crew + rCOX_ERR) (coxPage crew + rCOX_ERRINFO) (c - 16) (r.info * 4 + c * 256)) d
  else if within 0x20 0x21 then recordErr d rSTEM_ERR rSTEM_ERRINFO (c - 0x20) (r.info + 256 * c)
  else if c = 0x02 ∧ 4 ≤ r.info then recordErr d rSTEM_ERR rSTEM_ERRINFO 2 (r.info - 4 + 256 * c)
  else if within 0x28 0x2C then recordErr d rKVM_ERR rKVM_ERRINFO (c - 0x28) (g + 16 * r.info + c * 2 ^ 16)
  else if c = 0x30 then recordErr d rEMB_ERR rEMB_ERRINFO 0 (g + 16 * r.info + 256 * c)
  else if c = 0x32 then recordErr d rEXD_ERR rEXD_ERRINFO 0 (g + c * 2 ^ 16)
  else if within 0x38 0x3E then fabErr d (c - 0x38) g 0 c 0
  else if within 0x40 0x42 then recordErr d rING_ERR rING_ERRINFO (c - 0x40) (g + 16 * r.info + 256 * c)
  else d

/-- A step fails at admission: it leaves its queue and ends, with no effect on memory (R155, R390). -/
def rejectStep (d : Dev) (k : Nat) (st : Step) (r : Rej) : Dev :=
  let d := match r.x with
    | some e => noteX d e
    | none => d
  endStep (unqueue (failStep (recordRej d st r) k r.code (unitCode 5 8)) k) k 2 r.code false

/-! ### Holds (R391) -/

/-- The save area is mapped with RD and WR over 36 MiB × CREWMAX + 1 MiB (R391). -/
def saveOk (d : Dev) (g : Nat) : Bool :=
  let x := gaunt d g
  let n := 36 * 2 ^ 20 * x.crewmax.toNat + 2 ^ 20
  x.savesz != 0 && (transRange d g x.saveva.toNat n false).isOk && (transRange d g x.saveva.toNat n true).isOk

/-- Crews that a gauntlet's steps hold, suspended steps included (R387). -/
def crewsOfG (d : Dev) (g : Nat) : List Nat :=
  (List.range 64).filter fun c => (liveSteps d g).any fun p => p.2.crews.contains c

/-- Admitted steps on a crew. -/
def onCrew (d : Dev) (c : Nat) : List Step := (tvals d.steps).filter fun st => st.st == .admitted && st.crews.contains c

/-- A crew is on, not fenced, and neither saving, restoring nor wiping (R183, R391). -/
def crewIdle (d : Dev) (c : Nat) : Bool :=
  let x := coxOf d c
  domOn d c && !x.saving && !x.restoring && !x.wiping && (List.range 9).all fun i => !(seatOf d (16 * c + i)).wiping

/-- A crew holds no step of another gauntlet and is idle. -/
def crewOpen (d : Dev) (g c : Nat) : Bool := crewIdle d c && (onCrew d c).all fun st => st.g.toNat == g

/-- A crew has the contexts, counters and resources that a program needs (R133, R511). -/
def crewFits (d : Dev) (p : Prog) (c : Nat) : Bool :=
  ((coxOf d c).counters.filter fun x => x.2.active).length + p.jobsets.length ≤ 64 &&
  (onCrew d c).all fun st =>
    let q := progOf st
    (pCtxs p).all fun a => !(pCtxs q).contains a && (pCtxs q).all fun b => crApart (crEntry p a) (crEntry q b)

/-- Ranges that conflict: one of them is written (R39). -/
def conflicts (a b : List (W64 × Nat × Bool)) : Bool :=
  a.any fun x => b.any fun y => (x.2.2 || y.2.2) && overlaps x.1.toNat (65536 * x.2.1) y.1.toNat (65536 * y.2.1)

/-- The range of a memory command at 64 KiB granularity (R374). -/
def cmdRange (op : Nat) (h : HostCmd) : W64 × Nat × Bool :=
  let a := h.p0.toNat / 65536 * 65536
  (BitVec.ofNat 64 a, (alignUp (h.p0.toNat + h.p2.toNat) 65536 - a) / 65536, op != 8)

/-- Ranges that memory commands in execution and a checkpoint hold as an admitted step would (R374, R470). -/
def otherRanges (d : Dev) (g : Nat) : List (W64 × Nat × Bool) :=
  (match (func d g).cur with
    | some c => if c.started && decide (8 ≤ c.op.toNat) && decide (c.op.toNat ≤ 10) then [cmdRange c.op.toNat c.cmd] else []
    | none => []) ++
  (match tfind d.ckpts g with
    | some c => if c.phase = 0 then [] else c.ranges
    | none => [])

/-- Every range that R39 holds for a gauntlet. -/
def heldRanges (d : Dev) (g : Nat) : List (W64 × Nat × Bool) :=
  (liveSteps d g).flatMap (fun p => (progOf p.2).access) ++ otherRanges d g

/-- The KV rules of R213. -/
def kvHeld (d : Dev) (g : Nat) (p : Prog) : Bool :=
  p.walks.any fun w =>
    let t := wkTab w
    !(kvOf d t).edits.isEmpty || (liveSteps d g).any fun q => (appends (progOf q.2)).any fun x => x.1 == t

/-- One step for each reduction group and cursor (R274, R288). -/
def oneHeld (d : Dev) (g : Nat) (p : Prog) : Bool :=
  let cur (q : Prog) : List Nat := (q.ingests.filter fun b => (idCtl b).testBit 4).map fun b => fld (idCtl b) 3 0
  (liveSteps d g).any fun q => (p.group.isSome && (progOf q.2).group == p.group) || (cur (progOf q.2)).any fun i => (cur p).contains i

/-- Free slots of the stem engine, lowest first (R201). -/
def stemSlots (d : Dev) : List Nat := (List.range 4).filter fun s => (tfind d.stems s).isNone

/-- The reasons that hold a candidate, in the order of R391's table; a program that cannot be checked yet is judged by what
its packet shows. -/
def holdsOf (d : Dev) (st : Step) (taken : List Nat) (access : List (W64 × Nat × Bool)) (p : Option Prog) : List Nat :=
  let g := st.g.toNat
  let crews := setBits 64 st.p1.toNat
  let mine := crewsOfG d g
  (if (gaunt d g).crewmax.toNat < (mine ++ crews.filter fun c => !mine.contains c).length then [0x6C] else []) ++
  (if crews.all (fun c => !taken.contains c && crewOpen d g c && (p.map fun p => crewFits d p c).getD true) && candOn d g crews p then [] else [0x6B]) ++
  (if conflicts access (heldRanges d g) then [0x6A] else []) ++
  (match p with
    | none => []
    | some p => (if kvHeld d g p || oneHeld d g p || decide ((stemSlots d).length < p.stems.length) then [0x6A] else []) ++
        (if fabUse p && !d.strk.aligned then [0x3F] else []))

/-- The access list of a queued step, as far as it can be read. -/
def queuedAccess (d : Dev) (st : Step) : List (W64 × Nat × Bool) :=
  match fetch d st.g.toNat st.p0.toNat 128 with
  | .error _ => []
  | .ok h => match fetchPkt d st.g.toNat (w64At h 0x40) 512 with
    | .error _ => []
    | .ok b => (accessOf b).toOption.getD []

/-! ### Frames for appends and staging (R216, R225) -/

/-- Entries without a page that an append needs: table and entry (R216). -/
def missing (d : Dev) (p : Prog) : List (Nat × Nat) :=
  (appends p).flatMap fun x =>
    let r := kvOf d x.1
    let len := r.len.toNat
    let n := wkNapp (walkOf p x.2)
    if n = 0 then []
    else
      let a := (len + 63) / 64
      ((List.range (((len + n - 1) / 64 + 1 - a) * r.hg)).map fun i => (x.1, a * r.hg + i)).filter fun e =>
        !(kvEntry d r r.gen.toNat e.2).testBit 0

/-- Staging frames of a step (R225). -/
def stagingOf (p : Prog) : Nat := p.walks.foldl (fun a w => a + wkNstage w) 0

/-- Allocate a step's frames and write its new entries in both copies (R214, R216); none where too few are free. -/
def takeFrames (d : Dev) (g : Nat) (p : Prog) : Option (List Nat × Dev) :=
  let ms := missing d p
  match allocS d g (ms.length + stagingOf p) with
  | none => none
  | some (fs, d) => some (fs.drop ms.length, (ms.zip fs).foldl (fun d m =>
      let r := kvOf d m.1.1
      let e := entryS g r.gtag.toNat m.2 false
      putKv (putKv d r r.gen.toNat m.1.2 e) r (r.gen + 1).toNat m.1.2 e) d)

/-- Too few frames are free: KVWAIT with spills begun, or NOPAGE (R216). -/
def framesShort (d : Dev) (g : Nat) (p : Prog) : Nat × Dev :=
  let short := (missing d p).length + stagingOf p - freeS d g
  if short ≤ freeL d g + comingS d g then (0x2C, startSpills d g (short - comingS d g))
  else (0x28, inc32 d rKVM_NOPAGECNT 1)

/-! ### Loading the crews (R133, R136, R146) -/

/-- Replace a 4-bit field. -/
def setNib (v i n : Nat) : Nat := v - fld v (4 * i + 3) (4 * i) * 2 ^ (4 * i) + n * 2 ^ (4 * i)

/-- A scale slot filled from its record (R95). -/
def fillSlot (p : Prog) (va : W64) : ScaleSlot :=
  match (p.recs0.find? fun r => r.1 == va.toNat).map (·.2) with
  | none => ScaleSlot.reset
  | some b => { scale := BitVec.ofNat 32 (w32At b 0), rscale := BitVec.ofNat 32 (w32At b 4), tid := BitVec.ofNat 32 (w32At b 0x10)
                fmt := BitVec.ofNat 4 (w32At b 0x14 % 16), recVa := va, run := Running.reset }

/-- The scale slots of a context: those filled from no record are not listed. -/
def slotsOf (p : Prog) : Tbl ScaleSlot :=
  ((List.range 16).filter fun i => p.scales.getD i 0 != 0).map fun i => (i, fillSlot p (p.scales.getD i 0))

/-- A context is loaded on a seat with its resources (R133, R511). -/
def loadCtx (k : Nat) (p : Prog) (s : Seat) (c : Nat) : Seat :=
  let e := crEntry p c
  let tiles := setBits 8 (leAt e 2 1)
  { s with
    acccfg := BitVec.ofNat 32 (tiles.foldl (fun v i => setNib v i (8 + 4 * b2n ((leAt e 3 1).testBit i) + c)) s.acccfg.toNat)
    tregcfg := BitVec.ofNat 64 ((setBits 16 (leAt e 4 2)).foldl (fun v i => setNib v i (8 + c)) s.tregcfg.toNat)
    scrcfg := BitVec.ofNat 64 (s.scrcfg.toNat - fld s.scrcfg.toNat (16 * c + 15) (16 * c) * 2 ^ (16 * c) +
      (leAt e 0 1 + 256 * leAt e 1 1) * 2 ^ (16 * c))
    tiles := tiles.foldl (fun t i => tput t i TileStat.reset) s.tiles
    ctxs := tput s.ctxs c { Ctx.reset with slots := slotsOf p, step := some k } }

/-- A crew takes contexts of a gauntlet: what it held of another is wiped first (R77, R170, R398). -/
def takeCrew (d : Dev) (g crew : Nat) : Dev :=
  let x := coxOf d crew
  let d := if x.valid && x.gnt.toNat != g then
      modCox (wipeCrew d crew) crew fun x => { x with lines := [], rr := [], cacheValid := false, wiping := true }
    else d
  let w := BitVec.ofNat 4 g
  let d := modCox d crew fun x => { x with gnt := w, valid := true, cacheGnt := w }
  (List.range 9).foldl (fun d i => modSeat d (16 * crew + i) fun s => { s with gnt := w, valid := true }) d

/-- Work counters of a step on a crew: the lowest free ones, in job-set order (R133, R146, R151). -/
def mapCounters (k : Nat) (st : Step) (crew : Nat) (d : Dev) (j : Nat) : Dev :=
  let p := progOf st
  let b := jsOf p j
  let x := coxOf d crew
  match (List.range 64).find? fun n => !(cntOf x n).active with
  | none => d
  | some n =>
    let die := jsGd b ≠ 1
    let w : WCnt := { WCnt.reset with fin := gridSize st b crew, jobset := j, slot := BitVec.ofNat 2 (pSlot p), active := true, die := decide die }
    let d := modCox d crew fun x => { x with counters := tput x.counters n w }
    if die then { d with dies := tput d.dies (crew / 16) (tput (tget [] d.dies (crew / 16)) (dieKey k j) w) } else d

/-- A step is loaded into a crew (R133). -/
def loadCrew (k : Nat) (st : Step) (ker : Bytes) (d : Dev) (crew : Nat) : Dev :=
  let p := progOf st
  let d := takeCrew d st.g.toNat crew
  let d := (List.range 8).foldl (fun d l => match physOf d crew l with
    | none => d
    | some i =>
      let u := 16 * crew + i
      let d := if ker.isEmpty then d else putBytes d (kernBase u + 4 * leAt p.hdr 0xC 2) ker
      modSeat d u fun s => (pCtxs p).foldl (loadCtx k p) s) d
  let d := modCox d crew fun x => { x with slots := tput x.slots (pSlot p) k }
  (List.range p.jobsets.length).foldl (mapCounters k st crew) d

/-! ### Admission (R392, R393) -/

/-- Buckets of a step take their tags from the group's counter (R274). -/
def bucketsOf (p : Prog) (tcnt : W16) : List Bucket :=
  (List.range p.buckets.length).map fun i =>
    { desc := p.buckets.getD i [], tag := tcnt + BitVec.ofNat 16 i, full := false, chunksDone := [], parts := [], nan := 0, inf := 0, ovf := 0
      firstNan := 0xFFFF, firstInf := 0xFFFF, stalls := 0, landed := false, released := false }

/-- The group's bucket-tag counter. -/
def tcntOf (d : Dev) (g : Nat) (p : Prog) : W16 :=
  (p.group.bind fun n => (tfind (gaunt d g).groups n).map (·.tcnt)).getD 0

/-- Ingest descriptors start with their cursor or FIRST (R288). -/
def ingsOf (d : Dev) (g : Nat) (p : Prog) : Tbl IngRun :=
  (List.range p.ingests.length).map fun i =>
    let b := p.ingests.getD i []
    (i, { first := if (idCtl b).testBit 4 then tget 0 (gaunt d g).cursors (fld (idCtl b) 3 0) else BitVec.ofNat 64 (w64At b 0x10)
          parse := [], recs := [], finals := [], batches := [], complete := false })

/-- The step as admission makes it. -/
def admitted (d : Dev) (st : Step) (c : Checked) (staging : List Nat) : Step :=
  let g := st.g.toNat
  let p := c.prog
  { st with
    st := .admitted, adm := (gaunt d g).adm + 1, prog := some p, crews := setBits 64 st.p1.toNat, elapsed := 0, strokes := 0, fresh := false
    alone := true, bands := c.bands, staging := staging, buckets := bucketsOf p (tcntOf d g p)
    round := if p.disp.isEmpty then none else
      some { phase := 0, ranks := c.ranks, emap := [], counts := [], offs := [], sends := [], returns := [], placed := [], origin := []
             results := [], sent := 0, dropped := 0, lost := 0 }
    copies := (List.range p.copies.length).map fun i => (i, { ranks := c.copies.getD i [], started := false, dones := [], complete := false })
    ings := ingsOf d g p }

/-- What peers sent before the step was admitted is delivered (R245, R274). -/
def deliverEarly (d : Dev) (k g : Nat) (p : Prog) : Dev :=
  let d := if p.disp.isEmpty then d
    else
      let l := (gaunt d g).earlyX
      l.foldl (fun d m => match tfind d.steps k with
        | some st => expertDeliver d k st m.1 m.2.1 m.2.2
        | none => d) (modG d g fun x => { x with earlyX := [] })
  match p.group.bind fun n => (tfind (gaunt d g).groups n).map fun r => (n, r) with
  | none => d
  | some (n, r) => r.early.foldl (fun d m => redArrive d g m.1 m.2.1 m.2.2)
      (modG d g fun x => { x with groups := tput x.groups n { r with early := [] } })

/-- A step is admitted to every crew of its P1 (R392). -/
def admitStep (d : Dev) (k : Nat) (st : Step) (c : Checked) (staging : List Nat) : Dev :=
  let g := st.g.toNat
  let p := c.prog
  let st := admitted d st c staging
  let d := { unqueue d k with steps := tput d.steps k st }
  let d := modG d g fun x => { x with adm := st.adm, groups := match p.group with
    | some n => match tfind x.groups n with
      | some r => tput x.groups n { r with tcnt := r.tcnt + BitVec.ofNat 16 p.buckets.length }
      | none => x.groups
    | none => x.groups }
  let d := dramCount d g ((progRanges d st p).flatMap fun r => (transRange d g r.1 r.2 false).toOption.getD [])
  let d := (walked p).foldl (fun d x => modKv d x.1 fun r => { r with live := r.live + 1 }) d
  let d := (appends p).foldl (fun d x => modKv d x.1 fun r => { r with pend := BitVec.ofNat 32 (wkNapp (walkOf p x.2)) }) d
  let d := st.crews.foldl (loadCrew k st c.kernel) d
  let d := { d with stems := (List.zip (stemSlots d) (List.range p.stems.length)).foldl (fun t x => tput t x.1 (k, x.2, 0, false, false)) d.stems }
  deliverEarly d k g p

/-! ### Candidates (R391, R392) -/

/-- Action 6 as it goes: the device, crews reserved, and the candidate for which a preemption is sought (R396). -/
structure Pass where
  d : Dev
  taken : List Nat
  auto : Option Nat
  deriving DecidableEq, Repr

/-- A candidate is held for its first reason, and what its program names is known (R437). One held only for NOCREW reserves the
crews that are free (R392). -/
def holdStep (x : Pass) (k : Nat) (st : Step) (p : Option Prog) (why : List Nat) (free : List Nat) : Pass :=
  let only := why == [0x6B]
  let n := if only then st.heldNoCrew + 1 else 0
  { d := modStep x.d k fun s => { s with hold := BitVec.ofNat 8 (why.headD 0), heldNoCrew := n, prog := p <|> s.prog }
    taken := if only then x.taken ++ free.filter fun c => !x.taken.contains c else x.taken
    auto := x.auto <|> (if only ∧ (gaunt x.d st.g.toNat).pwait.toNat ≤ n then some k else none) }

/-- The head of a queue as a candidate (R391). -/
def trySubmit (x : Pass) (k : Nat) : Pass :=
  let d := x.d
  match tfind d.steps k with
  | none => x
  | some st =>
    let g := st.g.toNat
    let crews := setBits 64 st.p1.toNat
    let fail (c : Nat) : Pass := { x with d := rejectStep d k st ⟨c, 0, none⟩ }
    if (gaunt d g).crewmax.toNat < crews.length then fail 0x68
    else if !saveOk d g then fail 0x69
    else if crews.any fun c => (coxOf d c).fenced then fail 0x11
    else
      let chk := checkProg d st
      let p : Option Prog := chk.toOption.map (·.prog)
      let access := (p.map (·.access)).getD (queuedAccess d st)
      let why := holdsOf d st x.taken access p
      if !why.isEmpty then
        holdStep x k st p why (crews.filter fun c => !x.taken.contains c && crewOpen d g c && (p.map fun p => crewFits d p c).getD true)
      else match chk with
        | .error r => { x with d := rejectStep d k st r }
        | .ok c => match takeFrames d g c.prog with
          | none =>
            let (why, d) := framesShort d g c.prog
            holdStep { x with d := d } k st p [why] []
          | some (staging, d) => { x with d := admitStep d k st c staging }

/-- Steps of a resume set, and the crews that they hold (R399). -/
def setSteps (d : Dev) (g : Nat) (r : W64 × Nat) : List (Nat × Step) :=
  d.steps.filter fun p => p.2.st == .suspended && p.2.g.toNat == g && p.2.rset == some r

/-- The resume sets of a gauntlet in ascending order of their lowest admission number. -/
def resumeSets (d : Dev) (g : Nat) : List (W64 × Nat) :=
  let l := sortBy (fun (a b : Nat × Step) => decide (a.2.adm.toNat ≤ b.2.adm.toNat))
    (d.steps.filter fun p => p.2.st == .suspended && p.2.g.toNat == g)
  l.foldl (fun a p => match p.2.rset with
    | some r => if a.contains r then a else a ++ [r]
    | none => a) []

/-- Crews of some steps. -/
def crewsOf (l : List (Nat × Step)) : List Nat := (List.range 64).filter fun c => l.any fun p => p.2.crews.contains c

/-- A resume set goes back to its crews, whose restores begin (R399); where a block does not match, its steps fail with
SAVE, its seats are wiped and its slots freed. -/
def resumeSet (d : Dev) (g : Nat) (l : List (Nat × Step)) : Dev :=
  let saved (c : Nat) : Option (Nat × Saved) := l.findSome? fun p => if p.2.crews.contains c then savedFor d g c p.1 else none
  let cs := crewsOf l
  if cs.all fun c => match saved c with
      | some (key, b) => blockOk d g (key % 64) c b
      | none => false then
    let d := l.foldl (fun d p => modStep d p.1 fun st => { st with st := .admitted, hold := 0, heldNoCrew := 0, rset := none }) d
    cs.foldl (fun d c => modCox (takeCrew d g c) c fun x => { x with restoring := true }) d
  else
    let d := cs.foldl (fun d c => match saved c with
      | some (key, _) => { wipeCrew d c with saves := tdel d.saves key }
      | none => wipeCrew d c) d
    l.foldl (fun d p => endStep (failStep d p.1 0x69 (unitCode 5 8)) p.1 2 0x69 false) d

/-- A resume set as a candidate (R399). -/
def tryResume (x : Pass) (g : Nat) (r : W64 × Nat) : Pass :=
  let d := x.d
  let l := setSteps d g r
  let cs := crewsOf l
  let ok (c : Nat) : Bool := !x.taken.contains c && crewIdle d c && (onCrew d c).isEmpty
  let doms := l.all fun p => candOn d g p.2.crews (some (progOf p.2))
  let why := (if cs.all ok && doms then [] else [0x6B]) ++ (if l.any (fun p => fabUse (progOf p.2)) && !d.strk.aligned then [0x3F] else [])
  match l.head? with
  | none => x
  | some (k, st) =>
    if cs.any fun c => (coxOf d c).fenced then { x with d := l.foldl (fun d p => endStep (failStep d p.1 0x11 (unitCode 5 8)) p.1 2 0x11 false) d }
    else if why.isEmpty then { x with d := resumeSet d g l, taken := x.taken ++ cs }
    else
      let y := holdStep x k st none why (cs.filter ok)
      { y with d := l.foldl (fun d p => modStep d p.1 fun s => { s with hold := BitVec.ofNat 8 (why.headD 0) }) y.d }

/-- Gauntlets in the order of R391. -/
def turnOrder (d : Dev) : List Nat :=
  sortBy (fun a b => decide ((gaunt d a).vt.toNat < (gaunt d b).vt.toNat) || ((gaunt d a).vt == (gaunt d b).vt && decide (a ≤ b)))
    ((allG d).filter fun g => (gaunt d g).tearing == 0)

/-- Heads of a gauntlet's queues 0–3; none while a checkpoint or a restore holds admission (R45, R472). -/
def headsOf (d : Dev) (g : Nat) : List Nat :=
  if (gaunt d g).drainHold then [] else (List.range 4).filterMap fun q => (tget [] (gaunt d g).queues q).head?

/-- Boundary action 6 (R391). No set resumes while a checkpoint copies its blocks (R469). -/
def admission (d : Dev) : Dev :=
  let heads := (turnOrder d).map fun g => (g, if (gaunt d g).ckpt then [] else resumeSets d g, headsOf d g)
  let x := heads.foldl (fun x h => h.2.2.foldl trySubmit (h.2.1.foldl (fun x r => tryResume x h.1 r) x)) ⟨{ d with autoFor := none }, [], none⟩
  { x.d with autoFor := x.auto }

/-! ### Automatic preemption (R396) -/

/-- The crews of a candidate that other gauntlets' steps would still hold if some steps were suspended. -/
def stillHeld (d : Dev) (g : Nat) (crews : List Nat) (gone : List Nat) : Bool :=
  crews.any fun c => d.steps.any fun p => p.2.st == .admitted && p.2.g.toNat != g && p.2.crews.contains c && !gone.contains p.1

/-- Victims taken in order until the crews are free; none where they cannot be freed. -/
def takeVictims (d : Dev) (g : Nat) (crews : List Nat) : List Nat → List Nat → List Nat
  | [], gone => if stillHeld d g crews (withCrews d d.steps.length gone) then [] else gone
  | k :: t, gone =>
    if !stillHeld d g crews (withCrews d d.steps.length gone) then gone else takeVictims d g crews t (gone ++ [k])

/-- The steps that an automatic preemption suspends at this boundary (R396). -/
def victims (d : Dev) : List Nat :=
  match d.autoFor.bind fun k => (tfind d.steps k).map fun st => (k, st) with
  | none => []
  | some (_, s) =>
    let g := s.g.toNat
    let crews := match s.rset with
      | some r => crewsOf (setSteps d g r)
      | none => setBits 64 s.p1.toNat
    let cand := d.steps.filter fun p => p.2.st == .admitted && p.2.g.toNat != g && p.2.fl.late && p.2.crews.any (fun c => crews.contains c) &&
      !(gaunt d p.2.g.toNat).noauto && decide ((gaunt d g).vt.toNat < (gaunt d p.2.g.toNat).vt.toNat)
    let order (a b : Nat × Step) : Bool :=
      let va := (gaunt d a.2.g.toNat).vt.toNat
      let vb := (gaunt d b.2.g.toNat).vt.toNat
      decide (vb < va) || (va == vb && decide (b.2.adm.toNat ≤ a.2.adm.toNat))
    takeVictims d g crews ((sortBy order cand).map (·.1)) []

end Sys2Proof.Machine
end

