-- ==== Sys2Proof/Machine/CmdOps.lean ====
section
/-! DEFINITION. What every Yalon command shares (R8, R366–R377, R380, R382, R420): the command in execution in a ring, the
checks made before its own, its ends, deferred replies, and commands that wait for a boundary. -/
namespace Sys2Proof.Machine

/-- A whole parameter. -/
def pAny : Nat := 2 ^ 64 - 1

/-- Opcodes that only the physical function issues (R377). -/
def pfOnly (op : Nat) : Bool := [0x18, 0x19, 0x20, 0x21, 0x22, 0x23, 0x40, 0x41, 0x58, 0x59, 0x61].contains op

/-- Opcodes accepted before OPEN (R372), OPEN itself among them. -/
def beforeOpen (op : Nat) : Bool := [0, 1, 3, 0x60].contains op

/-- Feature bit that an opcode needs (R380). FABCFG, by which the feature comes to be offered, needs none (log 66). -/
def featureOf (op : Nat) : Option Nat :=
  if [0x41, 0x42, 0x43, 0x44].contains op then some 8
  else if op = 0x48 then some 9
  else if op = 0x49 ∨ op = 0x4A then some 10
  else if decide (0x38 ≤ op) && decide (op ≤ 0x3C) then some 11
  else none

/-- The parameters of a packet. -/
def params (h : HostCmd) : List W64 := [h.p0, h.p1, h.p2, h.p3, h.p4, h.p5, h.p6]

/-- Reserved bits of FLAGS and of the parameters are zero (R8, R370): `masks` gives the bits that each may carry. -/
def paramsOk (masks : List Nat) (h : HostCmd) : Bool :=
  decide (h.flags.toNat < 2) &&
    (List.range 7).all fun i => ((params h).getD i 0).toNat &&& (pAny - masks.getD i 0) == 0

/-- The interface of a gauntlet is CONFIG_LOCKED or RUN (R382). -/
def locked (d : Dev) (g : Nat) : Bool := (func d g).tdi == 1 || (func d g).tdi == 2

/-- The interface of any virtual function is locked. -/
def anyLocked (d : Dev) : Bool := (List.range 16).any fun g => g != 0 && locked d g

/-- Commands refused while an interface is locked (R382). -/
def tdiRefuses (d : Dev) (op : Nat) (h : HostCmd) : Bool :=
  let g := fld h.p0.toNat 3 0
  if op = 0x18 ∨ op = 0x19 ∨ op = 0x41 then locked d g
  else if op = 0x22 then h.p1.toNat.testBit 4 && locked d g
  else if op = 0x59 ∨ op = 0x61 then anyLocked d
  else false

/-- With SECURE agreed, the stream is secure and a virtual function's interface is in RUN (R380). -/
def secureOk (d : Dev) (f : Nat) : Bool := (func d f).ide && (f == 0 || (func d f).tdi == 2)

/-- The checks before a command's own: the reason that refuses it. -/
def cmdGate (d : Dev) (op : Nat) (masks : List Nat) (rsv : Nat) (h : HostCmd) : Option Nat :=
  let f := h.fn.toNat
  if d.pst.lcstate = 4 ∧ op ≠ 0 ∧ op ≠ 3 then some 0x70
  else if pfOnly op && f != 0 then some 0x59
  else if !beforeOpen op && !((func d f).openF && (gaunt d f).present) then some 0x5A
  else if feat d f 3 && !([0, 3, 0x60].contains op) && !secureOk d f then some 0x5A
  else if (featureOf op).any fun b => !feat d f b then some 0x5B
  else if tdiRefuses d op h then some 0x5C
  else if !paramsOk masks h then some rsv
  else none

/-- A packet is the command in execution in its ring, or the ring is free (R373). What waits for its boundary, or moves its
chunks, is not started again. -/
def mayStart (d : Dev) (op : Nat) (h : HostCmd) : Bool :=
  match (func d h.fn.toNat).cur with
  | none => true
  | some c => c.op.toNat == op && decide (c.cmd = h) && !c.started && !(d.bnds.any fun w => w.op.toNat == op && decide (w.cmd = h))

/-- A command starts. -/
def startCmd (d : Dev) (op : Nat) (h : HostCmd) : Dev :=
  modF d h.fn.toNat fun x => { x with cur := some { op := BitVec.ofNat 8 op, cmd := h, off := 0, tries := 0, started := false } }

/-- A command ends with STATUS OK. -/
def doneCmd (d : Dev) (h : HostCmd) (op r0 r1 : Nat) : Dev := endCmd (replyOk d h op r0 r1) h.fn.toNat
/-- A command is rejected: found invalid before any effect. -/
def rejCmd (d : Dev) (h : HostCmd) (op code : Nat) : Dev := endCmd (replyRej d h op code) h.fn.toNat
/-- A command fails. -/
def failCmd (d : Dev) (h : HostCmd) (op code : Nat) : Dev := endCmd (replyFail d h op code 0) h.fn.toNat

/-- A command of a row: it starts, passes the common checks, and has its own effect. The halted command processor of PWAIT
takes none (R442). -/
def hostRun (op : Nat) (masks : List Nat) (rsv : Nat) (h : HostCmd) (body : Dev → Dev) (d : Dev) : Dev :=
  if !mayStart d op h || d.pwait.active then d
  else
    let d := startCmd d op h
    match cmdGate d op masks rsv h with
    | some c => rejCmd d h op c
    | none => body d

/-- A command of a row, run. -/
def hostCmd (op : Nat) (masks : List Nat) (rsv : Nat) (h : HostCmd) (body : Dev → Dev) (s : State) :
    Host.Outcome State Fault Refusal := run (hostRun op masks rsv h body) s

/-- The last item of a deferred command has ended; its reply waits (R373). -/
def deferCmd (d : Dev) (op g key : Nat) (h : HostCmd) : Dev :=
  endCmd { d with waits := d.waits ++ [{ op := BitVec.ofNat 8 op, cmd := h, g := BitVec.ofNat 4 g, key := key }] } h.fn.toNat

/-- A command waits, with its ring, for a boundary (R374, R376). -/
def atBoundary (d : Dev) (op g key : Nat) (h : HostCmd) : Dev :=
  { d with bnds := d.bnds ++ [{ op := BitVec.ofNat 8 op, cmd := h, g := BitVec.ofNat 4 g, key := key }] }

/-! ### Host memory (R384) -/

/-- Read host memory for a command; none while the link is down. -/
def hostGet (d : Dev) (f a n : Nat) : Option (Bytes × Dev) :=
  if d.ident.up then some (hostPeek d a n, hostRdCount d f n) else none

/-- Write host memory for a command; none while the link is down. -/
def hostPut (d : Dev) (f a : Nat) (bs : Bytes) : Option Dev := if d.ident.up then some (hostWr d f a bs) else none

/-- A command that writes a result buffer and is done. -/
def putDone (d : Dev) (h : HostCmd) (op a : Nat) (bs : Bytes) (r0 r1 : Nat) : Dev :=
  match hostPut d h.fn.toNat a bs with
  | some d => doneCmd d h op r0 r1
  | none => failCmd d h op 0x61

/-! ### Extents (R160, R161) -/

/-- An extent: LPDDR5X or stacked, and its number: 60 × die + extent in a stack, the physical extent in LPDDR5X. -/
abbrev Ext := Bool × Nat

/-- The byte of an extent in MEM_SOWN or MEM_LOWN (R184). -/
def extByte (d : Dev) (e : Ext) : Nat := (tget (0 : Byte) (if e.1 then d.lown else d.sown) e.2).toNat
/-- State of an extent (R161). -/
def extState (d : Dev) (e : Ext) : Nat := fld (extByte d e) 5 4
/-- Owner of an extent. -/
def extOwner (d : Dev) (e : Ext) : Nat := fld (extByte d e) 3 0

/-- Set the owner and state of an extent. -/
def setExt (d : Dev) (e : Ext) (owner st : Nat) : Dev :=
  let v := BitVec.ofNat 8 (owner + 16 * st)
  if e.1 then { d with lown := tset (0 : Byte) d.lown e.2 v } else { d with sown := tset (0 : Byte) d.sown e.2 v }

/-- Extents that P1 and P2 of ASSIGN and RECLAIM name; none where a field or the range is wrong (R161, R377). -/
def extsOf (d : Dev) (h : HostCmd) : Option (List Ext) :=
  let p1 := h.p1.toNat
  let n := h.p2.toNat
  let first := fld p1 26 16
  let kind := fld p1 1 0
  let limit := if kind = 0 then 60 else if d.opt1T then 1016 else 2040
  if decide (2 ≤ kind) || n == 0 || decide (limit < first + n) then none
  else some ((List.range n).map fun i =>
    if kind = 0 then (false, 60 * fld p1 4 3 + first + i) else (true, first + i))

/-- Bytes that a measured command extends M7 with (R411; log 67). -/
def m7Item (op : Nat) (h : HostCmd) : Bytes := leBytes 1 op ++ (params h).flatMap fun p => leBytes 8 p.toNat

/-- An item extends a measurement register: Mi ← SHA3-256(Mi ‖ SHA3-256(item)) (R411). -/
def extendM (m : BitVec 256) (item : Bytes) : BitVec 256 :=
  Config.sha3 (leBytes 32 m.toNat ++ leBytes 32 (Config.sha3 item).toNat)

/-- A gauntlet's M7 is extended at the next boundary. -/
def m7Note (d : Dev) (g op : Nat) (h : HostCmd) : Dev := modG d g fun x => { x with m7due := x.m7due ++ [m7Item op h] }

/-! ### Deferred replies (R373) -/

/-- The event of a deferred reply has arrived: ASSIGN and RECLAIM, every extent out of state 2; GDESTROY, teardown done;
CLOSE, the steps admitted then have ended; KVDESTROY, no walker lives. -/
def settled (d : Dev) (w : Waiting) : Bool :=
  let op := w.op.toNat
  if op = 0x18 ∨ op = 0x19 then ((extsOf d w.cmd).getD []).all fun e => extState d e != 2
  else if op = 0x21 then (gaunt d w.g.toNat).tearing == 0
  else if op = 2 then (liveSteps d w.g.toNat).all fun p => decide (w.key < p.2.adm.toNat)
  else if op = 0x3A then (kvOf d w.key).live + (kvOf d w.key).livePrev == 0
  else false

/-- A destroyed table's root and frames are free (R207). -/
def kvFree (d : Dev) (t : Nat) : Dev :=
  let r := kvOf d t
  let frames := (List.range (kvEntries r)).filterMap fun i =>
    let e := kvEntry d r r.gen.toNat i
    if e.testBit 0 then some (entryFrame e) else none
  let n := (kvEntries r * 8 + 65535) / 65536
  let run (a : W64) : List (Bool × Nat) := (List.range n).map fun i => (false, a.toNat / 65536 + i)
  let d := freeFrames d r.gnt.toNat (frames ++ r.defer ++ run r.tab0 ++ run r.tab1 ++ (r.spills.map fun x => (true, x.2)) ++
    r.edits.filterMap fun x => if x.1 = 4 then some (true, x.2.2) else if x.1 = 3 then some (false, x.2.2) else none)
  { d with kv := tdel d.kv t }

/-- Write the deferred replies that are due. -/
def settle (d : Dev) : Dev :=
  d.waits.foldl (fun d w =>
    if settled d w then
      let d := { d with waits := d.waits.erase w }
      let d := if w.op.toNat = 0x3A then kvFree d w.key else d
      replyOk d w.cmd w.op.toNat 0 0
    else d) d

/-! ### The end of a checkpoint or restore (R469–R472, R477) -/

/-- CKPT event: opcode, status byte, CKSTROKE. -/
def ckEvent (d : Dev) (g : Nat) (c : Ckpt) (status code : Nat) : Dev :=
  event d 0x0B (some g) code [if c.restore then 0x2B else 0x2A, status, c.stroke.toNat] [g]

/-- A checkpoint or restore is over: its ranges and its hold on admission are released. -/
def ckGone (d : Dev) (g : Nat) : Dev :=
  let op (w : Waiting) : Bool := (w.op == 0x2A || w.op == 0x2B) && w.g.toNat == g
  modG { d with ckpts := tdel d.ckpts g, waits := d.waits.filter fun w => !op w } g fun x => { x with ckpt := false, drainHold := false, ckDones := [] }

/-- It ends with a status other than OK. -/
def ckFail (d : Dev) (g code res1 : Nat) : Dev :=
  match tfind d.ckpts g with
  | none => d
  | some c => ckEvent (replyFail (ckGone d g) c.cmd (if c.restore then 0x2B else 0x2A) code res1) g c 2 code

/-- Every command of a function that has not ended, or whose reply waits, is CANCELLED (R372, R383, R384, R407). -/
def cancelCmds (d : Dev) (f : Nat) : Dev :=
  let d := ckFail d f 0x5F 0
  let ws := d.waits.filter fun w => w.cmd.fn.toNat == f
  let d := { d with waits := d.waits.filter fun w => w.cmd.fn.toNat != f, bnds := d.bnds.filter fun w => w.cmd.fn.toNat != f }
  let d := ws.foldl (fun d w => replyFail d w.cmd w.op.toNat 0x5F 0) d
  match (func d f).cur with
  | some c => failCmd d c.cmd c.op.toNat 0x5F
  | none => d

end Sys2Proof.Machine
end

