-- ==== Sys2Proof/Machine/Repair.lean ====
section
/-! DEFINITION. The repair map (R460–R464): entries, when each may be applied, and what applying it switches. -/
namespace Sys2Proof.Machine

/-- No spare: a fence or a withdrawal (R464). -/
def noSpare : W32 := 0xFFFFFFFF

/-- The 16 bytes of a repair-map entry (R464). -/
def repairBytes (r : RepairRec) : Bytes :=
  leBytes 2 r.kind.toNat ++ [r.state, r.trigger] ++ leBytes 8 r.unit.toNat ++ leBytes 4 r.spare.toNat

/-- The REPAIR event (R477, R512). -/
def repairEvent (d : Dev) (r : RepairRec) : Dev :=
  let b := repairBytes r
  event d 0x0A none 0 [leAt b 0 8, leAt b 8 8] []

/-- Entries of a kind that are applied. -/
def applied (d : Dev) (kind : Nat) : List RepairRec := d.pst.repairs.filter fun r => r.kind.toNat == kind && r.state == 2

/-- An SRAM die is withdrawn (R462). -/
def withdrawn (d : Dev) (n l : Nat) : Bool := (applied d 8).any fun r => r.unit.toNat == 5 * n + l

/-- A decode context is fenced (R452; log 72). -/
def ctxFenced (d : Dev) (c : Nat) : Bool := (applied d 9).any fun r => r.unit.toNat == 256 + c

/-- An optical engine is fenced (R452; log 72). -/
def engFenced (d : Dev) (e : Nat) : Bool := (applied d 9).any fun r => r.unit.toNat == 512 + e

/-- Write an entry that is already applied: a fence or a withdrawal (R454, R462). -/
def repairMade (d : Dev) (kind unit : Nat) : Dev :=
  if (applied d kind).any (fun r => r.unit.toNat == unit) || decide (65536 ≤ d.pst.repairs.length) then d
  else
    let r : RepairRec := { kind := BitVec.ofNat 8 kind, state := 2, trigger := 0, unit := BitVec.ofNat 64 unit, spare := noSpare }
    repairEvent { d with pst := { d.pst with repairs := d.pst.repairs ++ [r] } } r

/-- A trigger of R461 adds a PENDING entry; a unit has one at a time, and a full map takes none (R464; log 73). -/
def repairAdd (d : Dev) (kind trigger unit : Nat) : Dev :=
  let r : RepairRec := { kind := BitVec.ofNat 8 kind, state := 1, trigger := BitVec.ofNat 8 trigger, unit := BitVec.ofNat 64 unit
                         spare := noSpare }
  if d.pst.repairs.any fun x => x.kind == r.kind && x.unit == r.unit && x.state == 1 then d
  else if 65536 ≤ d.pst.repairs.length then event d 0x0A none 0 [leAt (repairBytes r) 0 8, leAt (repairBytes r) 8 8] []
  else repairEvent { d with pst := { d.pst with repairs := d.pst.repairs ++ [r] } } r

/-- A trigger whose code the spec does not give: the code is a free value (log 73). -/
def repairTrigger (d : Dev) (kind unit : Nat) : Dev :=
  let (v, d) := freeVal d
  repairAdd d kind (v.toNat % 256) unit

/-- Queues that R351 has disabled. -/
def qDead (d : Dev) : List Nat := (d.queues.filter fun p => !p.2.enable && decide (3 ≤ p.2.failsAt.length)).map (·.1)

/-- Fence a crew (R462). -/
def fenceCrew (d : Dev) (c : Nat) : Dev := modCox (repairMade d 7 c) c fun x => { x with fenced := true }

/-- S8 takes the number of a failed seat; a crew without a sound S8 is fenced (R462). The failed seat answers to no number. -/
def replaceS8 (d : Dev) (u : Nat) : Dev × W32 :=
  let c := u / 16
  let s := seatOf d u
  let r := seatOf d (16 * c + 8)
  if s.logical = 15 then (d, 8)
  else if u % 16 ≠ 8 ∧ r.logical = 8 ∧ !r.fenced then
    let d := modSeat d (16 * c + 8) fun x => { x with logical := s.logical }
    (modSeat d u fun x => { x with fenced := true, logical := 15 }, 8)
  else if u % 16 = 8 ∧ s.logical = 8 then (modSeat d u fun x => { x with fenced := true, logical := 15 }, noSpare)
  else (fenceCrew d c, noSpare)

/-- A reserve lane core takes the number of a failed one (R130, R462); the third failure replaces the seat. -/
def replaceLane (d : Dev) (u l : Nat) : Dev × W32 :=
  let w := (seatOf d u).spare.toNat
  if (w.testBit 0 && fld w 12 8 == l) then (d, 32)
  else if (w.testBit 1 && fld w 20 16 == l) then (d, 33)
  else if !w.testBit 0 then (modSeat d u fun s => { s with spare := BitVec.ofNat 32 (w + 1 + l * 256) }, 32)
  else if !w.testBit 1 then (modSeat d u fun s => { s with spare := BitVec.ofNat 32 (w + 2 + l * 65536) }, 33)
  else replaceS8 d u

/-- Bank of a row of an SRAM die (R460; log 72): die and bank. -/
def rowBank (unit : Nat) : Nat × Nat := (unit / (12 * 2 ^ 28), unit / 1024 % 48)

/-- Switch the unit of an entry; answers the spare used, and whether the entry is applied. -/
def switchUnit (d : Dev) (r : RepairRec) : Dev × W32 × Bool :=
  let u := r.unit.toNat
  let others := (applied d r.kind.toNat).filter fun x => x.unit != r.unit
  match r.kind.toNat with
  | 1 => let (d, s) := replaceS8 d (u % 1024); (d, s, true)
  | 2 => let (d, s) := replaceLane d (u / 64 % 1024) (u % 32); (d, s, true)
  | 3 =>
    let n := (others.filter fun x => rowBank x.unit.toNat == rowBank u).length
    if n < 64 then (d, BitVec.ofNat 32 n, true) else (repairMade d 8 (rowBank u).1, noSpare, true)
  | 4 =>
    let n := (others.filter fun x => fld x.unit.toNat 13 12 == fld u 13 12).length
    if n < 4096 then (d, BitVec.ofNat 32 n, true) else (d, noSpare, false)
  | 5 =>
    let p := u / 16 % 16
    if (portOf d p).sparefor = 15 then (modPort d p fun x => { x with sparefor := BitVec.ofNat 4 u }, 8, true)
    else if (portOf d p).sparefor = BitVec.ofNat 4 u then (d, 8, true) else (d, noSpare, false)
  | 6 =>
    let n := (others.filter fun x => x.unit.toNat / 16 == u / 16).length
    if n < 2 then (d, BitVec.ofNat 32 (9 + n), true) else (d, noSpare, false)
  | 7 => (modCox d (u % 64) fun x => { x with fenced := true }, noSpare, true)
  | 9 =>
    let ports (d : Dev) : Dev := (List.range 4).foldl (fun d i => modPort d (4 * (u % 4) + i) fun x => { x with state := 5, lanes := 0 }) d
    (if u < 256 then modPipe d u fun x => { x with fenced := true } else if u < 512 then d else ports d, noSpare, true)
  | 10 => (modQ d (u % 4096) fun q => { setRp q q.wp with enable := true, failsAt := [] }, noSpare, true)
  | _ => (d, noSpare, true)

/-- Apply the entry at a place of the map: switched first, then set to APPLIED (R462). The journal holds REPAIR. -/
def applyEntry (d : Dev) (i : Nat) : Dev :=
  match d.pst.repairs[i]? with
  | none => d
  | some r =>
    let (d, sp, ok) := switchUnit d r
    if !ok then d
    else
      let r' := { r with state := 2, spare := if r.state = 2 then r.spare else sp }
      let d := { d with pst := { d.pst with repairs := d.pst.repairs.set i r' } }
      if r.state = 2 then d else repairEvent (jrec d 8 0xFF 0 0 r.unit.toNat) r'

/-- An entry may be applied at a teardown (R462). -/
def mayApply (d : Dev) (r : RepairRec) : Bool :=
  let u := r.unit.toNat
  let idle (c : Nat) : Bool := !(d.steps.any fun p => p.2.st == .admitted && p.2.crews.contains c)
  match r.kind.toNat with
  | 1 => idle (u % 1024 / 16)
  | 2 => idle (u / 64 % 1024 / 16)
  | 3 => fld (tget (0 : Byte) d.sown (u / 2 ^ 28)).toNat 5 4 != 1
  | 4 => fld (tget (0 : Byte) d.lown (u / 2 ^ 30)).toNat 5 4 % 3 == 0
  | 5 | 6 => !(d.steps.any fun p => (p.2.st == .admitted || p.2.st == .suspended) && fabUse (progOf p.2))
  | 10 => !(queue d (u % 4096)).enable
  | _ => true

/-- The repairs scheduled for a teardown (R407, R462). -/
def teardownRepairs (d : Dev) : Dev :=
  (List.range d.pst.repairs.length).foldl (fun d i => match d.pst.repairs[i]? with
    | some r => if r.state = 1 ∧ mayApply d r then applyEntry d i else d
    | none => d) d

/-- A boot applies every entry (R462). -/
def bootRepairs (d : Dev) (kinds : List Nat) : Dev :=
  (List.range d.pst.repairs.length).foldl (fun d i => match d.pst.repairs[i]? with
    | some r => if kinds.contains r.kind.toNat then applyEntry d i else d
    | none => d) d

/-! ### Lanes and lasers that fail (R252, R253, R461) -/

/-- A lane is dropped: the port retrains on the rest, or goes DOWN with fewer than four (R252); its repair is scheduled (R461). -/
def dropLane (d : Dev) (p l : Nat) : Dev :=
  let x := portOf d p
  if !x.lanes.toNat.testBit l then d
  else
    let d := modPort d p fun x => { x with lanes := x.lanes &&& ~~~(BitVec.ofNat 9 (2 ^ l)), droppend := true }
    let d := repairTrigger d 5 (16 * p + l)
    if laneCount (portOf d p).lanes < 4 then portDown d p
    else if portUp x then modPort d p fun x => { x with state := 1 } else d

/-- LANE_DROP (R252). -/
def execLaneDrop (port : PortNo) (lane : BitVec 4) (s : State) : Host.Outcome State Fault Refusal :=
  runIf (portLaneWf lane) (fun d => dropLane d port.toNat lane.toNat) s

/-- LASER_FAIL: the laser is marked for replacement, and its lane is unlit on the engine's four ports (R253, R461). -/
def execLaserFail (eng : BitVec 2) (laser : BitVec 4) (s : State) : Host.Outcome State Fault Refusal :=
  runIf (portLaneWf laser) (fun d =>
    let e := eng.toNat
    let l := laser.toNat
    let off := rFAB_LASER + 4 * e
    let v := reg d off
    let v := if v.testBit l then v - 2 ^ l else v
    let d := repairTrigger (setReg d off (v ||| 2 ^ (11 + l))) 6 (16 * e + l)
    (List.range 4).foldl (fun d i => dropLane d (4 * e + i) l) d) s

end Sys2Proof.Machine
end

