-- ==== Sys2Proof/Machine/Mem.lean ====
section
/-! DEFINITION. Memory tiers, translation and wiping (R157–R184): the patrol scrub, wipes and zeroing that end, accesses of
units, and the commands MAP, UNMAP, PROTECT, EXTLIST, ASSIGN and RECLAIM. -/
namespace Sys2Proof.Machine

/-! ### Uncorrectable errors (R176, R177) -/

/-- The gauntlet that owns what an error was found in. -/
def ueOwner (d : Dev) (x : ErrSite) : Option Nat :=
  let a := x.addr.toNat
  let i := x.unitCode.toNat % 4096
  match x.tier.toNat with
  | 0 => if (seatOf d i).valid then some (seatOf d i).gnt.toNat else none
  | 1 => if (coxOf d i).valid then some (coxOf d i).cacheGnt.toNat else none
  | 2 => if extState d (false, a / 2 ^ 28) = 1 then some (extOwner d (false, a / 2 ^ 28)) else none
  | 3 => if extState d (true, a / 2 ^ 30) = 1 then some (extOwner d (true, a / 2 ^ 30)) else none
  | _ => none

/-- The registers of the most recent report. An error in an SRAM row or an LPDDR5X page schedules its repair (R461). -/
def ueRecord (d : Dev) (x : ErrSite) (owner : Option Nat) (scrub : Bool) : Dev :=
  let d := inc32 d rMEM_UECNT 1
  let d := setReg d rMEM_UEADDR x.addr.toNat
  let d := setReg d rMEM_UEINFO (owner.getD 0 + 16 * b2n owner.isSome + 32 * x.tier.toNat + 256 * b2n scrub + 2 ^ 16 * x.unitCode.toNat)
  match x.tier.toNat with
  | 2 => repairTrigger d 3 (x.addr.toNat / 1024 * 1024)
  | 3 => repairTrigger d 4 (x.addr.toNat / 4096 * 4096)
  | _ => d

/-- The gauntlet's VA of an address in an extent, 0 where no entry names the extent. -/
def vaOf (d : Dev) (g : Nat) (e : Ext) (off : Nat) : Nat :=
  let hit := d.xlate.find? fun p => p.1 / 4096 == g && p.2.toNat.testBit 0 &&
    (if e.1 then fld p.2.toNat 10 8 == 3 && fld p.2.toNat 22 12 == e.2
     else fld p.2.toNat 10 8 == 2 && 60 * fld p.2.toNat 19 18 + fld p.2.toNat 17 12 == e.2)
  match hit with
  | none => 0
  | some p =>
    let i := p.1 % 4096
    if e.1 then 0x40000000000 + (i - 256) * 2 ^ 30 + off else i * 2 ^ 28 + off

/-- An error found by the scrubber or by a wipe read (R177): the event log, which is G0's, holds the address, the owner's event
its VA. -/
def ueScrub (d : Dev) (x : ErrSite) : Dev :=
  let owner := ueOwner d x
  let d := ueRecord d x owner true
  let a := x.addr.toNat
  let va := match owner with
    | none => 0
    | some g => if x.tier = 2 then vaOf d g (false, a / 2 ^ 28) (a % 2 ^ 28)
      else if x.tier = 3 then vaOf d g (true, a / 2 ^ 30) (a % 2 ^ 30) else 0
  let (t, d) := timeNow d
  let body (v : Nat) : Bytes := eventBody 0x05 (owner.getD 0xFF) 6 d.strk.count.toNat t
    ((owner.map fun g => (gaunt d g).inst.toNat).getD 0) [v, x.tier.toNat, x.unitCode.toNat]
  let d := logPush d (body a)
  match owner with
  | some g => if (gaunt d g).present then pushEv d g (body va) else d
  | none => d

/-- PATROL_SCRUB (R175, R177). -/
def execPatrolScrub (find : ScrubFind) (s : State) : Host.Outcome State Fault Refusal :=
  run (fun d => match find with
    | .clean => d
    | .corrected dram => inc32 d (if dram then rMEM_CECNT_DRAM else rMEM_CECNT_SRAM) 1
    | .uncorrectable x => ueScrub d x) s

/-! ### Wipes (R179–R183, R407) -/

/-- A crew has no wipe running. -/
def crewClean (d : Dev) (c : Nat) : Bool :=
  !(coxOf d c).wiping && (List.range 9).all fun i => !(seatOf d (16 * c + i)).wiping

/-- A wipe that a teardown waits for still runs. -/
def wipeOn (d : Dev) (w : Nat × Nat) : Bool :=
  match w.1 with
  | 0 => d.wipeExt.contains w.2
  | 1 => !crewClean d w.2
  | _ => d.wipeMedia

/-- Teardown order 6: when a gauntlet's SRAM wipes end, it is gone (R407). -/
def tearEnd (d : Dev) (g : Nat) : Dev :=
  let x := gaunt d g
  if x.tearing = 2 ∧ !(x.wipes.any (wipeOn d)) then
    modG d g fun x => { Gaunt.reset g with
      inst := x.inst, adm := 0, acct := x.acct, charged := x.charged, acctBorn := x.acctBorn, acctDied := true }
  else d

/-- What waits for a wipe goes on (R181, R377, R407). -/
def wipesEnd (d : Dev) : Dev := settle ((List.range 16).foldl tearEnd d)

/-- An extent's wipe ends: it is free, or goes to the ASSIGN that waits for it (R181). -/
def extWiped (d : Dev) (e : Ext) : Dev :=
  match d.waits.find? fun w => w.op.toNat == 0x18 && ((extsOf d w.cmd).getD []).contains e with
  | some w => if (gaunt d w.g.toNat).present then setExt d e w.g.toNat 1 else setExt d e 0 0
  | none => setExt d e 0 0

/-- The domain of what is wiped. -/
def wipeDom : WipeTarget → List Nat
  | .seat u => [seatIdx u / 16]
  | .cache c => [c.toNat]
  | .extent die e => [68 + 5 * die.toNat + e.toNat / 12]
  | .media => [110, 111]

/-- WIPE_DONE (R182): the memory is clean, its contents have been zero since the wipe began (log 68). A domain that a teardown
returns to on is wiped after its return (R439). -/
def execWipeDone (w : WipeTarget) (s : State) : Host.Outcome State Fault Refusal :=
  runIf w.wf (fun d => if (wipeDom w).any fun n => (domOf d n).state == 3 then d else wipesEnd (match w with
    | .seat u => if (seatOf d (seatIdx u)).wiping then modSeat d (seatIdx u) fun x => { x with wiping := false } else d
    | .cache c => if (coxOf d c.toNat).wiping then modCox d c.toNat fun x => { x with wiping := false } else d
    | .extent die e =>
      let x := 60 * die.toNat + e.toNat
      if d.wipeExt.contains x then extWiped { d with wipeExt := d.wipeExt.filter (· != x) } (false, x) else d
    | .media => { d with wipeMedia := false })) s

/-- ZEROING_DONE (R180, R181): zeroing is counted to G0 (R404). -/
def execZeroingDone (extent : BitVec 11) (s : State) : Host.Outcome State Fault Refusal :=
  run (fun d =>
    let e : Ext := (true, extent.toNat)
    if extState d e = 2 then
      wipesEnd (extWiped (account d 0 fun a => { a with dramb := a.dramb + BitVec.ofNat 64 (2 ^ 30) }) e)
    else d) s

/-- Model address and size of an extent. -/
def extSpan (e : Ext) : Nat × Nat := if e.1 then (lpBase + e.2 * 2 ^ 30, 2 ^ 30) else (stackBase + e.2 * 2 ^ 28, 2 ^ 28)

/-- Begin the wipe of an extent (R179). -/
def wipeExtent (d : Dev) (e : Ext) : Dev :=
  let (a, n) := extSpan e
  let d := setExt (store d (.fill a n 0)) e 0 2
  if e.1 then d else { d with wipeExt := d.wipeExt ++ [e.2] }

/-! ### Accesses (R164) -/

/-- MEM_ACCESS: an access of a unit of a step to gauntlet memory; one that fails translation is not performed (R162, R164). -/
def execMemAccess (st : StepName) (unitCode : W16) (va : W64) (write : Bool) (data : Bytes) (len : W16) (s : State) :
    Host.Outcome State Fault Refusal :=
  run (fun d =>
    match findStep d st with
    | none => d
    | some k =>
      if !canRun d k then d
      else
        let g := st.g.toNat
        if write then match vaWrite d g va.toNat data with
          | .ok d => d
          | .error e => failX d k e unitCode.toNat
        else match vaGet d g va.toNat len.toNat with
          | .ok (_, d) => d
          | .error e => failX d k e unitCode.toNat) s

/-! ### MAP, UNMAP, PROTECT (R160, R163) -/

/-- Entry index of a VA that is the first byte of an extent of its window. -/
def slotAt (va : Nat) : Option (Nat × Nat) :=
  match window va with
  | some (t, i, 0) => some (t, i)
  | _ => none

/-- The extent that a FRAME value names in a window; none where a field is out of range. Tier 4 names none here. -/
def frameExt (tier frame : Nat) : Option Ext :=
  if tier = 2 then
    if decide (frame < 2 ^ 8) && decide (frame % 64 < 60) then some (false, 60 * (frame / 64) + frame % 64) else none
  else if tier = 3 then (if frame < 2 ^ 11 then some (true, frame) else none)
  else none

/-- An extent is in its gauntlet's KV pool (R204). -/
def inPool (d : Dev) (g : Nat) (e : Ext) : Bool :=
  if e.1 then (gaunt d g).poolL.contains e.2 else (gaunt d g).poolS.contains e.2

/-- KVLIMIT (R204, R232). -/
def cKVLIMIT : Nat := 0x2B

/-- Why a MAP is refused (R163, R204), or nothing. P1 is the value of the field FRAME; its tier is the window's (log 69). -/
def mapBad (d : Dev) (g tier frame : Nat) : Option Nat :=
  if tier = 4 then (if frame < 2 ^ 18 then none else some 0x58)
  else match frameExt tier frame with
    | none => some 0x58
    | some e => if extState d e != 1 || extOwner d e != g then some 0x58 else if inPool d g e then some cKVLIMIT else none

/-- A translation entry (R160). -/
def mkEntry (g tier frame perm : Nat) : Nat := 1 + 2 * (perm % 4) + 16 * g + 256 * tier + 4096 * frame

/-- Set a translation entry. -/
def setEntry (d : Dev) (g i v : Nat) : Dev := { d with xlate := tset (0 : W64) d.xlate (4096 * g + i) (BitVec.ofNat 64 v) }

/-- The commit of MAP, UNMAP or PROTECT at its boundary: the reason that refuses it, or nothing. -/
def xlateApply (d : Dev) (op : Nat) (h : HostCmd) : Dev × Option Nat :=
  let g := h.fn.toNat
  match slotAt h.p0.toNat with
  | none => (d, some 0x58)
  | some (t, i) =>
    let e := xentry d g i
    if op = 0x10 then
      match mapBad d g t h.p1.toNat with
      | some c => (d, some c)
      | none => (setEntry d g i (mkEntry g t h.p1.toNat h.p2.toNat), none)
    else if op = 0x11 then (setEntry d g i 0, none)
    else if e.testBit 0 then (setEntry d g i (e - fld e 2 1 * 2 + 2 * (h.p2.toNat % 4)), none)
    else (d, some 0x58)

/-- Bytes of the extent at a VA. -/
def slotRange (va : Nat) : W64 × Nat × Bool := (BitVec.ofNat 64 va, if va < 2 ^ 36 then 4096 else 16384, true)

/-- What MAP, UNMAP and PROTECT do when taken: what is wrong at once rejects them, else they wait for their boundary. -/
def xlateCmd (op : Nat) (h : HostCmd) (d : Dev) : Dev :=
  match slotAt h.p0.toNat with
  | none => rejCmd d h op 0x58
  | some _ => match (xlateApply d op h).2 with
    | some c => rejCmd d h op c
    | none => atBoundary d op h.fn.toNat 0 h

/-- MAP (R163). -/
def execCmdMap (h : HostCmd) (s : State) : Host.Outcome State Fault Refusal := hostCmd 0x10 [pAny, pAny, 3] 0x58 h (xlateCmd 0x10 h) s
/-- UNMAP (R163). -/
def execCmdUnmap (h : HostCmd) (s : State) : Host.Outcome State Fault Refusal := hostCmd 0x11 [pAny] 0x58 h (xlateCmd 0x11 h) s
/-- PROTECT (R163). -/
def execCmdProtect (h : HostCmd) (s : State) : Host.Outcome State Fault Refusal := hostCmd 0x12 [pAny, 0, 3] 0x58 h (xlateCmd 0x12 h) s

/-- EXTLIST: the extents owned by the gauntlet. The spec gives the buffer no layout: its bytes are free (log 70). -/
def execCmdExtlist (h : HostCmd) (s : State) : Host.Outcome State Fault Refusal :=
  hostCmd 0x13 [pAny] 0x58 h (fun d =>
    let own (lp : Bool) (n : Nat) : Nat := ((List.range n).filter fun x =>
      extState d (lp, x) == 1 && extOwner d (lp, x) == h.fn.toNat).length
    let bytes := (List.range 32768).map fun i => Config.freeByte (32768 * d.free + i)
    putDone { d with free := d.free + 1 } h 0x13 h.p0.toNat bytes (own false 240 + own true 2048) 0) s

/-! ### ASSIGN and RECLAIM (R161, R163, R181) -/

/-- ASSIGN (R161, R181). An extent that another ASSIGN already waits for is refused with NORES (log 71). -/
def execCmdAssign (h : HostCmd) (s : State) : Host.Outcome State Fault Refusal :=
  hostCmd 0x18 [0xF, 0x07FF001B, pAny] 0x58 h (fun d =>
    let g := fld h.p0.toNat 3 0
    match extsOf d h with
    | none => rejCmd d h 0x18 0x58
    | some l =>
      if !(gaunt d g).present || (gaunt d g).tearing != 0 then rejCmd d h 0x18 0x5A
      else if l.any fun e => extState d e == 1 || extState d e == 3 then rejCmd d h 0x18 0x58
      else if l.any fun e => !e.1 && withdrawn d (e.2 / 60) (e.2 % 60 / 12) then rejCmd d h 0x18 0x5D
      else if d.waits.any fun w => w.op.toNat == 0x18 && ((extsOf d w.cmd).getD []).any fun e => l.contains e && extState d e == 2 then
        rejCmd d h 0x18 0x5D
      else
        let d := l.foldl (fun d e => if extState d e = 0 then setExt d e g 1 else d) d
        settle (deferCmd (m7Note d g 0x18 h) 0x18 g 0 h)) s

/-- Entries of a gauntlet that name one of some extents: their indices. -/
def naming (d : Dev) (g : Nat) (l : List Ext) : List Nat :=
  (d.xlate.filter fun p => p.1 / 4096 == g && p.2.toNat.testBit 0 &&
    (match fld p.2.toNat 10 8 with
      | 2 => l.contains (false, 60 * fld p.2.toNat 19 18 + fld p.2.toNat 17 12)
      | 3 => l.contains (true, fld p.2.toNat 22 12)
      | _ => false)).map fun p => p.1 % 4096

/-- First VA of an entry. -/
def entryVa (i : Nat) : Nat :=
  if i < 256 then i * 2 ^ 28 else if i < 2304 then 0x40000000000 + (i - 256) * 2 ^ 30 else 0x800000000000 + (i - 2304) * 2 ^ 30

/-- Frames of a pool extent are in use (R204). -/
def poolBusy (d : Dev) (g : Nat) (e : Ext) : Bool :=
  if e.1 then (gaunt d g).framesL.any fun f => f / 16384 == e.2 else (gaunt d g).framesS.any fun f => f / 4096 == e.2

/-- Why a RECLAIM is refused: an extent that the gauntlet does not own, a pool extent with frames in use (R161, R204). -/
def reclaimBad (d : Dev) (g : Nat) (h : HostCmd) : Option Nat :=
  match extsOf d h with
  | none => some 0x58
  | some l =>
    if l.any fun e => extState d e != 1 || extOwner d e != g then some 0x58
    else if l.any fun e => inPool d g e && poolBusy d g e then some cKVLIMIT else none

/-- RECLAIM at its boundary (R163, R179): entries cleared, the wipe begins, the reply waits. -/
def reclaimApply (d : Dev) (g : Nat) (h : HostCmd) : Dev :=
  let l := (extsOf d h).getD []
  let d := (naming d g l).foldl (fun d i => setEntry d g i 0) d
  let d := modG d g fun x => { x with poolS := x.poolS.filter (fun e => !l.contains (false, e)), poolL := x.poolL.filter fun e => !l.contains (true, e) }
  let d := l.foldl wipeExtent d
  deferCmd (m7Note d g 0x19 h) 0x19 g 0 h

/-- RECLAIM (R161, R163): ordered as a command that writes every extent it names. -/
def execCmdReclaim (h : HostCmd) (s : State) : Host.Outcome State Fault Refusal :=
  hostCmd 0x19 [0xF, 0x07FF001B, pAny] 0x58 h (fun d =>
    let g := fld h.p0.toNat 3 0
    if !(gaunt d g).present || (gaunt d g).tearing != 0 then rejCmd d h 0x19 0x5A
    else match reclaimBad d g h with
      | some c => rejCmd d h 0x19 c
      | none => atBoundary d 0x19 g 0 h) s

/-- Boundary: the commands over translation that R40 allows now (R163). -/
def bndMem (d : Dev) (w : Waiting) : Dev :=
  let op := w.op.toNat
  let h := w.cmd
  let g := w.g.toNat
  let ranges := if op = 0x19 then (naming d g ((extsOf d h).getD [])).map fun i => slotRange (entryVa i) else [slotRange h.p0.toNat]
  if conflicts ranges (heldRanges d g) then d
  else
    let d := { d with bnds := d.bnds.erase w }
    if op = 0x19 then
      match reclaimBad d g h with
      | some c => rejCmd d h op c
      | none => reclaimApply d g h
    else match xlateApply d op h with
      | (d, none) => doneCmd d h op 0 0
      | (d, some c) => rejCmd d h op c

end Sys2Proof.Machine
end

