-- ==== Sys2Proof/Machine/Gnt.lean ====
section
/-! DEFINITION. Gauntlets (R386–R408): creation, settings, teardown, step submission, cancellation, preemption by command,
step status and accounting records. -/
namespace Sys2Proof.Machine

/-! ### Creation and settings (R387, R388) -/

/-- P4 of GCREATE in its ranges; `sel` selects the fields that matter (R388). -/
def p4Ok (v sel : Nat) : Bool :=
  decide (v < 2 ^ 32) && (!sel.testBit 0 || decide (1 ≤ fld v 15 0)) &&
  (!sel.testBit 1 || (decide (1 ≤ fld v 22 16) && decide (fld v 22 16 ≤ 64))) && (!sel.testBit 3 || decide (1 ≤ fld v 31 24))

/-- A save area: a tier-3 VA and a size, multiples of 64 KiB, large enough for CREWMAX crews (R387). -/
def saveAreaOk (va sz crewmax : Nat) : Bool :=
  decide (0x40000000000 ≤ va) && decide (va < 0x60000000000) && va % 65536 == 0 && sz % 65536 == 0 &&
    decide (36 * 2 ^ 20 * crewmax + 2 ^ 20 ≤ sz)

/-- Every field of GCREATE in its range, every reserved field zero (R387). -/
def gcreateOk (h : HostCmd) : Bool :=
  let p5 := h.p5.toNat
  decide (1 ≤ h.p0.toNat) && decide (h.p0.toNat ≤ 15) && p4Ok h.p4.toNat 15 &&
  saveAreaOk h.p2.toNat h.p3.toNat (fld h.p4.toNat 22 16) &&
  decide (8 ≤ fld p5 4 0) && decide (fld p5 4 0 ≤ 16) && fld p5 7 5 == 0 && decide (8 ≤ fld p5 12 8) && decide (fld p5 12 8 ≤ 16) &&
  fld p5 15 13 == 0 && decide (fld p5 23 16 ≤ 48) && p5 / 2 ^ 24 == 0 && h.p6 == 0

/-- The media SRAM partitions have room (R387). -/
def msramFits (d : Dev) (h : HostCmd) : Bool :=
  decide (((allG d).map fun g => (gaunt d g).msram.toNat).foldl (· + ·) 0 + fld h.p5.toNat 23 16 ≤ 48)

/-- A queue held in module storage, or a queue in memory (R346, R347). -/
def mkQueue (cls g esz nlog qid : Nat) (int : Bool) (base : Nat) : Queue :=
  let lim := BitVec.ofNat 17 (2 ^ nlog - (if cls = 0 then 1 else 0))
  let c : Credit := { Credit.reset with avail := lim, limit := lim, gnt := BitVec.ofNat 4 g, unit := 3 }
  let q : Queue := { Queue.reset with
    qbase := BitVec.ofNat 64 base, cls := BitVec.ofNat 2 cls, gnt := BitVec.ofNat 4 g, esz := BitVec.ofNat 4 esz
    nlog := BitVec.ofNat 5 nlog, int := int, qid := BitVec.ofNat 12 qid, enable := true, cred := c }
  { q with snapImg := queueImage q }

/-- Put a queue in the queue table. -/
def addQueue (d : Dev) (n : Nat) (q : Queue) : Dev := { d with queues := tput d.queues n q }

/-- The queues that every gauntlet has from its creation (R359; log 11). -/
def gauntQueues (d : Dev) (g enlog tnlog : Nat) : Dev :=
  let d := addQueue d (evQ g) (mkQueue 1 g 6 enlog 2 true 0)
  let d := addQueue d (tnQ g) (mkQueue 1 g 7 tnlog 3 true 0)
  let d := addQueue d (80 + g) (mkQueue 0 g 6 10 0xFFE true 0)
  addQueue d (96 + g) (mkQueue 2 g 9 12 0xFFF true 0)

/-- GCREATE at its boundary (R386, R387, R411): a new instance. -/
def gcreateApply (d : Dev) (h : HostCmd) : Dev :=
  let g := fld h.p0.toNat 3 0
  let p4 := h.p4.toNat
  let p5 := h.p5.toNat
  let d := modG d g fun x => { Gaunt.reset g with
    present := true, inst := x.inst + 1, seed := h.p1, saveva := h.p2, savesz := h.p3, share := BitVec.ofNat 16 (fld p4 15 0)
    crewmax := BitVec.ofNat 7 (fld p4 22 16), noauto := p4.testBit 23, pwait := BitVec.ofNat 8 (fld p4 31 24)
    msram := BitVec.ofNat 8 (fld p5 23 16), acct := x.acct, charged := x.charged, acctBorn := true, acctDied := x.acctDied
    m7 := extendM 0 (m7Item 0x20 { h with p1 := 0 }), rcpart := fld (reg d rEMB_RCPART) (4 * g + 3) (4 * g) }
  gauntQueues { d with keys := BitVec.ofNat 16 (d.keys.toNat ||| 2 ^ g) } g (fld p5 4 0) (fld p5 12 8)

/-- What refuses a GCREATE besides its fields. -/
def gcreateBad (d : Dev) (h : HostCmd) : Option Nat :=
  let x := gaunt d (fld h.p0.toNat 3 0)
  if d.pst.lcstate ≠ 2 then some 0x70
  else if x.present ∧ x.tearing = 0 then some 0x5A
  else if !msramFits d h ∧ !x.present then some 0x5D
  else none

/-- GCREATE (R387): it takes effect at a boundary, and waits for a teardown of the same number (R407). -/
def execCmdGcreate (h : HostCmd) (s : State) : Host.Outcome State Fault Refusal :=
  hostCmd 0x20 [pAny, pAny, pAny, pAny, pAny, pAny, pAny] 0x58 h (fun d =>
    if !gcreateOk h then rejCmd d h 0x20 0x68
    else match gcreateBad d h with
      | some c => rejCmd d h 0x20 c
      | none => atBoundary d 0x20 (fld h.p0.toNat 3 0) 0 h) s

/-- A GCREATE that waits for a boundary. -/
def bndGcreate (d : Dev) (w : Waiting) : Dev :=
  let h := w.cmd
  if (gaunt d w.g.toNat).tearing ≠ 0 then d
  else
    let d := { d with bnds := d.bnds.erase w }
    match gcreateBad d h with
    | some c => rejCmd d h 0x20 c
    | none => doneCmd (gcreateApply d h) h 0x20 0 0

/-- Fields of GSET in their ranges (R388). -/
def gsetOk (d : Dev) (h : HostCmd) : Bool :=
  let sel := h.p1.toNat
  let x := gaunt d (fld h.p0.toNat 3 0)
  let cm := if sel.testBit 1 then fld h.p2.toNat 22 16 else x.crewmax.toNat
  decide (h.p0.toNat < 16) && decide (sel < 32) && p4Ok h.p2.toNat sel && h.p5 == 0 && h.p6 == 0 &&
    (!sel.testBit 4 || saveAreaOk h.p3.toNat h.p4.toNat cm)

/-- GSET (R388): the changes take effect at the next boundary. -/
def execCmdGset (h : HostCmd) (s : State) : Host.Outcome State Fault Refusal :=
  hostCmd 0x22 [pAny, pAny, pAny, pAny, pAny, pAny, pAny] 0x58 h (fun d =>
    let g := fld h.p0.toNat 3 0
    if !gsetOk d h then rejCmd d h 0x22 0x68
    else if !(gaunt d g).present || (gaunt d g).tearing != 0 then rejCmd d h 0x22 0x5A
    else if h.p1.toNat.testBit 4 && !(liveSteps d g).isEmpty then rejCmd d h 0x22 0x5A
    else doneCmd (modG d g fun x => { x with gset := x.gset ++ [h] }) h 0x22 0 0) s

/-- One GSET takes effect. -/
def gsetApply (x : Gaunt) (h : HostCmd) : Gaunt :=
  let sel := h.p1.toNat
  let v := h.p2.toNat
  let x := if sel.testBit 0 then { x with share := BitVec.ofNat 16 (fld v 15 0) } else x
  let x := if sel.testBit 1 then { x with crewmax := BitVec.ofNat 7 (fld v 22 16) } else x
  let x := if sel.testBit 2 then { x with noauto := v.testBit 23 } else x
  let x := if sel.testBit 3 then { x with pwait := BitVec.ofNat 8 (fld v 31 24) } else x
  if sel.testBit 4 then { x with saveva := h.p3, savesz := h.p4, m7due := x.m7due ++ [m7Item 0x22 h] } else x

/-- The changes of GSET, and what extends M7, at a boundary (R388, R411). -/
def bndGauntlet (d : Dev) (g : Nat) : Dev :=
  modG d g fun x =>
    let x := { x.gset.foldl gsetApply x with gset := [] }
    { x with m7 := x.m7due.foldl extendM x.m7, m7due := [] }

/-! ### Submission and cancellation (R378, R390, R400) -/

/-- A step as SUBMIT places it in its queue; P3 [3:2] names its phase (R474). -/
def newStep (d : Dev) (h : HostCmd) : Step :=
  { g := h.fn, inst := (gaunt d h.fn.toNat).inst, adm := 0, fn := h.fn, tag := h.tag, flags8 := h.flags
    queueNo := BitVec.ofNat 2 h.p3.toNat, phase := BitVec.ofNat 2 (fld h.p3.toNat 3 2), p0 := h.p0, p1 := h.p1, p2 := h.p2, p3 := h.p3
    st := .queued, hold := 0, heldNoCrew := 0, elapsed := 0, strokes := 0, fl := StepFlags.reset, prog := none, rset := none, fresh := false
    crews := [], items := [], bins := Bins.reset, ecyc := 0, icyc := 0, alone := true, failing := none, kill := false, evict := false
    jsDone := [], buckets := [], embs := [], round := none, copies := [], ings := [], sums := [], staging := [], asked := [], landed := []
    sels := [], bands := [], recsWritten := [], endStatus := 0, endReason := 0 }

/-- The last item of SUBMIT: the step goes to the tail of its queue, which holds 1,024; of a full queue it waits for a credit
(R390). -/
def submitPlace (d : Dev) (h : HostCmd) : Dev :=
  let g := h.fn.toNat
  let q := fld h.p3.toNat 1 0
  let l := tget [] (gaunt d g).queues q
  if 1024 ≤ l.length then
    if d.bnds.any fun w => w.op == 0x28 && decide (w.cmd = h) then d else atBoundary d 0x28 g 0 h
  else
    let k := d.nextStep
    let d := { d with steps := tput d.steps k (newStep d h), nextStep := k + 1 }
    endCmd (modG d g fun x => { x with queues := tput x.queues q (l ++ [k]) }) g

/-- SUBMIT (R378). -/
def execCmdSubmit (h : HostCmd) (s : State) : Host.Outcome State Fault Refusal :=
  hostCmd 0x28 [pAny, pAny, pAny, 0xF] 0x58 h (fun d =>
    if h.p1 = 0 then rejCmd d h 0x28 0x58 else submitPlace d h) s

/-- A SUBMIT that waited for room is tried again. -/
def submitRetry (d : Dev) (w : Waiting) : Dev :=
  let g := w.g.toNat
  if (tget [] (gaunt d g).queues (fld w.cmd.p3.toNat 1 0)).length < 1024 then submitPlace { d with bnds := d.bnds.erase w } w.cmd else d

/-- Every SUBMIT that waits for room. -/
def submitsGo (d : Dev) : Dev := (d.bnds.filter fun w => w.op == 0x28).foldl submitRetry d

/-- Cancel one step (R400): queued and suspended steps at once, an admitted step at the next boundary's action 4. -/
def cancelOne (d : Dev) (k : Nat) : Dev :=
  match tfind d.steps k with
  | none => d
  | some st => match st.st with
    | .queued => cancelStep (unqueue d k) k
    | .suspended => cancelStep d k
    | .admitted => modStep d k fun st => { st with kill := true }
    | .ended => d

/-- CANCEL (R400). Naming the TAG of a checkpoint or restore, it stops that (R471). -/
def execCmdCancel (h : HostCmd) (s : State) : Host.Outcome State Fault Refusal :=
  hostCmd 0x29 [pAny, 2 ^ 32 - 1] 0x58 h (fun d =>
    let mine := d.steps.filter fun p => p.2.g == h.fn &&
      (if h.p0 ≠ 0 then p.2.adm == h.p0 else p.2.fn == h.fn && p.2.tag.toNat == h.p1.toNat)
    let d := mine.foldl (fun d p => cancelOne d p.1) d
    let d := if h.p0 = 0 ∧ (tfind d.ckpts h.fn.toNat).any (fun c => c.cmd.tag.toNat == h.p1.toNat) then ckFail d h.fn.toNat 0x5F 0 else d
    settle (submitsGo (doneCmd d h 0x29 mine.length 0))) s

/-- PREEMPT by command: the steps named are marked for the first boundary that performs action 4 (R396, R400, R401). -/
def preemptBody (h : HostCmd) (d : Dev) : Dev :=
  let g := fld h.p0.toNat 3 0
  let force := h.p2.toNat.testBit 0
  if !(gaunt d g).present then rejCmd d h 0x23 0x5A
  else
    let d := { d with steps := tmap (fun _ st =>
      if st.g.toNat = g ∧ st.st = .admitted ∧ (h.p1 = 0 ∨ st.adm = h.p1) then
        (if force then { st with kill := true } else { st with evict := true }) else st) d.steps }
    doneCmd d h 0x23 0 0

/-- PREEMPT (R396). -/
def execCmdPreempt (h : HostCmd) (s : State) : Host.Outcome State Fault Refusal := hostCmd 0x23 [0xF, pAny, 1] 0x58 h (preemptBody h) s
/-- PREEMPT with FORCE (R400): the same packet, P2 [0] set. -/
def execCmdPreemptForce (h : HostCmd) (s : State) : Host.Outcome State Fault Refusal := hostCmd 0x23 [0xF, pAny, 1] 0x58 h (preemptBody h) s

/-! ### Reports (R402, R406) -/

/-- STEPSTAT (R377, R402): state and hold as of the latest snapshot. -/
def execCmdStepstat (h : HostCmd) (s : State) : Host.Outcome State Fault Refusal :=
  hostCmd 0x2C [pAny] 0x58 h (fun d =>
    let g := h.fn.toNat
    let x := gaunt d g
    if h.p0 = 0 ∨ x.adm.toNat < h.p0.toNat then rejCmd d h 0x2C 0x58
    else match d.steps.find? fun p => p.2.g == h.fn && p.2.adm == h.p0 with
      | some (_, st) =>
        let (sl, d) := slowWord d st
        let r := match d.snap.steps.find? fun y => y.1 == h.fn && y.2.1 == h.p0 with
          | some y => y.2.2.1.toNat + 256 * y.2.2.2.toNat
          | none => (if st.hold = 0 then 0 else 1) + 256 * st.hold.toNat
        doneCmd d h 0x2C r sl
      | none => doneCmd d h 0x2C 4 (((x.kept.find? fun y => y.1 == h.p0).map fun y => y.2.toNat).getD 0)) s

/-- Addresses of a gauntlet number's records held, oldest first (R406). -/
def recordsOf (d : Dev) (g : Nat) : List Nat :=
  let n := tget 0 d.acctN g
  (List.range (min n 65536)).map fun i => recordAddr g (n - min n 65536 + i)

/-- ACCT (R406). The oldest interval, where no record is held, is a free value (log 4). -/
def execCmdAcct (h : HostCmd) (s : State) : Host.Outcome State Fault Refusal :=
  hostCmd 0x50 (if h.fn = 0 then [pAny, pAny, 0xF] else [pAny, pAny]) 0x58 h (fun d =>
    let g := if h.fn = 0 then fld h.p2.toNat 3 0 else h.fn.toNat
    let l := (recordsOf d g).filter fun a => h.fn == 0 || peekN d (a + 0x18) 4 == (gaunt d g).inst.toNat
    let (old, d) := match l.head? with
      | some a => (peekN d a 8, d)
      | none => let (v, d) := freeVal d; (v.toNat, d)
    let out := (l.filter fun a => decide (h.p1.toNat ≤ peekN d a 8)).take 32
    let bs := out.flatMap fun a => peek d a 128
    if bs.isEmpty then doneCmd d h 0x50 0 old else putDone d h 0x50 h.p0.toNat bs out.length old) s

/-- CLOSE: queued steps are CANCELLED; the reply waits for the admitted ones (R377). -/
def execCmdClose (h : HostCmd) (s : State) : Host.Outcome State Fault Refusal :=
  hostCmd 2 [] 0x58 h (fun d =>
    let g := h.fn.toNat
    let qs := (List.range 4).flatMap fun q => tget [] (gaunt d g).queues q
    let d := qs.foldl cancelOne d
    let d := modF d g fun x => { x with openF := false, feat := 0 }
    settle (deferCmd d 2 g (gaunt d g).adm.toNat h)) s

/-! ### Teardown (R389, R407) -/

/-- Secure sessions end: their keys are destroyed (R416). -/
def endSession (d : Dev) (f : Nat) : Dev := modF d f fun x => { x with sess := none, kem := none }

/-- Order 1: at once, queued steps are CANCELLED, and no step is admitted again. The agreed word ends (R380). -/
def tearStart (d : Dev) (g : Nat) : Dev :=
  if !(gaunt d g).present || (gaunt d g).tearing != 0 then d
  else
    let qs := (List.range 4).flatMap fun q => tget [] (gaunt d g).queues q
    let d := modG d g fun x => { x with tearing := 1 }
    let d := qs.foldl (fun d k => cancelStep (unqueue d k) k) d
    let d := cancelCmds d g
    endSession (modF d g fun x => { x with openF := false, feat := 0 }) g

/-- GDESTROY (R407). G0 cannot be destroyed (R386). A locked interface goes to ERROR (R382). -/
def execCmdGdestroy (h : HostCmd) (s : State) : Host.Outcome State Fault Refusal :=
  hostCmd 0x21 [0xF] 0x58 h (fun d =>
    let g := fld h.p0.toNat 3 0
    if g = 0 ∨ !(gaunt d g).present ∨ (gaunt d g).tearing ≠ 0 then rejCmd d h 0x21 0x5A
    else
      let d := if locked d g then fnErr (modF d g fun x => { x with tdi := 3 }) g 3 else d
      deferCmd (tearStart d g) 0x21 g 0 h) s

/-- Crews whose seats or cache hold a gauntlet. -/
def crewsHolding (d : Dev) (g : Nat) : List Nat := (List.range 64).filter fun c => (coxOf d c).valid && (coxOf d c).gnt.toNat == g

/-- A crew is wiped for good (R179): seats, cache, what the cox held. -/
def scrapCrew (d : Dev) (c : Nat) : Dev :=
  modCox (wipeCrew d c) c fun x => { Cox.reset with fenced := x.fenced, wiping := true }

/-- Queues of a gauntlet are wiped; the rings stay with the function, flushed (R389). -/
def tearQueues (d : Dev) (g : Nat) : Dev :=
  let d := [4 * g, 4 * g + 1].foldl (fun d n => if (queue d n).enable then flushQ d n else d) d
  { d with queues := d.queues.filter fun p => p.2.gnt.toNat != g || (ringOf p.1).isSome }

/-- Orders 2 to 5, at the boundary after the teardown began: steps and sessions end, the key is destroyed, the wipes begin,
repairs are applied. -/
def tearBoundary (d : Dev) (g : Nat) : Dev :=
  if (gaunt d g).tearing ≠ 1 then d
  else
    let d := (liveSteps d g).foldl (fun d p => cancelStep d p.1) d
    let d := (d.sess.filter fun p => p.2.isOpen && p.2.g.toNat == g).foldl (fun d p => vidClose d p.1) d
    let d := (d.pipes.filter fun p => p.2.busy && p.2.g.toNat == g).foldl (fun d p => pipeFree d p.1) d
    let d := { d with decs := d.decs.filter (fun p => p.2.g.toNat != g), saves := d.saves.filter (fun p => p.1 / 64 != g)
                      rowcache := d.rowcache.filter (fun x => x / 2 ^ 40 != g), kv := d.kv.filter (fun p => p.2.gnt.toNat != g)
                      ckpts := tdel d.ckpts g, keys := BitVec.ofNat 16 (d.keys.toNat &&& (65535 - 2 ^ g))
                      xlate := d.xlate.filter (fun p => p.1 / 4096 != g) }
    let crews := crewsHolding d g
    let exts := (List.range 240).filter fun x => extState d (false, x) == 1 && extOwner d (false, x) == g
    let lps := (List.range 2048).filter fun x => extState d (true, x) == 1 && extOwner d (true, x) == g
    let media := (gaunt d g).msram != 0 || (gaunt d g).rcpart != 0
    let d := tearQueues d g
    -- R439: what holds contents in retention returns to on first
    let held := crews ++ ((List.range 20).filter fun i => exts.any fun x => x / 12 == i).map (68 + ·) ++ (if media then [110, 111] else [])
    let d := held.foldl (fun d n => if (domOf d n).state = 1 then domRaise d n else d) d
    let d := crews.foldl scrapCrew d
    let d := exts.foldl (fun d x => wipeExtent d (false, x)) d
    let d := lps.foldl (fun d x => wipeExtent d (true, x)) d
    let d := modG d g fun x => { Gaunt.reset g with
      present := true, inst := x.inst, adm := x.adm, seed := 0, msram := x.msram, acct := x.acct, charged := x.charged, acctBorn := x.acctBorn
      acctDied := x.acctDied, telPend := [], tearing := 2
      wipes := exts.map (fun x => (0, x)) ++ crews.map (fun c => (1, c)) ++ (if media then [(2, 0)] else []) }
    teardownRepairs { d with wipeMedia := d.wipeMedia || media }

/-! ### The interface in ERROR, function-level reset (R383, R384) -/

/-- The rings of a function are flushed (R357). -/
def flushRings (d : Dev) (f : Nat) : Dev :=
  [4 * f, 4 * f + 1].foldl (fun d n => if (queue d n).enable then flushQ d n else d) d

/-- A function's interface enters ERROR (R383). -/
def toError (d : Dev) (f : Nat) : Dev :=
  let d := fnErr (modF d f fun x => { x with tdi := 3 }) f 3
  let d := cancelCmds d f
  let d := (d.steps.filter fun p => p.2.g.toNat == f).foldl (fun d p => cancelOne d p.1) d
  flushRings d f

/-- A function is reset (R384): rings flushed, commands CANCELLED, the agreed word cleared, its gauntlet torn down. -/
def flrFn (d : Dev) (f : Nat) : Dev :=
  let d := cancelCmds d f
  let d := flushRings d f
  let d := endSession (modF d f fun x => { x with openF := false, feat := 0 }) f
  if f = 0 then (d.steps.filter fun p => p.2.g == 0).foldl (fun d p => cancelOne d p.1) d else tearStart d f

end Sys2Proof.Machine
end

