-- ==== Sys2Proof/Machine/HostIf.lean ====
section
/-! DEFINITION. The host command interface (R360–R385): rings, doorbells, fetching, memory commands and their chunks, the
commands NOP, OPEN, READ, WRITE, FILL, QCREATE, QDESTROY, QSTAT and QCTL, and vectors. -/
namespace Sys2Proof.Machine

/-- A function that exists: the physical function, or a virtual function that NumVFs enables (R362). -/
def fnOn (d : Dev) (f : Nat) : Bool := f == 0 || decide (f ≤ d.ident.numvf.toNat)

/-- The command processor runs its firmware: boot is done, no PWAIT (R442, R454). -/
def cpRuns (d : Dev) : Bool := fld (reg d rBOOT_STATUS) 1 0 == 1 && !d.pwait.active

/-! ### Rings (R366–R368) -/

/-- FN_RINGCFG_WRITE (R366). ENABLE with NLOG out of its range is refused; clearing ENABLE removes both rings, and their
pointers start from zero at the next ENABLE (log 74). -/
def ringcfgWrite (fn : Fn) (v : W32) (d : Dev) : Dev :=
    let f := fn.toNat
    let x := func d f
    let en := v.toNat.testBit 8
    let nlog := if x.enable then x.nlog.toNat else fld v.toNat 4 0
    if !fnOn d f then d
    else if x.enable then
      if en then d
      else modF { d with queues := tdel (tdel d.queues (4 * f)) (4 * f + 1) } f fun x => { x with enable := false, cqHeld := 0 }
    else
      let ok := en && decide (5 ≤ nlog) && decide (nlog ≤ 16)
      let d := modF d f fun x => { x with nlog := BitVec.ofNat 5 nlog, enable := ok }
      if ok then addQueue (addQueue d (4 * f) (mkQueue 3 f 6 nlog 0 true 0)) (4 * f + 1) (mkQueue 3 f 5 nlog 1 true 0) else d

/-- FN_RINGCFG_WRITE (R366). -/
def execFnRingcfgWrite (fn : Fn) (v : W32) (s : State) : Host.Outcome State Fault Refusal :=
  run (ringcfgWrite fn v) s

/-- A doorbell sets a pointer under the check of R348; a value past the ring forces its reset (R367). -/
def doorbell (d : Dev) (n : Nat) (f : Queue → Queue) : Dev :=
  let q := queue d n
  if !q.enable then d
  else if qOk q && qOk (f q) then modQ d n f
  else forceReset d n

/-- FN_SQTAIL_WRITE (R367). A doorbell on any function wakes the command processor from light PWAIT (R443, R445). -/
def sqtailWrite (fn : Fn) (v : W32) (d : Dev) : Dev :=
  if fnOn d fn.toNat then wakeBy (doorbell d (4 * fn.toNat) fun q => setWp q v) 2 else d

/-- FN_SQTAIL_WRITE (R367, R443, R445). -/
def execFnSqtailWrite (fn : Fn) (v : W32) (s : State) : Host.Outcome State Fault Refusal :=
  run (sqtailWrite fn v) s

/-- FN_CQHEAD_WRITE (R367, R443). -/
def cqheadWrite (fn : Fn) (v : W32) (d : Dev) : Dev :=
  if fnOn d fn.toNat then wakeBy (doorbell d (4 * fn.toNat + 1) fun q => setRp q v) 2 else d

/-- FN_CQHEAD_WRITE (R367, R443). -/
def execFnCqheadWrite (fn : Fn) (v : W32) (s : State) : Host.Outcome State Fault Refusal :=
  run (cqheadWrite fn v) s

/-- The packet at an address of host memory (R370), and its bytes 2–3. -/
def packetAt (d : Dev) (f a : Nat) : Nat × Nat × HostCmd :=
  let b := hostPeek d a 64
  let w (i : Nat) : W64 := BitVec.ofNat 64 (leAt b (8 + 8 * i) 8)
  (leAt b 0 1, leAt b 2 2, { fn := BitVec.ofNat 4 f, tag := BitVec.ofNat 32 (leAt b 4 4), flags := BitVec.ofNat 8 (leAt b 1 1)
                             p0 := w 0, p1 := w 1, p2 := w 2, p3 := w 3, p4 := w 4, p5 := w 5, p6 := w 6 })

/-- Opcodes of R377. -/
def opcodes : List Nat :=
  [0, 1, 2, 3, 8, 9, 10, 0x10, 0x11, 0x12, 0x13, 0x18, 0x19, 0x20, 0x21, 0x22, 0x23, 0x28, 0x29, 0x2A, 0x2B, 0x2C, 0x30, 0x31, 0x32,
   0x33, 0x38, 0x39, 0x3A, 0x3B, 0x3C, 0x40, 0x41, 0x42, 0x43, 0x44, 0x48, 0x49, 0x4A, 0x50, 0x51, 0x58, 0x59, 0x60, 0x61]

/-- The descriptor of a gauntlet's queue of a number; none where it has none. -/
def qidOf (d : Dev) (g qid : Nat) : Option Nat :=
  (d.queues.find? fun p => p.2.nlog != 0 && p.2.gnt.toNat == g && p.2.qid.toNat == qid).map (·.1)

/-- QCTL, which the opcode table of the block gives no row of its own: it runs when it is fetched (R346, R356, R357). -/
def qctlCmd (h : HostCmd) (d : Dev) : Dev :=
  match qidOf d h.fn.toNat h.p0.toNat with
  | none => rejCmd d h 0x33 0x51
  | some n =>
    let d := if h.p1.toNat.testBit 0 then ctlFlush d n (.reader h.fn none) else d
    let d := if h.p1.toNat.testBit 1 then ctlDroprest d n (.reader h.fn none) else d
    doneCmd d h 0x33 0 0

/-- COMMAND_FETCH: the next command of a ring, if the ring may go on and holds a completion credit for the reply (R368,
R373, R384). A reserved opcode or a reserved byte is answered here (R8). -/
def execCommandFetch (fn : Fn) (s : State) : Host.Outcome State Fault Refusal :=
  run (fun d =>
    let f := fn.toNat
    let x := func d f
    let sq := queue d (4 * f)
    let cq := queue d (4 * f + 1)
    if !x.enable || !sq.enable || !cq.enable || x.cur.isSome || !d.ident.up || x.d3 || !cpRuns d || !fnOn d f then d
    else if !qOk sq then forceReset d (4 * f)
    else if !qOk cq then forceReset d (4 * f + 1)
    else if occ sq = 0 ∨ 2 ^ cq.nlog.toNat ≤ occ cq + x.cqHeld then d
    else
      let (op, rsv, h) := packetAt d f (x.sqbase.toNat + 64 * slotOf sq sq.rp)
      let d := modQ (hostRdCount d f 64) (4 * f) fun q => setRp q (q.rp + 1)
      let d := startCmd (modF d f fun x => { x with cqHeld := x.cqHeld + 1 }) op h
      if !opcodes.contains op || rsv != 0 then rejCmd d h op 0x58
      else if op = 0x33 then
        match cmdGate d 0x33 [pAny, 3] 0x58 h with
        | some c => rejCmd d h 0x33 c
        | none => qctlCmd h d
      else d) s

/-- CONTROL_CORE_TAKEOVER: another core takes over the command that the core served, which is executed again (R375). Commits
are whole (log 75), and chunks that have ended are not run again (R374). -/
def execControlCoreTakeover (core : BitVec 2) (s : State) : Host.Outcome State Fault Refusal :=
  run (fun d =>
    let busy := (List.range 16).filter fun f => (func d f).cur.isSome
    match busy[core.toNat]? with
    | some _ => inc32 d rHIF_REEXEC 1
    | none => d) s

/-! ### Vectors (R381) -/

/-- MSIX_HOLDOFF_EXPIRY: HOLDOFF µs after the first reply not yet signalled (R381). -/
def execMsixHoldoffExpiry (fn : Fn) (s : State) : Host.Outcome State Fault Refusal :=
  run (fun d =>
    let x := func d fn.toNat
    if x.holdRun ∧ x.unsig ≠ 0 then fireVec (modF d fn.toNat fun x => { x with unsig := 0, holdRun := false }) fn.toNat 0 else d) s

/-- MSIX_UNMASK: a pending vector fires (R381). -/
def msixUnmask (fn : Fn) (vec : BitVec 2) (d : Dev) : Dev :=
    let f := fn.toNat
    let v := vec.toNat
    let x := func d f
    let (a, w, _) := tget (0, 0, false) x.msix v
    let d := modF d f fun x => { x with msix := tput x.msix v (a, w, false) }
    if x.pba.toNat.testBit v then
      fireVec (modF d f fun x => { x with pba := BitVec.ofNat 4 (x.pba.toNat - 2 ^ v) }) f v
    else d

/-- MSIX_UNMASK (R381). -/
def execMsixUnmask (fn : Fn) (vec : BitVec 2) (s : State) : Host.Outcome State Fault Refusal :=
  run (msixUnmask fn vec) s

/-! ### NOP, OPEN (R377, R380) -/

/-- NOP (R377). -/
def execCmdNop (h : HostCmd) (s : State) : Host.Outcome State Fault Refusal :=
  hostCmd 0 [pAny] 0x58 h (fun d => doneCmd d h 0 h.p0.toNat 0) s

/-- Feature word offered (R380): FABRIC once a configuration has enabled a port. -/
def featOff (d : Dev) : Nat :=
  0x7E0F + (match d.fab with
    | some c => if c.portmap.any fun p => p.1 then 0x100 else 0
    | none => 0)

/-- OPEN (R361, R372, R380, R454). -/
def execCmdOpen (h : HostCmd) (s : State) : Host.Outcome State Fault Refusal :=
  hostCmd 1 [pAny, pAny] 0x58 h (fun d =>
    let f := h.fn.toNat
    let w := h.p0.toNat &&& featOff d
    if (func d f).openF || !(gaunt d f).present || (gaunt d f).tearing != 0 || !d.ident.up || d.ident.lowrate || !cpRuns d then
      rejCmd d h 1 0x5A
    else if !w.testBit 0 then rejCmd d h 1 0x5B
    else doneCmd (modF d f fun x => { x with openF := true, feat := BitVec.ofNat 128 w }) h 1 w 0) s

/-! ### Memory commands (R374) -/

/-- What refuses a memory command at once: its parameters, or a tier-4 VA in its range (R164, R377). -/
def memBad (op : Nat) (h : HostCmd) : Option Nat :=
  let a := h.p0.toNat
  let n := h.p2.toNat
  let shape := if op = 10 then n % 8 == 0
    else decide (4 ≤ n) && decide (n ≤ 2 ^ 32) && n % 4 == 0 && a % 4 == 0 && h.p1.toNat % 4 == 0
  if !shape then some 0x58
  else if a < 0x810000000000 ∧ 0x800000000000 < a + n then some 0x1A
  else none

/-- READ, WRITE and FILL when taken: they wait for the end of a boundary sequence. -/
def memCmd (op : Nat) (h : HostCmd) (d : Dev) : Dev :=
  match memBad op h with
  | some c => rejCmd d h op c
  | none => atBoundary d op h.fn.toNat 0 h

/-- READ (R374). -/
def execCmdRead (h : HostCmd) (s : State) : Host.Outcome State Fault Refusal := hostCmd 8 [pAny, pAny, pAny] 0x58 h (memCmd 8 h) s
/-- WRITE (R374). -/
def execCmdWrite (h : HostCmd) (s : State) : Host.Outcome State Fault Refusal := hostCmd 9 [pAny, pAny, pAny] 0x58 h (memCmd 9 h) s
/-- FILL (R374). -/
def execCmdFill (h : HostCmd) (s : State) : Host.Outcome State Fault Refusal := hostCmd 10 [pAny, pAny, pAny] 0x58 h (memCmd 10 h) s

/-- The end of a boundary sequence starts a memory command that R40 and R438 allow. -/
def bndMemCmd (d : Dev) (w : Waiting) : Dev :=
  let op := w.op.toNat
  let f := w.cmd.fn.toNat
  if !(memDoms d f).all (domOn d) || conflicts [cmdRange op w.cmd] (heldRanges d f) then d
  else modF { d with bnds := d.bnds.erase w } f fun x => { x with cur := x.cur.map fun c => { c with started := true, tries := 0 } }

/-- Twice the line rate in GT/s of a rate as `Ident.rate` keeps it (log 77). -/
def rate2 (c : Nat) : Nat := [0, 5, 10, 64, 128, 256, 16, 32].getD c 0

/-- Bytes of a chunk: what the link moves in a quarter of the stroke at its raw rate, in whole multiples of 64 KiB (R374). -/
def chunkBytes (d : Dev) : Nat :=
  max 65536 (rate2 d.ident.rate.toNat * d.ident.width.toNat * strokeNs d.strk.k / 64 / 65536 * 65536)

/-- A memory command ends short: REJECTED where nothing has moved, FAILED else or where the host's side failed (R371, R375). -/
def memFail (d : Dev) (h : HostCmd) (op code off : Nat) : Dev :=
  let st := if off = 0 ∧ code ≠ 0x61 ∧ code ≠ 0x5E then 1 else 2
  endCmd (reply d h op st code (if op = 10 then 0 else off) 0) h.fn.toNat

/-- The bytes of a pattern from a position that is a multiple of its length. -/
def patBytes (v : W64) (n : Nat) : Bytes := (List.range (n / 8)).flatMap fun _ => leBytes 8 v.toNat

/-- A chunk writes gauntlet memory: its weight and row caches are to be emptied (R170, R240). -/
def chunkWrite (d : Dev) (g va : Nat) (bs : Bytes) : Except XErr Dev :=
  match vaWrite d g va bs with
  | .error e => .error e
  | .ok d => .ok (modG d g fun x => { x with wrote := true, wroteRow := true })

/-- What one chunk moves; the reason where it cannot. -/
def moveChunk (d : Dev) (op : Nat) (h : HostCmd) (off n : Nat) : Except (Nat × Dev) Dev :=
  let f := h.fn.toNat
  let va := h.p0.toNat + off
  let bad (e : XErr) : Nat × Dev := (e.code, noteX d e)
  if op = 8 then match vaGet d f va n with
    | .error e => .error (bad e)
    | .ok (bs, d) => match hostPut d f (h.p1.toNat + off) bs with
      | some d => .ok d
      | none => .error (0x61, d)
  else if op = 9 then match hostGet d f (h.p1.toNat + off) n with
    | none => .error (0x61, d)
    | some (bs, d) => match chunkWrite d f va bs with
      | .error e => .error (bad e)
      | .ok d => .ok d
  else match chunkWrite d f va (patBytes h.p1 n) with
    | .error e => .error (bad e)
    | .ok d => .ok d

/-- MEMORY_CHUNK: the next chunk of a memory command ends, and the command with its last one (R374). -/
def execMemoryChunk (fn : Fn) (s : State) : Host.Outcome State Fault Refusal :=
  run (fun d =>
    let f := fn.toNat
    match (func d f).cur with
    | none => d
    | some c =>
      if !c.started || d.pwait.active then d
      else
        let op := c.op.toNat
        let h := c.cmd
        let total := h.p2.toNat
        let n := min (chunkBytes d) (total - c.off)
        match moveChunk d op h c.off n with
        | .error (code, d) => memFail d h op code c.off
        | .ok d =>
          if c.off + n < total then modF d f fun x => { x with cur := some { c with off := c.off + n, tries := 0 } }
          else doneCmd d h op (if op = 10 then 0 else total) 0) s

/-- Count an overrun in a field of STRK_OVRCNT (R48): 0 seat tile jobs, 1 engine tile jobs, 2 decode items, 3 reduction chunks and
commands; each saturates at 255. -/
def ovrCount (d : Dev) (f : Nat) : Dev :=
  let v := reg d rSTRK_OVRCNT
  if fld v (8 * f + 7) (8 * f) = 255 then d else setReg d rSTRK_OVRCNT (v + 2 ^ (8 * f))

/-- A chunk at its overrun boundary, the second after its start, is cancelled and executed again; the third time the
command fails with OVERRUN (R29, R30, R374). -/
def chunkOverrun (d : Dev) (f : Nat) : Dev :=
  match (func d f).cur with
  | none => d
  | some c =>
    if !c.started then d
    else
      let t := c.tries + 1
      let d := modF d f fun x => { x with cur := some { c with tries := t } }
      if t % 2 ≠ 0 then d
      else
        let d := event (ovrCount d 3) 0x09 (some f) 0x5E [5, unitCode 5 8] [f]
        if t < 6 then inc32 d rHIF_REEXEC 1 else memFail d c.cmd c.op.toNat 0x5E c.off

/-! ### Queue commands (R346, R347, R351) -/

/-- A queue in memory lies in extents of its owner, reached through its translation (R347). -/
def qbaseOk (d : Dev) (g va n : Nat) : Bool :=
  (ranges va n).all fun p => match translate d g p.1 false with
    | .ok (.here ..) => true
    | .error e => e.code == cPERM
    | _ => false

/-- QCREATE: the lowest free descriptor from 128, the lowest free number from 4 (R346; log 11). -/
def execCmdQcreate (h : HostCmd) (s : State) : Host.Outcome State Fault Refusal :=
  hostCmd 0x30 [0x7FF, pAny] 0x51 h (fun d =>
    let g := h.fn.toNat
    let p := h.p0.toNat
    let esz := fld p 5 2
    let nlog := fld p 10 6
    let base := h.p1.toNat
    if !(decide (4 ≤ esz) && decide (esz ≤ 9) && decide (5 ≤ nlog) && decide (nlog ≤ 16) && qbaseOk d g base (2 ^ (esz + nlog))) then
      rejCmd d h 0x30 0x51
    else
      let used := (d.queues.filter fun x => x.2.gnt.toNat == g && x.2.nlog != 0).map fun x => x.2.qid.toNat
      let n := ((List.range 1664).map (128 + ·)).find? fun n => (tfind d.queues n).isNone
      let q := ((List.range 4092).map (4 + ·)).find? fun q => !used.contains q
      match n, q with
      | some n, some q => doneCmd (addQueue d n (mkQueue (fld p 1 0) g esz nlog q false base)) h 0x30 q 0
      | _, _ => rejCmd d h 0x30 0x5D) s

/-- QDESTROY: a queue that QCREATE made; the module's own stay (QDESC; log 78). -/
def execCmdQdestroy (h : HostCmd) (s : State) : Host.Outcome State Fault Refusal :=
  hostCmd 0x31 [pAny] 0x58 h (fun d =>
    match qidOf d h.fn.toNat h.p0.toNat with
    | some n => if n < 128 then rejCmd d h 0x31 0x51 else doneCmd { d with queues := tdel d.queues n } h 0x31 0 0
    | none => rejCmd d h 0x31 0x51) s

/-- QSTAT: the descriptor as of the latest snapshot (R43, R346). -/
def execCmdQstat (h : HostCmd) (s : State) : Host.Outcome State Fault Refusal :=
  hostCmd 0x32 [pAny, pAny] 0x58 h (fun d =>
    match qidOf d h.fn.toNat h.p0.toNat with
    | some n => putDone d h 0x32 h.p1.toNat (padTo 64 (queue d n).snapImg) 0 0
    | none => rejCmd d h 0x32 0x51) s

end Sys2Proof.Machine
end

