-- ==== Sys2Proof/Machine/KvCmd.lean ====
section
/-! DEFINITION. The KV pool and KV table commands (R204, R207, R210, R232, R376). -/
namespace Sys2Proof.Machine

/-- A KV command is refused; KVM_ERR records the failure (R233). -/
def kvRej (d : Dev) (h : HostCmd) (op code tab : Nat) : Dev :=
  let d := if 0x28 ≤ code ∧ code ≤ 0x2C then
    recordErr d rKVM_ERR rKVM_ERRINFO (code - 0x28) (h.fn.toNat + 16 * (tab % 1024) + code * 2 ^ 16) else d
  rejCmd d h op code

/-- Extents that a FRAME value can name, stacked first (log 69). -/
def frameExts (f : Nat) : List Ext := [frameExt 2 f, frameExt 3 f].filterMap id

/-- An extent is mapped in a window of its gauntlet. -/
def extMapped (d : Dev) (g : Nat) (e : Ext) : Bool := !(naming d g [e]).isEmpty

/-- KVPOOL: an extent of the gauntlet joins its pool, or leaves it (R204). -/
def kvpoolBody (h : HostCmd) (d : Dev) : Dev :=
  let g := h.fn.toNat
  let l := frameExts h.p1.toNat
  let own := l.filter fun e => extState d e == 1 && extOwner d e == g
  let set (f : List Nat → List Nat) (e : Ext) : Dev :=
    modG d g fun x => if e.1 then { x with poolL := f x.poolL } else { x with poolS := f x.poolS }
  if l.isEmpty then rejCmd d h 0x38 0x58
  else if h.p0.toNat.testBit 0 then
    match own.find? (inPool d g) with
    | some e => if poolBusy d g e then kvRej d h 0x38 cKVLIMIT 0 else doneCmd (set (·.filter (· != e.2)) e) h 0x38 0 0
    | none => kvRej d h 0x38 cKVLIMIT 0
  else match own.find? fun e => !inPool d g e && !extMapped d g e with
    | some e => doneCmd (set (· ++ [e.2]) e) h 0x38 0 0
    | none => kvRej d h 0x38 cKVLIMIT 0

/-- KVPOOL, add (R204). -/
def execCmdKvpoolAdd (h : HostCmd) (s : State) : Host.Outcome State Fault Refusal := hostCmd 0x38 [1, pAny] 0x58 h (kvpoolBody h) s
/-- KVPOOL, remove: the same packet, P0 [0] set (R204). -/
def execCmdKvpoolRemove (h : HostCmd) (s : State) : Host.Outcome State Fault Refusal := hostCmd 0x38 [1, pAny] 0x58 h (kvpoolBody h) s

/-- Fields of KVCREATE in their ranges (R207). P0 holds CTL in [31:16] and CAP in [63:32], each at its root byte within its 64-bit
word (log 80); its gauntlet is the function's. -/
def kvcreateOk (h : HostCmd) : Bool :=
  let ctl := fld h.p0.toNat 31 16
  let cap := fld h.p0.toNat 63 32
  let hg := fld ctl 7 4 + 1
  let dim := 64 * (fld ctl 13 12 + 1)
  let fmt := fld ctl 11 8
  let seg := h.p1.toNat
  decide (1 ≤ fmt) && decide (fmt ≤ 4) && decide (1 ≤ cap) && decide (cap ≤ 262144) && seg % 64 == 0 &&
    decide (seg + 64 * cap ≤ 16777216) && decide (h.p2.toNat + cap * hg * (2 * dim + 64) ≤ 2 ^ 36)

/-- KVCREATE (R207): the lowest free table; its copies lie in runs of frames of the stacked pool. Without room for them the
command is refused with NORES (log 81). -/
def execCmdKvcreate (h : HostCmd) (s : State) : Host.Outcome State Fault Refusal :=
  hostCmd 0x39 [2 ^ 64 - 2 ^ 16, pAny, pAny] 0x58 h (fun d =>
    let g := h.fn.toNat
    let ctl := fld h.p0.toNat 31 16
    let cap := fld h.p0.toNat 63 32
    let hg := fld ctl 7 4 + 1
    let n := (cap * hg * 8 + 65535) / 65536
    if ctl / 2 ^ 14 ≠ 0 then rejCmd d h 0x39 0x58
    else if !kvcreateOk h then kvRej d h 0x39 cKVLIMIT 0
    else match (List.range 1024).find? fun t => (tfind d.kv t).isNone with
      | none => rejCmd d h 0x39 0x5D
      | some t => match allocRun d g n with
        | none => rejCmd d h 0x39 0x5D
        | some (a, d1) => match allocRun d1 g n with
          | none => rejCmd d h 0x39 0x5D
          | some (b, d) =>
            let (v, d) := freeVal d
            let d := store (store d (.fill (frameAt a) (n * 65536) 0)) (.fill (frameAt b) (n * 65536) 0)
            let r : KvRoot := { KvRoot.reset with
              gnt := h.fn, hg := hg, fmt := BitVec.ofNat 4 (fld ctl 11 8), dimc := BitVec.ofNat 2 (fld ctl 13 12), gtag := BitVec.ofNat 8 v.toNat
              cap := BitVec.ofNat 32 cap, segbase := BitVec.ofNat 32 h.p1.toNat, tab0 := BitVec.ofNat 64 (a * 65536)
              tab1 := BitVec.ofNat 64 (b * 65536), sum := h.p2 }
            doneCmd { d with kv := tput d.kv t r } h 0x39 t 0) s

/-- KVDESTROY: the reply and the release wait until no walker lives (R207, R377). -/
def execCmdKvdestroy (h : HostCmd) (s : State) : Host.Outcome State Fault Refusal :=
  hostCmd 0x3A [pAny] 0x58 h (fun d =>
    let t := h.p0.toNat
    if decide (1024 ≤ t) || !ownTable d h.fn.toNat t then kvRej d h 0x3A 0x29 t
    else settle (deferCmd d 0x3A h.fn.toNat t h)) s

/-- The 64 bytes of a root record (R207). -/
def rootBytes (t : Nat) (r : KvRoot) : Bytes :=
  leBytes 2 t ++ leBytes 2 (r.gnt.toNat + (r.hg - 1) * 16 + r.fmt.toNat * 256 + r.dimc.toNat * 4096) ++ [r.gtag, 0, 0, 0] ++
  leBytes 4 r.len.toNat ++ leBytes 4 r.cap.toNat ++ leBytes 4 r.segbase.toNat ++ leBytes 4 r.gen.toNat ++ leBytes 8 r.tab0.toNat ++
  leBytes 8 r.tab1.toNat ++ leBytes 8 r.sum.toNat ++ leBytes 4 r.pend.toNat ++ leBytes 2 r.live ++ leBytes 2 r.livePrev ++
  leBytes 4 r.defer.length ++ leBytes 4 r.edits.length

/-- KVROOT (R207, R377). -/
def execCmdKvroot (h : HostCmd) (s : State) : Host.Outcome State Fault Refusal :=
  hostCmd 0x3B [pAny, pAny] 0x58 h (fun d =>
    let t := h.p0.toNat
    if decide (1024 ≤ t) || !ownTable d h.fn.toNat t then kvRej d h 0x3B 0x29 t
    else putDone d h 0x3B h.p1.toNat (rootBytes t (kvOf d t)) 0 0) s

/-- A KV edit command queues its edit, and its ring waits until a boundary at or after the swap that publishes it (R210, R376).
P2 is a position for a truncation, an entry number else (log 35, log 36); the frame of a page that comes back is taken now
(log 40). -/
def kveditBody (h : HostCmd) (d : Dev) : Dev :=
  let g := h.fn.toNat
  let t := h.p0.toNat
  let kind := fld h.p1.toNat 1 0
  let v := h.p2.toNat
  let r := kvOf d t
  let queueIt (d : Dev) (f : Nat) : Dev :=
    let d := modKv d t fun r => { r with edits := r.edits ++ [(kind, h.p2, f)] }
    atBoundary d 0x3C g (t + 1024 * (r.gen + BitVec.ofNat 32 (r.edits.length + 1)).toNat) h
  if decide (1024 ≤ t) || !ownTable d g t then kvRej d h 0x3C 0x29 t
  else if kind = 0 then (if r.len.toNat < v then kvRej d h 0x3C cKVLIMIT t else queueIt d 0)
  else if kvEntries r ≤ v then kvRej d h 0x3C cKVLIMIT t
  else if kind = 3 then
    let e := kvEntry d r r.gen.toNat v
    if !(e.testBit 0 && fld e 4 2 == 3) then atBoundary d 0x3C g (t + 1024 * r.gen.toNat) h
    else match allocS d g 1 with
      | some ([f], d) => queueIt d f
      | _ => kvRej d h 0x3C 0x28 t
  else queueIt d 0

/-- KVEDIT, truncate (R210). -/
def execCmdKveditTruncate (h : HostCmd) (s : State) : Host.Outcome State Fault Refusal := hostCmd 0x3C [pAny, 3, pAny] 0x58 h (kveditBody h) s
/-- KVEDIT, pin a page (R206, R210). -/
def execCmdKveditPin (h : HostCmd) (s : State) : Host.Outcome State Fault Refusal := hostCmd 0x3C [pAny, 3, pAny] 0x58 h (kveditBody h) s
/-- KVEDIT, unpin a page (R206, R210). -/
def execCmdKveditUnpin (h : HostCmd) (s : State) : Host.Outcome State Fault Refusal := hostCmd 0x3C [pAny, 3, pAny] 0x58 h (kveditBody h) s
/-- KVEDIT, bring a page back to stacked SRAM (R210). -/
def execCmdKveditBringBack (h : HostCmd) (s : State) : Host.Outcome State Fault Refusal := hostCmd 0x3C [pAny, 3, pAny] 0x58 h (kveditBody h) s

/-- A KVEDIT that waits is answered at the first boundary at or after its swap (R376). -/
def bndKvedit (d : Dev) (w : Waiting) : Dev :=
  let t := w.key % 1024
  let r := kvOf d t
  if r.cap = 0 then failCmd { d with bnds := d.bnds.erase w } w.cmd 0x3C 0x5F
  else if (r.gen - BitVec.ofNat 32 (w.key / 1024)).toNat < 2 ^ 31 then doneCmd { d with bnds := d.bnds.erase w } w.cmd 0x3C 0 0
  else d

end Sys2Proof.Machine
end

