-- ==== Sys2Proof/Machine/FabCmd.lean ====
section
/-! DEFINITION. The fabric commands (R254, R255, R263, R268, R273): FABCFG and its application at a boundary, FTAGBIND, PEERSET,
RGCREATE with its JOIN messages, RGDESTROY. -/
namespace Sys2Proof.Machine

/-! ### Fabric configuration (R23, R254, R255) -/

/-- A configuration as its image gives it (R254; log 82). -/
def fabImage (b : Bytes) : FabCfg :=
  let v (i : Nat) : Nat := Config.fabImage i b
  { mid := BitVec.ofNat 12 (v 0), node := BitVec.ofNat 9 (v 1), slot := BitVec.ofNat 3 (v 2), k := BitVec.ofNat 4 (v 3)
    ref := BitVec.ofNat 12 (v 4), upport := BitVec.ofNat 4 (v 5), digest := BitVec.ofNat 256 (v 6), apply := BitVec.ofNat 64 (v 7)
    portmap := (List.range 16).map fun p => ((v (16 + p)).testBit 16, BitVec.ofNat 12 (v (16 + p)), BitVec.ofNat 4 (v (16 + p) / 4096))
    limit := (List.range 256).map fun i => (i, v (32 + i) % 4096)
    route := (List.range 4096).map fun i => (i, BitVec.ofNat 4 (v (512 + i))) }

/-- FABCFG: the configuration is held, and the command waits for the boundary that applies it (R255, R376). -/
def execCmdFabcfg (h : HostCmd) (s : State) : Host.Outcome State Fault Refusal :=
  hostCmd 0x40 [pAny, pAny] 0x58 h (fun d =>
    match hostGet d 0 h.p0.toNat h.p1.toNat with
    | none => failCmd d h 0x40 0x61
    | some (b, d) =>
      let c := fabImage b
      if decide (9 < c.k.toNat) || (d.fab.isSome && decide (c.apply.toNat ≤ d.strk.count.toNat)) then
        rejCmd (fabErr d 2 0 0 0x3A 0) h 0x40 0x3A
      else atBoundary { d with fabPend := some c } 0x40 0 0 h) s

/-- Ports under a configuration: disabled, or training anew (R252, R254, R256). -/
def fabPorts (d : Dev) (c : FabCfg) : Dev :=
  (List.range 16).foldl (fun d p => match c.portmap[p]? with
    | some (true, _, _) =>
      if engFenced d (p / 4) then d else modPort d p fun x => if x.state = 0 ∨ x.state = 5 then { x with state := 1 } else x
    | _ => modPort d p fun x => { x with state := 5, lanes := 0 }) d

/-- A held configuration meets its conditions at this boundary (R255). -/
def fabDue (d : Dev) (c : FabCfg) : Bool :=
  !fabBusy d && (d.fab.isNone || decide (c.apply.toNat ≤ d.strk.count.toNat)) &&
    (c.k == d.strk.k || d.steps.all fun p => p.2.st != .admitted)

/-- The configuration is applied (R255, R411); a module that is late leaves the aligned set. The reference is aligned to
itself. -/
def fabApply (d : Dev) (c : FabCfg) : Dev :=
  let late := decide (c.apply.toNat < d.strk.count.toNat) && c.mid != c.ref
  let d := fabPorts { d with fab := some c, fabPend := none } c
  let m5 := extendM (tget 0 d.ident.meas 5) (leBytes 32 c.digest.toNat)
  let d := { d with ident := { d.ident with meas := tput d.ident.meas 5 m5 }
                    strk := { d.strk with k := c.k, kHeld := none, period := BitVec.ofNat 32 (200000 * 2 ^ c.k.toNat)
                                          aligned := if c.mid = c.ref then true else d.strk.aligned && !late } }
  match d.bnds.find? fun w => w.op == 0x40 with
  | some w => doneCmd { d with bnds := d.bnds.erase w } w.cmd 0x40 0 0
  | none => d

/-- A boundary meets the held configuration: it applies it, or, from APPLY on, leaves the aligned set (R255). -/
def fabBoundary (d : Dev) : Dev :=
  match d.fabPend with
  | none => d
  | some c =>
    if fabDue d c then fabApply d c
    else if d.fab.isSome ∧ c.apply.toNat ≤ d.strk.count.toNat then { d with strk := { d.strk with aligned := false } }
    else d

/-! ### Tenancy and peers (R263, R268, R419) -/

/-- FTAGBIND: binding, rebinding and unbinding destroy every tenancy key of the gauntlet (R263, R419). -/
def execCmdFtagbind (h : HostCmd) (s : State) : Host.Outcome State Fault Refusal :=
  hostCmd 0x41 [0xF, 0xFFFF] 0x58 h (fun d =>
    let g := fld h.p0.toNat 3 0
    let tag := BitVec.ofNat 16 h.p1.toNat
    if !(gaunt d g).present || (gaunt d g).tearing != 0 then rejCmd d h 0x41 0x5A
    else if tag != 0 && (allG d).any fun o => o != g && (gaunt d o).ftag == tag then rejCmd d h 0x41 0x58
    else
      let d := modG d g fun x => { x with ftag := tag, keyCur := none, keyPrev := none, keyStaged := none, sendGen := none, actPend := false, actAt := none }
      doneCmd (m7Note d g 0x41 h) h 0x41 0 0) s

/-- A command that reads a range of gauntlet memory may run now; else it waits for a boundary (R40, R438). -/
def memFree (d : Dev) (g va n : Nat) : Bool :=
  let a := va / 65536 * 65536
  (memDoms d g).all (domOn d) && !(conflicts [(BitVec.ofNat 64 a, (alignUp (va + n) 65536 - a) / 65536, false)] (heldRanges d g))

/-- PEERSET (R268). -/
def peersetBody (h : HostCmd) (d : Dev) : Dev :=
  let g := h.fn.toNat
  let a := h.p0.toNat
  let n := h.p2.toNat
  if 64 < a + n then rejCmd d h 0x42 0x58
  else if !memFree d g h.p1.toNat (4 * n) then atBoundary d 0x42 g 0 h
  else match vaGet d g h.p1.toNat (4 * n) with
    | .error e => rejCmd (noteX d e) h 0x42 e.code
    | .ok (b, d) =>
      let es := (List.range n).map fun i => w32At b (4 * i)
      if es.any fun e => decide (2 ^ 13 ≤ e) then rejCmd d h 0x42 0x58
      else doneCmd (modG d g fun x => { x with peers := (List.range n).foldl (fun t i =>
        tput t (a + i) (BitVec.ofNat 32 (es.getD i 0))) x.peers }) h 0x42 0 0

/-- PEERSET (R268). -/
def execCmdPeerset (h : HostCmd) (s : State) : Host.Outcome State Fault Refusal := hostCmd 0x42 [pAny, pAny, pAny] 0x58 h (peersetBody h) s

/-! ### Reduction groups (R273) -/

/-- Order of member-list entries: NODE, then SLOT. -/
def memKey (e : Nat) : Nat := fld e 20 12 * 8 + fld e 23 21

/-- A member list: strictly ascending, reserved bits zero, this module among it (R273). -/
def memListOk (d : Dev) (l : List Nat) : Bool :=
  l.all (fun e => decide (e < 2 ^ 24)) && ((l.zip (l.drop 1)).all fun p => decide (memKey p.1 < memKey p.2)) &&
    l.any fun e => fld e 11 0 == myMid d

/-- The digest that JOIN carries: the first 28 bytes of the SHA3-256 of the member list (R259). -/
def joinDigest (l : List W32) : Bytes :=
  (leBytes 32 (Config.sha3 (l.flatMap fun e => leBytes 4 e.toNat)).toNat).take 28

/-- The RGCREATE that waits for a group. -/
def rgWait (d : Dev) (g n : Nat) : Option Waiting := d.waits.find? fun w => w.op == 0x43 && w.g.toNat == g && w.key == n

/-- The reply of RGCREATE is due when every other member's JOIN has been compared. -/
def rgCheck (d : Dev) (g n : Nat) : Dev :=
  match tfind (gaunt d g).groups n, rgWait d g n with
  | some r, some w =>
    if r.members.all fun e => memMid e == myMid d || r.joins.contains (memMid e) then
      replyOk { d with waits := d.waits.erase w } w.cmd 0x43 0 0
    else d
  | _, _ => d

/-- A JOIN meets a group: a digest that differs fails the creating command with REDSEQ, and the group is not made. -/
def joinMeet (d : Dev) (g n src : Nat) (digest : Bytes) : Dev :=
  match tfind (gaunt d g).groups n with
  | none => modG d g fun x => { x with earlyJ := x.earlyJ ++ [(n, BitVec.ofNat 12 src, digest)] }
  | some r =>
    if !(r.members.any fun e => memMid e == src) || r.joins.contains src then d
    else if padTo 28 digest = joinDigest r.members then
      rgCheck (modG d g fun x => { x with groups := tput x.groups n { r with joins := r.joins ++ [src] } }) g n
    else match rgWait d g n with
      | some w =>
        let d := modG { d with waits := d.waits.erase w } g fun x => { x with groups := tdel x.groups n }
        replyFail (fabErr d 3 g 0 0x3B src) w.cmd 0x43 0x3B 0
      | none => d

/-- JOIN_RECEIVED (R273). -/
def execJoinReceived (g : Gnt) (group : BitVec 3) (src : Mid) (digest : Bytes) (s : State) : Host.Outcome State Fault Refusal :=
  run (fun d => if (gaunt d g.toNat).present then joinMeet d g.toNat group.toNat src.toNat digest else d) s

/-- RGCREATE (R273): the group exists, JOIN goes to every other member, and those that came early are compared. -/
def rgcreateBody (h : HostCmd) (d : Dev) : Dev :=
  let g := h.fn.toNat
  let n := h.p0.toNat
  let cnt := h.p2.toNat
  let lim := h.p4.toNat
  let bad (d : Dev) : Dev := rejCmd (fabErr d 2 g 0 0x3A 0) h 0x43 0x3A
  if (tfind (gaunt d g).groups n).isSome then rejCmd d h 0x43 0x5A
  else if cnt = 0 ∨ 4096 < cnt ∨ lim = 0 ∨ 2 ^ 36 < h.p3.toNat + lim * 196608 then bad d
  else if !memFree d g h.p1.toNat (4 * cnt) then atBoundary d 0x43 g 0 h
  else match vaGet d g h.p1.toNat (4 * cnt) with
    | .error e => rejCmd (noteX d e) h 0x43 e.code
    | .ok (b, d) => match transRange d g h.p3.toNat (lim * 196608) true with
      | .error e => rejCmd (noteX d e) h 0x43 e.code
      | .ok _ =>
        let l := (List.range cnt).map fun i => w32At b (4 * i)
        if !memListOk d l then bad d
        else
          let ms := l.map (BitVec.ofNat 32)
          let r : RGroup := { members := ms, work := h.p3, limit := lim, tcnt := 0, joins := [], early := [] }
          let early := (gaunt d g).earlyJ.filter fun j => j.1 == n
          let d := modG d g fun x => { x with groups := tput x.groups n r, earlyJ := x.earlyJ.filter fun j => j.1 != n }
          let hdr := leBytes 1 n ++ [0, 0, 0] ++ joinDigest ms
          let d := l.foldl (fun d e => if fld e 11 0 = myMid d then d else sendMsg d g (fld e 11 0) 3 2 hdr []) d
          let d := rgCheck (deferCmd d 0x43 g n h) g n
          early.foldl (fun d j => joinMeet d g n j.2.1.toNat j.2.2) d

/-- RGCREATE (R273). -/
def execCmdRgcreate (h : HostCmd) (s : State) : Host.Outcome State Fault Refusal :=
  hostCmd 0x43 [7, pAny, pAny, pAny, pAny] 0x58 h (rgcreateBody h) s

/-- RGDESTROY. A group that an admitted or suspended step names is refused with STATE (log 83). -/
def execCmdRgdestroy (h : HostCmd) (s : State) : Host.Outcome State Fault Refusal :=
  hostCmd 0x44 [7] 0x58 h (fun d =>
    let g := h.fn.toNat
    let n := h.p0.toNat
    if (tfind (gaunt d g).groups n).isNone || (liveSteps d g).any fun p => (progOf p.2).group == some n then rejCmd d h 0x44 0x5A
    else
      let d := match rgWait d g n with
        | some w => replyFail { d with waits := d.waits.erase w } w.cmd 0x43 0x5F 0
        | none => d
      doneCmd (modG d g fun x => { x with groups := tdel x.groups n }) h 0x44 0 0) s

end Sys2Proof.Machine
end

