-- ==== Sys2Proof/Machine/EngCmd.lean ====
section
/-! DEFINITION. Commands of the engines and of reporting: tokeniser tables (R300, R318), codec sessions (R330, R343, R344), TELCFG
(R475), PWRSET with PWAIT (R441–R443). -/
namespace Sys2Proof.Machine

/-! ### Tokeniser tables (R300, R318) -/

/-- A tokeniser table of a step's outputs is the one that a load would replace. -/
def tokUsed (d : Dev) (g t : Nat) : Bool :=
  (liveSteps d g).any fun p => (progOf p.2).ingests.any fun b => (List.range (idNout b)).any fun o =>
    leAt (idOut b o) 0 1 == 3 && leAt (idOut b o) 0xC 1 == t

/-- Bytes of a gauntlet's media SRAM partition that its other tables and its steps' stem buffers take (log 65). -/
def mediaTaken (d : Dev) (g t : Nat) : Nat :=
  ((gaunt d g).toks.filter fun p => p.1 != t).foldl (fun a p => a + p.2.length) 0 +
    (liveSteps d g).foldl (fun a p => (progOf p.2).stems.foldl (fun a b => a + stemBytes b) a) 0

/-- An image is refused: status VOCAB; the table stays as it was. -/
def vocabBad (d : Dev) (h : HostCmd) : Dev :=
  rejCmd (recordErr d rING_ERR rING_ERRINFO 2 (h.fn.toNat + 256 * 0x42)) h 0x48 0x42

/-- TOKLOAD (R300). A table that an admitted step uses is not replaced, and one that does not fit the partition is not loaded
(log 84). -/
def tokloadBody (h : HostCmd) (d : Dev) : Dev :=
  let g := h.fn.toNat
  let t := h.p0.toNat
  let n := h.p2.toNat
  if tokUsed d g t then rejCmd d h 0x48 0x5A
  else if n < 1284 ∨ 1284 + 16 * 261888 < n then vocabBad d h
  else if !(memFree d g h.p1.toNat n && domOn d 105) then atBoundary d 0x48 g 0 h
  else match vaGet d g h.p1.toNat n with
    | .error e => rejCmd (recordErr (noteX d e) rING_ERR rING_ERRINFO 4 (g + 256 * e.code)) h 0x48 e.code
    | .ok (b, d) =>
      if !vocabOk b then vocabBad d h
      else if (gaunt d g).msram.toNat * 2 ^ 22 < mediaTaken d g t + n then rejCmd d h 0x48 0x5D
      else doneCmd (modG d g fun x => { x with toks := tput x.toks t b }) h 0x48 0 0

/-- TOKLOAD (R300). -/
def execCmdTokload (h : HostCmd) (s : State) : Host.Outcome State Fault Refusal := hostCmd 0x48 [3, pAny, pAny] 0x58 h (tokloadBody h) s

/-! ### Codec sessions (R326, R330, R343, R344) -/

/-- A queue number names a class U queue of 32-byte entries of the gauntlet. -/
def vidQueueOk (d : Dev) (g qid : Nat) : Bool :=
  match findQ d g qid with
  | some n => (queue d n).cls == 3 && (queue d n).esz == 5
  | none => false

/-- The encode fields of a session descriptor in their ranges. -/
def vidEncOk (b : Bytes) : Bool :=
  let w := leAt b 0x28 2
  let h := leAt b 0x2A 2
  let sr := leAt b 0x44 2
  decide (leAt b 1 1 ≠ 0) && w % 2 == 0 && decide (64 ≤ w) && decide (w ≤ 8192) && h % 2 == 0 && decide (64 ≤ h) && decide (h ≤ 4320) &&
    decide (leAt b 0x2C 1 ≤ 2) && decide (1 ≤ leAt b 0x2D 1) && decide (leAt b 0x2D 1 ≤ 4) &&
    decide (leAt b 0x2E 2 ≤ if leAt b 1 1 = 1 then 51 else 255) && sr % 16 == 0 && decide (16 ≤ sr) && decide (sr ≤ 2048) &&
    decide (leAt b 0x46 1 ≤ 1)

/-- A session descriptor in its ranges, every reserved field zero (R330). -/
def vidDescOk (d : Dev) (g : Nat) (b : Bytes) : Bool :=
  decide (leAt b 0 1 ≤ 1) && decide (leAt b 1 1 ≤ 2) && decide (leAt b 2 1 ≤ 1) && decide (1 ≤ leAt b 3 1) && decide (leAt b 3 1 ≤ 32) &&
    decide (w32At b 4 < 32) && ((List.range 3).all fun i => vidQueueOk d g (leAt b (0x20 + 2 * i) 2)) && leAt b 0x26 2 == 0 &&
    ((b.drop 0x47).all fun x => x == 0) && (leAt b 0 1 == 0 || vidEncOk b)

/-- A frame-buffer descriptor (R326): allotments large enough, reserved fields zero. -/
def frameBufOk (b : Bytes) : Bool :=
  let aw := leAt b 0x28 2
  let ah := leAt b 0x2A 2
  let pitch := w32At b 0x24
  decide (leAt b 0x2C 1 ≤ 1) && ((b.drop 0x2D).all fun x => x == 0) && pitch % 64 == 0 && decide (aw * (leAt b 0x2C 1 + 1) ≤ pitch) &&
    decide (pitch * ah ≤ w32At b 0x18) && (w64At b 8 == 0 || decide (pitch * ((ah + 1) / 2) ≤ w32At b 0x1C)) &&
    decide (32 * ((aw + 15) / 16) * ((ah + 15) / 16) + 65536 ≤ w32At b 0x20)

/-- VSOPEN is refused with a status of the codec (R344): VIDDESC, VIDSESS, or a failing access. -/
def vsBad (d : Dev) (h : HostCmd) (bit code : Nat) : Dev :=
  rejCmd (recordErr d rVID_ERR rVID_ERRINFO bit (h.fn.toNat + code * 65536)) h 0x49 code

/-- The free session number: decode sessions 0–63, encode sessions from 64. -/
def freeSess (d : Dev) (enc : Bool) : Option Nat :=
  if enc then ((List.range 16).map (64 + ·)).find? fun n => !(sessOf d n).isOpen
  else (List.range 64).find? fun n => !(sessOf d n).isOpen

/-- VSOPEN (R330): the descriptor and the pool are read once. RES0 gives an encode session as 64 more (log 85). -/
def vsopenBody (h : HostCmd) (d : Dev) : Dev :=
  let g := h.fn.toNat
  if !memFree d g h.p0.toNat 128 then atBoundary d 0x49 g 0 h
  else match vaGet d g h.p0.toNat 128 with
    | .error e => vsBad (noteX d e) h 4 e.code
    | .ok (b, d) =>
      if !vidDescOk d g b then vsBad d h 0 0x48
      else
        let nfb := leAt b 3 1
        if !(memFree d g (w64At b 8) (64 * nfb) && domOn d (102 + leAt b 0 1)) then atBoundary d 0x49 g 0 h
        else match vaGet d g (w64At b 8) (64 * nfb) with
          | .error e => vsBad (noteX d e) h 4 e.code
          | .ok (pb, d) =>
            let pool := (List.range nfb).map fun i => slice pb (64 * i) 64
            let enc := leAt b 0 1 == 1
            if !pool.all frameBufOk then vsBad d h 0 0x48
            else match freeSess d enc with
              | none => vsBad d h 2 0x4A
              | some n =>
                let d := modSess d n fun _ => { VSess.reset with isOpen := true, enc := enc, g := h.fn, desc := b, pool := pool }
                markReady (doneCmd d h 0x49 n 0)

/-- VSOPEN (R330). -/
def execCmdVsopen (h : HostCmd) (s : State) : Host.Outcome State Fault Refusal := hostCmd 0x49 [pAny] 0x58 h (vsopenBody h) s

/-- VSCLOSE (R343): the session closes at its next frame boundary, which a session whose frame no pipe holds is at. -/
def execCmdVsclose (h : HostCmd) (s : State) : Host.Outcome State Fault Refusal :=
  hostCmd 0x4A [pAny] 0x58 h (fun d =>
    let n := h.p0.toNat
    let x := sessOf d n
    if 80 ≤ n ∨ !x.isOpen ∨ x.g ≠ h.fn ∨ x.closing then
      rejCmd (recordErr d rVID_ERR rVID_ERRINFO 2 (h.fn.toNat + n % 64 * 16 + (if 64 ≤ n ∧ n < 80 then 1024 else 0) + 0x4A * 65536)) h 0x4A 0x4A
    else
      let d := deferCmd (modSess d n fun x => { x with closing := true, readyAt := 0 }) 0x4A h.fn.toNat n h
      if x.busy then d else vidClose d n) s

/-! ### TELCFG (R475) -/

/-- Configure the entries of the function's gauntlet. The sum of strokes starts anew when stroke entries are turned on and when
EVERY changes. -/
def telConfigure (h : HostCmd) (d : Dev) : Dev :=
  let g := h.fn.toNat
  let v := BitVec.ofNat 8 h.p1.toNat
  let d := modG d g fun x => { x with
    telCfg := v, telFresh := x.telFresh || (v.getLsbD 0 && !x.telCfg.getLsbD 0) || fld v.toNat 7 4 != fld x.telCfg.toNat 7 4 }
  doneCmd d h 0x51 0 0

/-- Read a queue in module storage to the host: at most `n` entries, oldest first, and RP goes on by as many. A queue that fails
its check is reset first (R351). -/
def telRead (h : HostCmd) (q : Nat) (d : Dev) : Dev :=
  let d := if qOk (queue d q) then d else forceReset d q
  let x := queue d q
  let n := min (occ x) h.p2.toNat
  let bs := (List.range n).flatMap fun i => padTo (2 ^ x.esz.toNat) (getEntry d q (x.rp + BitVec.ofNat 32 i))
  let fin (d : Dev) : Dev := doneCmd (modQ d q fun x => setRp x (x.rp + BitVec.ofNat 32 n)) h 0x51 n x.lost.toNat
  if n = 0 then fin d
  else match hostPut d h.fn.toNat h.p1.toNat bs with
    | none => failCmd d h 0x51 0x61
    | some d => fin d

/-- The action that P0 names. -/
def telcfgBody (h : HostCmd) (d : Dev) : Dev :=
  let a := h.p0.toNat
  if a = 0 then telConfigure h d
  else if a = 3 ∨ h.p2 = 0 ∨ 64 < h.p2.toNat then rejCmd d h 0x51 0x58
  else telRead h (if a = 1 then evQ h.fn.toNat else tnQ h.fn.toNat) d

/-- Bits that TELCFG's parameters may carry, by its action. -/
def telcfgMasks (h : HostCmd) : List Nat := if h.p0 = 0 then [3, 0xF3] else [3, pAny, pAny]

/-- TELCFG, action 0 (R475): P0 chooses the action of all three rows. -/
def execCmdTelcfgConfigure (h : HostCmd) (s : State) : Host.Outcome State Fault Refusal := hostCmd 0x51 (telcfgMasks h) 0x58 h (telcfgBody h) s
/-- TELCFG, action 1: the event queue (R475). -/
def execCmdTelcfgReadEvents (h : HostCmd) (s : State) : Host.Outcome State Fault Refusal := hostCmd 0x51 (telcfgMasks h) 0x58 h (telcfgBody h) s
/-- TELCFG, action 2: the telemetry queue (R475). -/
def execCmdTelcfgReadTelemetry (h : HostCmd) (s : State) : Host.Outcome State Fault Refusal := hostCmd 0x51 (telcfgMasks h) 0x58 h (telcfgBody h) s

/-! ### PWRSET (R441–R443) -/

/-- Domains that a PWRSET names. -/
def pwrDoms (h : HostCmd) : List Nat :=
  (List.range 115).filter fun n => if n < 64 then h.p0.toNat.testBit n else h.p1.toNat.testBit (n - 64)

/-- PWRSET (R441): a mode that a domain does not allow rejects the command with PWRMODE; the rest waits for the boundary. -/
def execCmdPwrset (h : HostCmd) (s : State) : Host.Outcome State Fault Refusal :=
  hostCmd 0x58 [pAny, 2 ^ 51 - 1, 3, 7] 0x58 h (fun d =>
    if (pwrDoms h).all fun n => modeOk n h.p2.toNat then atBoundary d 0x58 0 0 h
    else rejCmd d h 0x58 0x78) s

/-- What R442 asks of PWAIT, at the boundary. -/
def pwaitOk (d : Dev) (deep : Bool) : Bool :=
  d.steps.isEmpty && (List.range 16).all (fun f => (f == 0 || (func d f).cur.isNone) && occ (queue d (4 * f)) == 0) &&
    !(d.sess.any fun p => p.2.isOpen) && (List.range 64).all (fun c => !(coxOf d c).wiping) &&
    !(d.seats.any fun p => p.2.wiping) && d.wipeExt.isEmpty && !d.wipeMedia && !(d.sown.any fun p => fld p.2.toNat 5 4 == 2) &&
    !(d.lown.any fun p => fld p.2.toNat 5 4 == 2) &&
    (!deep || ((allG d).all (fun g => g == 0) && (List.range 8).all fun i => !domOn d (90 + i)))

/-- The cores halt (R442): D088 and D112 go into retention; in deep PWAIT D089 and the LPDDR5X groups too, and the host link
goes down without a reset (R443). The groups go off where DRAMOFF asks and no extent is in use (R435), else into retention
(log 86). -/
def pwaitEnter (d : Dev) (deep off : Bool) : Dev :=
  let d := domLower (domLower d 88 1) 112 1
  let off := deep && off && !(d.lown.any fun p => fld p.2.toNat 5 4 == 1 || fld p.2.toNat 5 4 == 2)
  let d := if deep then
      let d := [98, 99, 100, 101].foldl (fun d n => domLower d n (if off then 2 else 1)) (domLower d 89 1)
      { d with ident := { d.ident with up := false, l0p := false, width := 0 } }
    else d
  { d with pwait := { d.pwait with active := true, deep := deep, dramoff := off, strokes := 0, late := [], braced := false, wake := 0 } }

/-- The modes of a PWRSET, set at their boundary (R436). -/
def pwrModes (d : Dev) (h : HostCmd) : Dev := (pwrDoms h).foldl (fun d n => modDom d n fun x => { x with mode := BitVec.ofNat 2 h.p2.toNat }) d

/-- PWRSET at action 5 of its boundary: where PWAIT may not begin, the command fails with PWRBUSY and has no effect. The modes
are set here. -/
def bndPwrset (d : Dev) (w : Waiting) : Dev :=
  let h := w.cmd
  let d := { d with bnds := d.bnds.erase w }
  if h.p3.toNat.testBit 0 && !pwaitOk d (h.p3.toNat.testBit 1) then failCmd d h 0x58 0x79
  else
    let d := doneCmd (pwrModes d h) h 0x58 0 0
    if h.p3.toNat.testBit 0 then pwaitEnter d (h.p3.toNat.testBit 1) (h.p3.toNat.testBit 2) else d

/-- A command that waits for its range of gauntlet memory is tried again (R40). -/
def memRetry (d : Dev) (w : Waiting) : Dev :=
  let h := w.cmd
  let d := { d with bnds := d.bnds.erase w }
  if w.op.toNat = 0x42 then peersetBody h d
  else if w.op.toNat = 0x43 then rgcreateBody h d
  else if w.op.toNat = 0x48 then tokloadBody h d
  else vsopenBody h d

/-- Every command that waits for its range. -/
def memRetries (d : Dev) : Dev := (d.bnds.filter fun w => [0x42, 0x43, 0x48, 0x49].contains w.op.toNat).foldl memRetry d

end Sys2Proof.Machine
end

