-- ==== Sys2Proof/Machine/Ckpt.lean ====
section
/-! DEFINITION. Checkpoints and restores (R45, R466–R473, R479), and the read count of the event log ring (R480). -/
namespace Sys2Proof.Machine

/-! ### The area (R466–R468) -/

/-- Bytes of a command item of the copy (R470). -/
def ckItem : Nat := 4194304
/-- Bytes of a crew block (R397). -/
def crewBlock : Nat := 36 * 2 ^ 20

/-- A checkpoint area as its header and manifest describe it. -/
structure CkArea where
  va : Nat
  hdr : Bytes
  man : Bytes
  deriving DecidableEq, Repr

/-- NSHARD. -/
def ckShards (a : CkArea) : Nat := w32At a.hdr 0x0C
/-- Bytes of the area. -/
def ckSize (a : CkArea) : Nat := w32At a.hdr 0xC4 * 65536
/-- A manifest entry. -/
def ckEntry (a : CkArea) (i : Nat) : Bytes := slice a.man (64 * i) 64
/-- SRC of a shard. -/
def ckSrc (a : CkArea) (i : Nat) : Nat := w64At (ckEntry a i) 0
/-- BYTES of a shard. -/
def ckBytes (a : CkArea) (i : Nat) : Nat := w64At (ckEntry a i) 8
/-- SHARDID. -/
def ckId (a : CkArea) (i : Nat) : Nat := w32At (ckEntry a i) 0x10
/-- COPYOFF of a shard as the manifest holds it. -/
def ckCopyOff (a : CkArea) (i : Nat) : Nat := w64At (ckEntry a i) 0x18
/-- NQ, NSTEP and NSUSP. -/
def ckN (a : CkArea) (i : Nat) : Nat := w32At a.hdr (0xB8 + 4 * i)
/-- QOFF, SOFF, COFF and DOFF. -/
def ckOff (a : CkArea) (i : Nat) : Nat := w64At a.hdr (0xC8 + 8 * i)

/-- The area at a VA: it lies in the gauntlet's own tier-2 or tier-3 memory. -/
def ckArea (d : Dev) (g va : Nat) : Option CkArea :=
  match vaRead d g va 4096 with
  | .error _ => none
  | .ok h =>
    if 65536 < w32At h 0x0C then none
    else match vaRead d g (va + 4096) (64 * w32At h 0x0C) with
      | .error _ => none
      | .ok m => some { va := va, hdr := h, man := m }

/-- A section begins at the next 64 KiB boundary after the one before it (R468). -/
def ckNext (a n : Nat) : Nat := a + max 65536 (alignUp n 65536)

/-- Section offsets for the counts of queues, steps and crew blocks. -/
def ckLayout (nshard nq nstep nsusp : Nat) : Nat × Nat × Nat × Nat :=
  let q := alignUp (4096 + 64 * nshard) 65536
  let s := ckNext q (16 * nq)
  let c := ckNext s (64 * nstep)
  (q, s, c, ckNext c (crewBlock * nsusp))

/-- Offsets of the shard copies from DOFF on, and the end of the last (R468). -/
def ckPlaces (a : CkArea) (doff : Nat) : List Nat × Nat :=
  (List.range (ckShards a)).foldl (fun p i => (p.1 ++ [p.2], p.2 + alignUp (ckBytes a i) 65536)) ([], doff)

/-- A range as R39 holds it. -/
def ckRange (va n : Nat) (wr : Bool) : W64 × Nat × Bool :=
  (BitVec.ofNat 64 (va / 65536 * 65536), (alignUp (va + n) 65536 - va / 65536 * 65536) / 65536, wr)

/-- The ranges held from the boundary to the reply: the area, and every shard. -/
def ckRanges (a : CkArea) (wrShards : Bool) : List (W64 × Nat × Bool) :=
  ckRange a.va (ckSize a) true :: (List.range (ckShards a)).map fun i => ckRange (ckSrc a i) (ckBytes a i) wrShards

/-- What R466 and R468 ask of software: entries in form, the area mapped for reading and writing and apart from every listed
range. -/
def ckFormOk (d : Dev) (g : Nat) (a : CkArea) : Bool :=
  let ok (wr : Bool) : Bool := match transRange d g a.va (ckSize a) wr with
    | .ok _ => true
    | .error _ => false
  decide (4096 ≤ ckSize a) && ok true && ok false && leAt a.hdr 7 1 &&& 0x78 == 0 && (List.range (ckShards a)).all fun i =>
    ckSrc a i % 64 == 0 && ckBytes a i % 64 == 0 && decide (64 ≤ ckBytes a i) && leAt (ckEntry a i) 0x16 2 == 0 &&
      !overlaps a.va (ckSize a) (ckSrc a i) (ckBytes a i)

/-! ### Schedule state (R467, R468) -/

/-- Queues that the queue section lists: those that hold their entries for the gauntlet itself. Host rings belong to the link,
and the queues of contexts travel in the crew blocks (log 88). -/
def ckQueues (d : Dev) (g : Nat) : List Queue :=
  (d.queues.filter fun p => p.2.gnt.toNat == g && p.2.nlog != 0 && (ringOf p.1).isNone && decide (p.1 < ctxQ0)).map (·.2)

/-- An entry of the queue section, from the snapshot. -/
def ckQueueEntry (q : Queue) : Bytes :=
  let im := if q.snapImg.isEmpty then queueImage q else q.snapImg
  leBytes 2 q.qid.toNat ++ leBytes 1 q.cls.toNat ++ leBytes 1 q.nlog.toNat ++ leBytes 4 (w32At im 16) ++ leBytes 4 (w32At im 20) ++
    leBytes 1 (leAt im 13 1) ++ [0, 0, 0]

/-- Steps in the step queues, in queue order and then position order. -/
def ckSteps (d : Dev) (g : Nat) : List (Nat × Step) :=
  (List.range 4).flatMap fun q => (tget [] (gaunt d g).queues q).filterMap fun k => (tfind d.steps k).map fun st => (q, st)

/-- An entry of the step section (log 89). -/
def ckStepEntry (x : Nat × Step) : Bytes :=
  padTo 64 (leBytes 4 x.1 ++ leBytes 4 x.2.tag.toNat ++ leBytes 8 x.2.p0.toNat ++ leBytes 8 x.2.p1.toNat ++ leBytes 8 x.2.p2.toNat ++
    leBytes 8 x.2.p3.toNat)

/-- The header's module-written fields over what software wrote. -/
def ckHeader (d : Dev) (g : Nat) (a : CkArea) (mode stroke nq nstep nsusp : Nat) : Bytes :=
  let x := gaunt d g
  let (q, s, c, o) := ckLayout (ckShards a) nq nstep nsusp
  padTo 4096 (leBytes 4 0x54504B43 ++ [0x42] ++ leBytes 1 mode ++ leBytes 1 g ++ slice a.hdr 7 1 ++ leBytes 4 x.inst.toNat ++
    leBytes 4 (ckShards a) ++ leBytes 8 stroke ++ leBytes 8 x.lastStep.2.toNat ++ leBytes 8 x.seed.toNat ++
    ((List.range 16).flatMap fun i => leBytes 8 (tget 0 x.cursors i).toNat) ++
    ((List.range 8).flatMap fun i => leBytes 2 (((tfind x.groups i).map fun r => r.tcnt.toNat).getD 0)) ++
    leBytes 4 nq ++ leBytes 4 nstep ++ leBytes 4 nsusp ++ slice a.hdr 0xC4 4 ++
    leBytes 8 q ++ leBytes 8 s ++ leBytes 8 c ++ leBytes 8 o)

/-- A digest as the area holds it. -/
def digestBytes (b : Bytes) : Bytes := leBytes 32 (Config.sha3 b).toNat

/-- The bytes that PDIGEST covers. -/
def ckPriv (hdr qs ss : Bytes) : Bytes := patch (hdr.take 0x100) 7 [0] ++ qs ++ ss

/-! ### Taking a checkpoint (R45, R469) -/

/-- Write gauntlet memory that the checks have found writable. -/
def ckPut (g va : Nat) (bs : Bytes) (d : Dev) : Dev :=
  match vaWrite d g va bs with
  | .ok d => d
  | .error _ => d

/-- The checkpoint at its boundary: a bad area fails with CKPTAREA and writes nothing; else header and sections are written,
and the copy begins. -/
def ckTake (d : Dev) (g : Nat) (c : Ckpt) : Dev :=
  let mode := c.cmd.p0.toNat
  let qs := ckQueues d g
  let ss := ckSteps d g
  let slots := if mode = 1 then (d.saves.filter fun p => p.1 / 64 == g).map fun p => p.1 % 64 else []
  match ckArea d g c.cmd.p1.toNat with
  | none => ckFail d g 0x88 0
  | some a =>
    let (qo, so, _, o) := ckLayout (ckShards a) qs.length ss.length slots.length
    let (places, stop) := ckPlaces a o
    if !ckFormOk d g a || decide (ckSize a < stop) then ckFail d g 0x88 0
    else
      let stroke := d.strk.count
      let man := (List.range (ckShards a)).flatMap fun i =>
        (ckEntry a i).take 0x16 ++ [0, 0] ++ leBytes 8 (places.getD i 0) ++ List.replicate 32 0
      let hdr := ckHeader d g a mode stroke.toNat qs.length ss.length slots.length
      let d := ckPut g a.va hdr (ckPut g (a.va + 4096) man d)
      let d := ckPut g (a.va + qo) (qs.flatMap ckQueueEntry) d
      let d := ckPut g (a.va + so) (ss.flatMap ckStepEntry) d
      let d := { d with ckpts := tput d.ckpts g { c with phase := 1, stroke := stroke, ranges := ckRanges a false, blks := slots } }
      modG d g fun x => { x with drainHold := false, ckpt := !slots.isEmpty }

/-- A checkpoint that waits meets a boundary (R45): DRAIN takes the first at which no step is admitted or suspended (log 87),
SUSPEND the first. -/
def ckBoundary (d : Dev) (g : Nat) : Dev :=
  match tfind d.ckpts g with
  | some c => if c.restore || c.phase != 0 || (c.cmd.p0 == 0 && !(liveSteps d g).isEmpty) then d else ckTake d g c
  | none => d

/-- Steps that a SUSPEND checkpoint suspends at this boundary. -/
def ckSuspends (d : Dev) : List Nat :=
  (d.steps.filter fun p => p.2.st == .admitted &&
    (tfind d.ckpts p.2.g.toNat).any fun c => !c.restore && c.phase == 0 && c.cmd.p0 == 1).map (·.1)

/-- CHECKPOINT, in both modes: P0 names the mode. -/
def ckBody (h : HostCmd) (d : Dev) : Dev :=
  let g := h.fn.toNat
  if (tfind d.ckpts g).isSome then rejCmd d h 0x2A 0x8B
  else
    let c : Ckpt := { cmd := h, restore := false, phase := 0, stroke := 0, shard := 0, off := 0, copied := 0, ranges := [], blks := [] }
    let d := { d with ckpts := tput d.ckpts g c }
    deferCmd (modG d g fun x => { x with drainHold := x.drainHold || h.p0 == 0 }) 0x2A g 0 h

/-- CHECKPOINT_DRAIN (R45, R469). -/
def execCmdCheckpointDrain (h : HostCmd) (s : State) : Host.Outcome State Fault Refusal := hostCmd 0x2A [1, pAny] 0x58 h (ckBody h) s
/-- CHECKPOINT_SUSPEND (R45, R469): the same packet, P0 = 1. -/
def execCmdCheckpointSuspend (h : HostCmd) (s : State) : Host.Outcome State Fault Refusal := hostCmd 0x2A [1, pAny] 0x58 h (ckBody h) s

/-! ### Restore (R472, R473) -/

/-- RESTORE: the gauntlet has no step. -/
def execCmdRestore (h : HostCmd) (s : State) : Host.Outcome State Fault Refusal :=
  hostCmd 0x2B [0, pAny] 0x58 h (fun d =>
    let g := h.fn.toNat
    if (tfind d.ckpts g).isSome || d.steps.any fun p => p.2.g.toNat == g then rejCmd d h 0x2B 0x8B
    else
      let c : Ckpt := { cmd := h, restore := true, phase := 0, stroke := 0, shard := 0, off := 0, copied := 0, ranges := [], blks := [] }
      let d := { d with ckpts := tput d.ckpts g c }
      deferCmd (modG d g fun x => { x with drainHold := true }) 0x2B g 0 h) s

/-- Order 1: MAGIC, REV, and every offset and length inside AREASZ. -/
def rsAreaOk (a : CkArea) : Bool :=
  let sz := ckSize a
  w32At a.hdr 0 == 0x54504B43 && leAt a.hdr 4 1 == 0x42 && decide (4096 + 64 * ckShards a ≤ sz) &&
    decide (ckOff a 0 + 16 * ckN a 0 ≤ sz) && decide (ckOff a 1 + 64 * ckN a 1 ≤ sz) && decide (ckOff a 2 + crewBlock * ckN a 2 ≤ sz) &&
    decide (ckOff a 3 ≤ sz) && (List.range (ckShards a)).all fun i => decide (ckCopyOff a i + ckBytes a i ≤ sz)

/-- The queue and step sections of an area. -/
def rsSections (d : Dev) (g : Nat) (a : CkArea) : Option (Bytes × Bytes) :=
  match vaRead d g (a.va + ckOff a 0) (16 * ckN a 0), vaRead d g (a.va + ckOff a 1) (64 * ckN a 1) with
  | .ok q, .ok s => some (q, s)
  | _, _ => none

/-- Order 2: the digests of the manifest and of the privileged set. -/
def rsDigests (a : CkArea) (qs ss : Bytes) : Bool :=
  slice a.hdr 0x120 32 == digestBytes a.man && slice a.hdr 0x100 32 == digestBytes (ckPriv a.hdr qs ss)

/-- Orders 1 and 2. -/
def rsBegin (d : Dev) (g : Nat) (c : Ckpt) : Dev :=
  match ckArea d g c.cmd.p1.toNat with
  | none => ckFail d g 0x88 0
  | some a =>
    if !rsAreaOk a || !ckFormOk d g a then ckFail d g 0x88 0
    else match rsSections d g a with
      | none => ckFail d g 0x88 0
      | some (qs, ss) =>
        if !rsDigests a qs ss then ckFail d g 0x89 0
        else
          let c : Ckpt := { c with phase := if ckShards a = 0 then 3 else 1, stroke := BitVec.ofNat 64 (w64At a.hdr 0x10), ranges := ckRanges a true }
          { d with ckpts := tput d.ckpts g c }

/-- The replica message of a member: its CKSTROKE and its triples (R473; log 90). -/
def rsTriples (a : CkArea) : Bytes :=
  leBytes 8 (w64At a.hdr 0x10) ++ leBytes 8 (ckShards a) ++ (List.range (ckShards a)).flatMap fun i =>
    slice (ckEntry a i) 0x10 8 ++ slice (ckEntry a i) 0x20 32

/-- A member's message: CKSTROKE, and the triples as identifier, replica set and digest. -/
def rsParse (b : Bytes) : Nat × List (Nat × Nat × Bytes) :=
  (w64At b 0, (List.range (w64At b 8)).map fun i => let e := slice b (16 + 40 * i) 40; (w32At e 0, leAt e 4 2, slice e 8 32))

/-- A shard on which two members disagree. -/
def rsDiffer (a b : List (Nat × Nat × Bytes)) : Option Nat :=
  (a.find? fun x => x.2.1 != 0xFFFF && b.any fun y => y.1 == x.1 && y.2.1 != 0xFFFF && y.2.2 != x.2.2).map (·.1)

/-- RES1 of a replica check that fails (R473): the lowest rank that disagrees with rank 0, or else with a rank below it. -/
def rsVerdict (l : List (Nat × List (Nat × Nat × Bytes))) : Option Nat :=
  let n := l.length
  let at' (i : Nat) : Nat × List (Nat × Nat × Bytes) := l.getD i (0, [])
  match (List.range n).find? fun r => (at' r).1 != (at' 0).1 with
  | some r => some (0xFFFFFFFF + r * 2 ^ 32)
  | none =>
    let pairs := (List.range n).map (fun r => (0, r)) ++ (List.range n).flatMap fun r => (List.range r).map fun i => (i, r)
    pairs.findSome? fun p => (rsDiffer (at' p.1).2 (at' p.2).2).map fun i => i + p.2 * 2 ^ 32

/-- Bytes of a member's part of the work area (log 90). -/
def rsPart (r : RGroup) : Nat := r.limit * 196608 / max 1 r.members.length / 64 * 64

/-- Order 5 begins: this member's triples go to every member's work area. A group that does not exist, or parts that do not hold
them, fail the check (log 90). -/
def rsSend (d : Dev) (g : Nat) (a : CkArea) : Dev :=
  match tfind (gaunt d g).groups (fld (leAt a.hdr 7 1) 2 0) with
  | none => ckFail d g 0x8A 0
  | some r =>
    let t := rsTriples a
    let pos := r.members.findIdx fun e => memMid e == myMid d
    if rsPart r < t.length then ckFail d g 0x8A 0
    else
      match r.members.foldl (fun (x : Except XErr Dev) e => match x with
          | .error e => .error e
          | .ok d => copyTo g 0 pos (memMid e) [(r.work.toNat + pos * rsPart r, t)] d) (.ok d) with
      | .error e => ckFail (noteX d e) g e.code 0
      | .ok d => modG d g fun x => { x with ckDones := x.ckDones ++ [pos] }

/-- Order 5 ends once every member's part has arrived. -/
def rsCheck (d : Dev) (g : Nat) (c : Ckpt) (a : CkArea) : Dev :=
  match tfind (gaunt d g).groups (fld (leAt a.hdr 7 1) 2 0) with
  | none => ckFail d g 0x8A 0
  | some r =>
    let n := r.members.length
    if !((List.range n).all fun i => (gaunt d g).ckDones.contains i) then d
    else
      let parts := (List.range n).map fun i => match vaRead d g (r.work.toNat + i * rsPart r) (rsPart r) with
        | .ok b => rsParse b
        | .error _ => (0, [])
      match rsVerdict parts with
      | some v => ckFail d g 0x8A v
      | none => { d with ckpts := tput d.ckpts g { c with phase := 4 } }

/-! ### The items of the copy (R469, R470, R472) -/

/-- Copy within gauntlet memory, its LPDDR5X bytes counted (R404). -/
def ckCopy (d : Dev) (g src dst n : Nat) : Except XErr Dev :=
  match transRange d g src n false, transRange d g dst n true with
  | .ok a, .ok b => match vaCopy d g src dst n with
    | .ok d => .ok (dramCount (dramCount d g a) g b)
    | .error e => .error e
  | .error e, _ => .error e
  | _, .error e => .error e

/-- The copy ends: MDIGEST, PDIGEST, and the reply with the bytes copied and CKSTROKE. -/
def ckDone (d : Dev) (g : Nat) (c : Ckpt) (a : CkArea) : Dev :=
  match rsSections d g a with
  | none => ckFail d g 0x18 0
  | some (qs, ss) =>
    let d := ckPut g (a.va + 0x120) (digestBytes a.man) d
    let d := ckPut g (a.va + 0x100) (digestBytes (ckPriv a.hdr qs ss)) d
    let d := postReply (ckGone d g) g
      { tag := c.cmd.tag, status := 0, reason := 0, opcode := 0x2A, res0 := BitVec.ofNat 64 c.copied, res1 := 0, stroke := c.stroke }
      (c.cmd.flags.toNat.testBit 0)
    ckEvent d g c 0 0

/-- An item of a checkpoint's copy: crew blocks first, each once its save is done, then the shards. -/
def ckStep (d : Dev) (g : Nat) (c : Ckpt) (a : CkArea) : Dev :=
  let nb := c.blks.length
  let keep (d : Dev) (c : Ckpt) : Dev := { d with ckpts := tput d.ckpts g c }
  if c.shard < nb then
    let slot := c.blks.getD c.shard 0
    if ((tfind d.saves (64 * g + slot)).bind (·.2)).isNone then
      (if (tfind d.saves (64 * g + slot)).isNone then ckFail d g 0x69 0 else d)
    else match ckCopy d g (blockVa d g slot + c.off) (a.va + ckOff a 2 + crewBlock * c.shard + c.off) ckItem with
      | .error e => ckFail (noteX d e) g e.code 0
      | .ok d =>
        if c.off + ckItem < crewBlock then keep d { c with off := c.off + ckItem, copied := c.copied + ckItem }
        else
          let d := if c.shard + 1 = nb then modG d g fun x => { x with ckpt := false } else d
          keep d { c with shard := c.shard + 1, off := 0, copied := c.copied + ckItem }
  else if ckShards a + nb ≤ c.shard then ckDone d g c a
  else
    let i := c.shard - nb
    let n := min ckItem (ckBytes a i - c.off)
    match ckCopy d g (ckSrc a i + c.off) (a.va + ckCopyOff a i + c.off) n with
    | .error e => ckFail (noteX d e) g e.code 0
    | .ok d =>
      let d := inc64 d rTEL_HASHBYTES n
      let c := { c with off := c.off + n, copied := c.copied + n }
      if c.off < ckBytes a i then keep d c
      else match vaRead d g (a.va + ckCopyOff a i) (ckBytes a i) with
        | .error e => ckFail (noteX d e) g e.code 0
        | .ok b => keep (ckPut g (a.va + 4096 + 64 * i + 0x20) (digestBytes b) d) { c with shard := c.shard + 1, off := 0 }

/-- An item of a restore: a piece hashed (order 3), then a piece written back (order 4), then the replica check (order 5). -/
def rsStep (d : Dev) (g : Nat) (c : Ckpt) (a : CkArea) : Dev :=
  let keep (d : Dev) (c : Ckpt) : Dev := { d with ckpts := tput d.ckpts g c }
  let i := c.shard
  let n := min ckItem (ckBytes a i - c.off)
  if c.phase = 1 then
    let d := inc64 d rTEL_HASHBYTES n
    if c.off + n < ckBytes a i then keep d { c with off := c.off + n }
    else match vaGet d g (a.va + ckCopyOff a i) (ckBytes a i) with
      | .error e => ckFail (noteX d e) g e.code 0
      | .ok (b, d) =>
        if digestBytes b ≠ slice (ckEntry a i) 0x20 32 then ckFail d g 0x89 (ckId a i)
        else if i + 1 = ckShards a then keep d { c with phase := 2, shard := 0, off := 0 }
        else keep d { c with shard := i + 1, off := 0 }
  else if c.phase = 2 then
    match ckCopy d g (a.va + ckCopyOff a i + c.off) (ckSrc a i + c.off) n with
    | .error e => ckFail (noteX d e) g e.code 0
    | .ok d =>
      let c := { c with off := c.off + n, copied := c.copied + n }
      if c.off < ckBytes a i then keep d c
      else if i + 1 = ckShards a then keep d { c with phase := 3, shard := 0, off := 0 }
      else keep d { c with shard := i + 1, off := 0 }
  else if c.phase = 3 then
    if !(leAt a.hdr 7 1).testBit 7 then keep d { c with phase := 4 }
    else if c.shard = 0 then rsSend (keep d { c with shard := 1 }) g a
    else rsCheck d g c a
  else d

/-- CHECKPOINT_COPY_ITEM (R470). -/
def execCheckpointCopyItem (g : Gnt) (s : State) : Host.Outcome State Fault Refusal :=
  run (fun d =>
    let n := g.toNat
    match tfind d.ckpts n with
    | none => d
    | some c =>
      if c.restore && c.phase == 0 then rsBegin d n c
      else if c.phase = 0 then d
      else match ckArea d n c.cmd.p1.toNat with
        | none => ckFail d n 0x18 0
        | some a => if c.restore then rsStep d n c a else ckStep d n c a) s

/-! ### The end of a restore (R472, orders 6–8) -/

/-- The queue that an entry of the queue section names, with the same class and size. -/
def rsQueue (d : Dev) (g : Nat) (e : Bytes) : Option Nat :=
  (d.queues.find? fun p => p.2.gnt.toNat == g && (ringOf p.1).isNone && decide (p.1 < ctxQ0) && p.2.nlog != 0 &&
    p.2.qid.toNat == leAt e 0 2 && p.2.cls.toNat == leAt e 2 1 && p.2.nlog.toNat == leAt e 3 1).map (·.1)

/-- A queue takes the saved counts; one in module storage is restored empty. -/
def rsSetQueue (q : Queue) (e : Bytes) : Queue :=
  let wp := BitVec.ofNat 32 (w32At e 4)
  let q := if q.int then { setRp (setWp q wp) wp with ents := [] } else setRp (setWp q wp) (BitVec.ofNat 32 (w32At e 8))
  { q with cred := { q.cred with avail := q.cred.limit - BitVec.ofNat 17 (occ q) }, penddrop := 0, dropping := false }

/-- A step restored from a crew block: of this gauntlet and instance, suspended, with a new admission number; buckets not
released are reduced again (R281, R472). -/
def rsStepOf (d : Dev) (g : Nat) (adm : W64) (st : Step) : Step :=
  { st with
    g := BitVec.ofNat 4 g, inst := (gaunt d g).inst, fn := BitVec.ofNat 4 g, adm := adm, st := .suspended, items := []
    buckets := st.buckets.map fun b => if b.released then b else { b with chunksDone := [], parts := [], landed := false } }

/-- The saved parts that crew blocks of the area stand for, with their images. -/
def rsBlocks (d : Dev) (g : Nat) (a : CkArea) : Option (List (Bytes × Saved)) :=
  (List.range (ckN a 2)).mapM fun i => match vaRead d g (a.va + ckOff a 2 + crewBlock * i) crewBlock with
    | .ok b => (tfind d.blocks (leAt b (35 * 2 ^ 20 + 64) 8)).map fun s => (b, s)
    | .error _ => none

/-- A saved part under new step keys. -/
def rekey (m : List (Nat × Nat)) (s : Saved) : Saved :=
  let key (k : Nat) : Nat := ((m.find? fun p => p.1 == k).map (·.2)).getD k
  { s with
    cox := { s.cox with slots := tmap (fun _ k => key k) s.cox.slots }
    seats := tmap (fun _ x => { x with ctxs := tmap (fun _ c => { c with step := c.step.map key }) x.ctxs }) s.seats
    steps := s.steps.map fun p => (key p.1, p.2) }

/-- Order 7: each crew block goes into a save slot, its header for this gauntlet and instance. -/
def rsPutBlock (g : Nat) (m : List (Nat × Nat)) (x : Except XErr Dev) (b : Nat × Bytes × Saved) : Except XErr Dev :=
  match x with
  | .error e => .error e
  | .ok d =>
    let n := d.blocks.length
    let s := rekey m b.2.2
    let img := patch b.2.1 (35 * 2 ^ 20) (blockHdr d g s.crew s.stroke.toNat ++ leBytes 8 n)
    match vaWrite d g (blockVa d g b.1) img with
    | .error e => .error e
    | .ok d => .ok { d with blocks := tput d.blocks n s, saves := tput d.saves (64 * g + b.1) (s.crew, some n) }

/-- The steps of the blocks, each once, with new keys, in the order of their old admission numbers. -/
def rsSteps (l : List (Bytes × Saved)) : List (Nat × Step) :=
  let all := l.foldl (fun a x => x.2.steps.foldl (fun a p => if a.any fun q => q.1 == p.1 then a else a ++ [p]) a) []
  sortBy (fun a b => decide (a.2.adm.toNat ≤ b.2.adm.toNat)) all

/-- Orders 6 to 8 together, at the boundary that ends the command. -/
def rsInstall (d0 : Dev) (g : Nat) (c : Ckpt) (a : CkArea) (qs ss : Bytes) : Dev :=
  let qe := (List.range (ckN a 0)).map fun i => slice qs (16 * i) 16
  if !(qe.all fun e => (rsQueue d0 g e).isSome) then ckFail d0 g 0x88 0
  else match rsBlocks d0 g a with
    | none => ckFail d0 g 0x69 0
    | some bl =>
      if (gaunt d0 g).crewmax.toNat < bl.length then ckFail d0 g 0x69 0
      else
        let old := rsSteps bl
        let m := (List.range old.length).map fun i => ((old.getD i (0, newStep d0 c.cmd)).1, d0.nextStep + i)
        match ((List.range bl.length).zip bl).foldl (rsPutBlock g m) (.ok d0) with
        | .error e => ckFail (noteX d0 e) g 0x69 0
        | .ok d =>
          let d := (old.zip m).foldl (fun d x =>
            let adm := (gaunt d g).adm + 1
            modG { d with steps := tput d.steps x.2.2 (rsStepOf d g adm x.1.2), nextStep := max d.nextStep (x.2.2 + 1) } g fun y => { y with adm := adm }) d
          let d := qe.foldl (fun d e => match rsQueue d g e with
            | some n => modQ d n fun q => rsSetQueue q e
            | none => d) d
          let d := modG d g fun x => { x with
            seed := BitVec.ofNat 64 (w64At a.hdr 0x20)
            cursors := (List.range 16).foldl (fun t i => tput t i (BitVec.ofNat 64 (w64At a.hdr (0x28 + 8 * i)))) x.cursors
            groups := tmap (fun i r => { r with tcnt := BitVec.ofNat 16 (leAt a.hdr (0xA8 + 2 * i) 2) }) x.groups }
          let d := (List.range (ckN a 1)).foldl (fun d i =>
            let e := slice ss (64 * i) 64
            let w (j : Nat) : W64 := BitVec.ofNat 64 (w64At e (8 + 8 * j))
            let h : HostCmd := { fn := BitVec.ofNat 4 g, tag := BitVec.ofNat 32 (w32At e 4), flags := 0, p0 := w 0, p1 := w 1, p2 := w 2, p3 := w 3
                                 p4 := 0, p5 := 0, p6 := 0 }
            let k := d.nextStep
            let q := w32At e 0 % 4
            modG { d with steps := tput d.steps k (newStep d h), nextStep := k + 1 } g fun x => { x with
              queues := tput x.queues q (tget [] x.queues q ++ [k]) }) d
          ckEvent (replyOk (ckGone d g) c.cmd 0x2B c.copied 0) g c 0 0

/-- A restore that has passed its checks ends at this boundary. -/
def rsBoundary (d : Dev) (g : Nat) : Dev :=
  match tfind d.ckpts g with
  | none => d
  | some c =>
    if !c.restore || c.phase != 4 then d
    else match ckArea d g c.cmd.p1.toNat with
      | none => ckFail d g 0x18 0
      | some a => match rsSections d g a with
        | none => ckFail d g 0x18 0
        | some (qs, ss) => rsInstall d g c a qs ss

/-! ### The event log ring (R480) -/

/-- TEL_LOGRP_WRITE: the read count goes to the value written, where the check of R348 allows it; else the ring is reset
(R351, R480). -/
def logrpWrite (v : W32) (d : Dev) : Dev :=
    let q := setRp d.evlog v
    if qOk d.evlog && qOk q && decide ((v - d.evlog.rp).toNat ≤ occ d.evlog) then { d with evlog := q }
    else
      let (q1, disc) := resetQ d.evlog d.strk.count.toNat
      let (_, d) := qptrEvent { d with evlog := q1 } d.evlog disc
      d

/-- TEL_LOGRP_WRITE (R348, R351, R480). -/
def execTelLogrpWrite (v : W32) (s : State) : Host.Outcome State Fault Refusal :=
  run (logrpWrite v) s

end Sys2Proof.Machine
end

