-- ==== Sys2Proof/Machine/Ident.lean ====
section
/-! DEFINITION. Identity, attestation and lifecycle (R409–R426): keys and certificates, secure messages, tenancy keys, lifecycle
transitions, and the integrity of IDE streams (R382, R383). What the cryptographic standards compute is a constant of Config
(log 9). -/
namespace Sys2Proof.Machine

/-! ### Keys and certificates (R409, R410, R413, R414) -/

/-- A measurement register (R411). -/
def measOf (d : Dev) (i : Nat) : BitVec 256 := tget 0 d.ident.meas i

/-- The unique device secret; a scrapped module's bits are all 1 (R423). -/
def udsBytes (d : Dev) : Bytes := if d.pst.udsErased then List.replicate 32 0xFF else leBytes 32 d.pst.uds.toNat

/-- Measurement registers as bytes. -/
def measBytes (d : Dev) (l : List Nat) : Bytes := l.flatMap fun i => leBytes 32 (measOf d i).toNat

/-- Seed of the DIK: SHAKE256(UDS ‖ "RK-DIK"). -/
def dikSeed (d : Dev) : Bytes := Config.shake (udsBytes d ++ [0x52, 0x4B, 0x2D, 0x44, 0x49, 0x4B])
/-- Seed of the AK: SHAKE256(UDS ‖ "RK-AK" ‖ M0–M3). -/
def akSeed (d : Dev) : Bytes := Config.shake (udsBytes d ++ [0x52, 0x4B, 0x2D, 0x41, 0x4B] ++ measBytes d [0, 1, 2, 3])

/-- A signature of the AK (R410): hedged, over the SHA3-256 of the signed data; IDN_SIGCNT counts it. -/
def akSign (d : Dev) (b : Bytes) : Bytes × Dev :=
  let (v, d) := freeVal d
  (Config.sign (leNat (akSeed d)) (leBytes 32 (Config.sha3 b).toNat) v.toNat, inc64 d rIDN_SIGCNT 1)

/-- The certificate chain (R414): root, manufacturing CA, DIK certificate where there is one, AK certificate. -/
def certChain (d : Dev) : List Bytes :=
  if d.pst.chainErased then []
  else
    [Config.certificate 0 [], Config.certificate 1 []] ++
    (if d.pst.lcstate = 0 then [] else [Config.certificate 2 (leBytes 8 d.pst.serial.toNat ++ Config.publicKey (dikSeed d))]) ++
    [Config.certificate 3 (Config.publicKey (dikSeed d) ++ Config.publicKey (akSeed d) ++ measBytes d [0, 1, 2, 3, 4])]

/-- The ordering code (R1) in ASCII. -/
def orderCode (d : Dev) : Bytes :=
  [0x52, 0x4B, 0x37, 0x32, 0x30, 0x38, 0x2D, if d.opt1T then 0x31 else 0x32, 0x54, 0x2D] ++
    (if d.optPT then [0x50, 0x54] else [0x46, 0x41]) ++ [0x2D, 0x42]

/-- Extend a measurement register (R411). -/
def extendMeas (d : Dev) (i : Nat) (item : Bytes) : Dev :=
  { d with ident := { d.ident with meas := tput d.ident.meas i (extendM (measOf d i) item) } }

/-- The identity record (R413). -/
def identRecord (d : Dev) : Bytes :=
  padTo 4096 (padTo 32 (orderCode d) ++ [0x42] ++ leBytes 1 d.pst.lcstate.toNat ++ leBytes 1 d.pst.rma.toNat ++ List.replicate 5 0 ++
    leBytes 8 d.pst.serial.toNat ++ leBytes 4 d.ident.fwver.toNat ++ List.replicate 12 0 ++
    padTo 1312 (Config.publicKey (dikSeed d)) ++ padTo 1312 (Config.publicKey (akSeed d)) ++
    leBytes 32 (Config.sha3 (certChain d).flatten).toNat)

/-- IDENT (R413). -/
def execCmdIdent (h : HostCmd) (s : State) : Host.Outcome State Fault Refusal :=
  hostCmd 3 [pAny] 0x58 h (fun d => putDone d h 3 h.p0.toNat (identRecord d) 0 0) s

/-! ### Secure messages (R415–R419) -/

/-- What a message is answered with: response bytes, and 0 or the status of R425. -/
structure SecAns where
  dev : Dev
  resp : Bytes
  err : Nat
  deriving DecidableEq, Repr

/-- Body of a response as the DMTF specification frames it (log 9), then what this spec says it carries. -/
def ansOk (d : Dev) (code : Nat) (body : Bytes) : SecAns :=
  let (v, d) := freeVal d
  ⟨d, Config.spdmBody code v.toNat ++ body, 0⟩

/-- ERROR: malformed, no session, not offered, or a tenancy-key check (R425). -/
def ansErr (d : Dev) (f err : Nat) : SecAns :=
  let (v, d) := freeVal d
  ⟨recordErr d rIDN_ERR rIDN_ERRINFO (err - 0x70) (f + err * 16), Config.spdmBody 0x7F v.toNat, err⟩

/-- The function has a secure session whose FINISH has come (R415). -/
def inSession (d : Dev) (f : Nat) : Bool := (func d f).sess.any fun s => s.2

/-- The transcript hash of a function's session (R416–R418): a function of the draw that keys it (log 9). -/
def transcript (d : Dev) (f : Nat) : Bytes := Config.spdmBody 0x100 (((func d f).sess.map fun s => s.1).getD 0)

/-- The generation that the next stage must use (R417, R418). -/
def nextGen (x : Gaunt) : BitVec 4 := match x.keyCur with
  | some k => k.gen + 1
  | none => 0

/-- TK_STAGE (R418): the pair is destroyed in any case; a check that fails leaves every key unchanged. -/
def tkStage (d : Dev) (f : Nat) (keygen : BitVec 4) (ct wrapped : Bytes) : SecAns :=
  let x := gaunt d f
  match (func d f).kem with
  | none => ansErr d f 0x73
  | some v =>
    let tr := transcript d f
    let d := modF d f fun y => { y with kem := none }
    let wk := leBytes 32 (Config.sha3 ([0x52, 0x4B, 0x2D, 0x54, 0x4B] ++ Config.decaps v ct ++ tr)).toNat
    let aad := leBytes 2 x.ftag.toNat ++ leBytes 1 keygen.toNat ++ leBytes 1 f
    if !x.present || x.ftag == 0 || ct.length != 1088 || wrapped.length != 48 || x.actPend || x.keyStaged.isSome || keygen != nextGen x then
      ansErr d f 0x73
    else match Config.gcmOpen wk (List.replicate 12 0) aad (wrapped.take 32) (wrapped.drop 32) with
      | none => ansErr d f 0x73
      | some k => ansOk (modG d f fun y => { y with keyStaged := some { gen := keygen, key := k, ctr := 0 } }) 0xFE []

/-- TK_ACTIVATE (R419): the staged generation sends from the next boundary. -/
def tkActivate (d : Dev) (f : Nat) (keygen : BitVec 4) : SecAns :=
  let x := gaunt d f
  let staged := (x.keyStaged.any fun k => k.gen == keygen) || (x.actPend && x.keyCur.any fun k => k.gen == keygen)
  if staged then ansOk (modG d f fun y => { y with actAt := some keygen, actPend := false }) 0xFE [] else ansErr d f 0x73

/-- Tenancy keys at a boundary (R418, R419): the staged key becomes the current one, an activated generation sends. -/
def tkBoundary (d : Dev) (g : Nat) : Dev :=
  modG d g fun x =>
    let x := match x.keyStaged with
      | some k => { x with keyPrev := x.keyCur, keyCur := some k, keyStaged := none, actPend := x.actAt != some k.gen }
      | none => x
    match x.actAt with
    | some n => { x with sendGen := some n, actAt := none }
    | none => x

/-- A lock or unlock of an interface extends M7 (R411; log 67). -/
def tdiNote (d : Dev) (f on : Nat) : Dev := modG d f fun x => { x with m7due := x.m7due ++ [[0xF0, BitVec.ofNat 8 on]] }

/-- TDISP requests of a virtual function (R382, R383): LOCK, START, STOP. STOP of an interface in ERROR tears its gauntlet down. -/
def tdisp (d : Dev) (f : Nat) (op : TdispOp) : SecAns :=
  let st := (func d f).tdi.toNat
  let set (v : BitVec 2) : Dev := modF d f fun x => { x with tdi := v }
  match op with
  | .lock => if f = 0 ∨ st ≠ 0 then ansErr d f 0x72 else ansOk (tdiNote (set 1) f 1) 0x6C []
  | .start => if f = 0 ∨ st ≠ 1 then ansErr d f 0x72 else ansOk (set 2) 0x6C []
  | .stop =>
    if f = 0 then ansErr d f 0x72
    else if st = 3 then ansOk (tearStart (set 0) f) 0x6C []
    else if st = 0 then ansOk d 0x6C []
    else ansOk (tdiNote (set 0) f 0) 0x6C []

/-- IDE_KM requests that change the stream (R382). -/
def ideKm (d : Dev) (f : Nat) (op : IdeOp) : SecAns :=
  match op with
  | .keyProg => ansOk (modF d f fun x => { x with ideKeys := true }) 0x6A []
  | .setGo => if (func d f).ideKeys then ansOk (modF d f fun x => { x with ide := true }) 0x6A [] else ansErr d f 0x72
  | .setStop => ansOk (modF d f fun x => { x with ide := false, ideKeys := false }) 0x6A []

/-- A measurement report for a function (R412): M0–M6, and the gauntlet's own M7. -/
def measReport (d : Dev) (f : Nat) : Bytes := measBytes d [0, 1, 2, 3, 4, 5, 6] ++ leBytes 32 (gaunt d f).m7.toNat

/-- The module's answer to a request of a function (R415). -/
def answer (d : Dev) (f : Nat) (q : SecReq) : SecAns :=
  let need (x : SecAns) : SecAns := if inSession d f then x else ansErr d f 0x72
  match q with
  | .getVersion => ansOk d 0x04 []
  | .getCapabilities => ansOk d 0x61 []
  | .negotiate a => if a.other then ansErr d f 0x72 else ansOk d 0x63 []
  | .getDigests => ansOk d 0x01 (leBytes 32 (Config.sha3 (certChain d).flatten).toNat)
  | .getCertificate slot off len =>
    let c := (certChain d).flatten
    if slot ≠ 0 ∨ c.length ≤ off.toNat then ansErr d f 0x72 else ansOk d 0x02 ((c.drop off.toNat).take len.toNat)
  | .challenge slot nonce =>
    if slot ≠ 0 then ansErr d f 0x72
    else
      let (v, d) := freeVal d
      let (sg, d) := akSign d (Config.spdmBody 0x101 v.toNat ++ nonce)
      ansOk d 0x03 sg
  | .getMeasurements nonce =>
    let r := measReport d f
    let (sg, d) := akSign d (r ++ nonce)
    ansOk d 0x60 (r ++ sg)
  | .keyExchange ek =>
    if ek.length ≠ 1184 then ansErr d f 0x72
    else
      let n := d.free
      let (_, d) := freeVal (endSession d f)
      let (ct, _) := Config.encaps ek n
      let d := modF d f fun x => { x with sess := some (n, false) }
      let (sg, d) := akSign d (transcript d f ++ ct)
      ansOk d 0x64 (ct ++ sg)
  | .finish verify =>
    match (func d f).sess with
    | some (n, false) =>
      if verify = Config.spdmBody 0xE5 n then ansOk (modF d f fun x => { x with sess := some (n, true) }) 0x65 [] else ansErr d f 0x72
    | _ => ansErr d f 0x72
  | .endSession => need (ansOk (endSession d f) 0x6B [])
  | .ideKm op => need (ideKm d f op)
  | .tdisp op => need (tdisp d f op)
  | .stopInterface => need (tdisp d f .stop)
  | .getKemkey =>
    need (let n := d.free
      let (_, d) := freeVal d
      let tr := transcript d f
      let d := modF d f fun x => { x with kem := some n }
      let ek := Config.kemKey n
      let gen := leBytes 1 (nextGen (gaunt d f)).toNat
      let (sg, d) := akSign d (ek ++ gen ++ tr)
      ansOk d 0xFE (gen ++ ek ++ sg))
  | .tkStage keygen ct wrapped => need (tkStage d f keygen ct wrapped)
  | .tkActivate keygen => need (tkActivate d f keygen)

/-- A message of the DOE mailbox of a function (R415); a scrapped module answers none (R420). -/
def message (fn : Fn) (q : SecReq) (s : State) : Host.Outcome State Fault Refusal :=
  run (fun d =>
    let f := fn.toNat
    if !fnOn d f || !d.ident.up || d.pst.lcstate == 4 || d.pwait.active then d
    else
      let a := answer d f q
      modF a.dev f fun x => { x with resp := some a.resp }) s

/-- GET_VERSION (R415). -/
def execMsgGetVersion (fn : Fn) (s : State) : Host.Outcome State Fault Refusal := message fn .getVersion s
/-- GET_CAPABILITIES (R415). -/
def execMsgGetCapabilities (fn : Fn) (s : State) : Host.Outcome State Fault Refusal := message fn .getCapabilities s
/-- NEGOTIATE_ALGORITHMS (R415). -/
def execMsgNegotiateAlgorithms (fn : Fn) (algs : AlgSet) (s : State) : Host.Outcome State Fault Refusal := message fn (.negotiate algs) s
/-- GET_DIGESTS (R415). -/
def execMsgGetDigests (fn : Fn) (s : State) : Host.Outcome State Fault Refusal := message fn .getDigests s
/-- GET_CERTIFICATE (R415). -/
def execMsgGetCertificate (fn : Fn) (slot : Byte) (off len : W16) (s : State) : Host.Outcome State Fault Refusal :=
  message fn (.getCertificate slot off len) s
/-- CHALLENGE (R415). -/
def execMsgChallenge (fn : Fn) (slot : Byte) (nonce : Bytes) (s : State) : Host.Outcome State Fault Refusal := message fn (.challenge slot nonce) s
/-- GET_MEASUREMENTS (R412, R415). -/
def execMsgGetMeasurements (fn : Fn) (nonce : Bytes) (s : State) : Host.Outcome State Fault Refusal := message fn (.getMeasurements nonce) s
/-- KEY_EXCHANGE (R416). -/
def execMsgKeyExchange (fn : Fn) (ek : Bytes) (s : State) : Host.Outcome State Fault Refusal := message fn (.keyExchange ek) s
/-- FINISH (R416). -/
def execMsgFinish (fn : Fn) (verify : Bytes) (s : State) : Host.Outcome State Fault Refusal := message fn (.finish verify) s
/-- END_SESSION (R416). -/
def execMsgEndSession (fn : Fn) (s : State) : Host.Outcome State Fault Refusal := message fn .endSession s
/-- IDE_KM (R382). -/
def execMsgIdeKm (fn : Fn) (op : IdeOp) (s : State) : Host.Outcome State Fault Refusal := message fn (.ideKm op) s
/-- TDISP (R382). -/
def execMsgTdisp (fn : Fn) (op : TdispOp) (s : State) : Host.Outcome State Fault Refusal := message fn (.tdisp op) s
/-- STOP_INTERFACE (R383). -/
def execMsgStopInterface (fn : Fn) (s : State) : Host.Outcome State Fault Refusal := message fn .stopInterface s
/-- GET_KEMKEY (R417). -/
def execMsgGetKemkey (fn : Fn) (s : State) : Host.Outcome State Fault Refusal := message fn .getKemkey s
/-- TK_STAGE (R418). -/
def execMsgTkStage (fn : Fn) (keygen : BitVec 4) (ct wrapped : Bytes) (s : State) : Host.Outcome State Fault Refusal :=
  message fn (.tkStage keygen ct wrapped) s
/-- TK_ACTIVATE (R419). -/
def execMsgTkActivate (fn : Fn) (keygen : BitVec 4) (s : State) : Host.Outcome State Fault Refusal := message fn (.tkActivate keygen) s

/-- SECMSG (R377, R415): the same bytes by the ring. A message in error fails the command with its status (log 91). -/
def execCmdSecmsg (h : HostCmd) (s : State) : Host.Outcome State Fault Refusal :=
  hostCmd 0x60 [pAny, pAny, pAny] 0x58 h (fun d =>
    let f := h.fn.toNat
    if 4096 < h.p1.toNat then rejCmd d h 0x60 0x72
    else match hostGet d f h.p0.toNat h.p1.toNat with
      | none => failCmd d h 0x60 0x61
      | some (b, d) => match Config.spdmRequest b with
        | none => rejCmd d h 0x60 0x72
        | some q =>
          let a := answer d f q
          let d := modF a.dev f fun x => { x with resp := some a.resp }
          if a.err ≠ 0 then failCmd d h 0x60 a.err
          else putDone d h 0x60 h.p2.toNat (a.resp.take 4096) (min a.resp.length 4096) 0) s

/-- IDE_INTEGRITY_FAIL: the stream is insecure, and the function's interface enters ERROR (R382, R383). -/
def execIdeIntegrityFail (fn : Fn) (s : State) : Host.Outcome State Fault Refusal :=
  run (fun d =>
    let f := fn.toNat
    let d := modF d f fun x => { x with ide := false, ideKeys := false }
    if f = 0 then d else toError d f) s

/-! ### Lifecycle (R420–R424) -/

/-- Bytes of IDN_NONCE: four draws (R422). -/
def nonceBytes (d : Dev) : Bytes := (List.range 4).flatMap fun i => leBytes 8 (Config.free (d.ident.nonce + i)).toNat

/-- Draw a new nonce. -/
def drawNonce (d : Dev) : Dev := { d with ident := { d.ident with nonce := d.free }, free := d.free + 4 }

/-- The transitions of R421: token required, or not; none where there is no transition. -/
def lcMove (cur tgt rma : Nat) : Option Bool :=
  if tgt = 4 ∧ cur ≠ 4 then some false
  else match cur, tgt with
    | 0, 1 => some true
    | 1, 2 => some false
    | 2, 3 => if 8 ≤ rma then none else some true
    | 3, 2 => some true
    | _, _ => none

/-- A lifecycle token is sound (R422). -/
def tokenOk (d : Dev) (tgt : Nat) (b : Bytes) : Bool :=
  b.length == 2484 && w32At b 0 == 0x4B4F544C && leAt b 4 4 == 0 && w64At b 8 == d.pst.serial.toNat && leAt b 16 1 == d.pst.lcstate.toNat &&
    leAt b 17 1 == tgt && allZero (slice b 18 14) && slice b 32 32 == nonceBytes d &&
    Config.verify (Config.fusedKey 0) (leBytes 32 (Config.sha3 (b.take 64)).toNat) (b.drop 64)

/-- An accepted transition begins (R423): tenants are torn down, G0's steps are cancelled, sessions end (R416), tenancy keys go
(R264); the command waits with its ring until that is done. -/
def lcBegin (d : Dev) (h : HostCmd) : Dev :=
  let d := (allG d).foldl (fun d g => if g = 0 then d else tearStart d g) d
  let d := (d.steps.filter fun p => p.2.g == 0).foldl (fun d p => cancelOne d p.1) d
  let d := (List.range 16).foldl (fun d f => endSession d f) d
  let d := modG d 0 fun x => { x with keyCur := none, keyPrev := none, keyStaged := none, sendGen := none, actPend := false, actAt := none }
  atBoundary d 0x61 0 0 h

/-- LIFECYCLE (R421, R422). -/
def lcBody (h : HostCmd) (d : Dev) : Dev :=
  let tgt := h.p0.toNat
  if d.ident.resetDue || d.pst.lcPend.isSome then rejCmd d h 0x61 0x70
  else match lcMove d.pst.lcstate.toNat tgt d.pst.rma.toNat with
    | none => rejCmd d h 0x61 0x70
    | some false => if h.p2 ≠ 0 then rejCmd d h 0x61 0x71 else lcBegin d h
    | some true =>
      if h.p2.toNat ≠ 2484 then rejCmd d h 0x61 0x71
      else match hostGet d 0 h.p1.toNat 2484 with
        | none => failCmd d h 0x61 0x61
        | some (b, d) => if tokenOk d tgt b then lcBegin d h else rejCmd d h 0x61 0x71

/-- LIFECYCLE (R421): after each request of the physical function the nonce is drawn anew (R422). -/
def execCmdLifecycle (h : HostCmd) (s : State) : Host.Outcome State Fault Refusal :=
  run (fun d =>
    let d' := hostRun 0x61 [7, pAny, pAny] 0x58 h (lcBody h) d
    if h.fn = 0 && mayStart d 0x61 h && !d.pwait.active then drawNonce d' else d') s

/-- A transition's command ends (R423): the pending bits are burned, which brace puts off (R424), the reply is written, and the
reset is due. -/
def bndLifecycle (d : Dev) (w : Waiting) : Dev :=
  if d.sup.brace || (allG d).any (fun g => g != 0) || d.steps.any fun p => p.2.g == 0 then d
  else
    let tgt := w.cmd.p0.toNat
    let d := { d with bnds := d.bnds.erase w, pst := { d.pst with lcPend := some (BitVec.ofNat 3 tgt) } }
    doneCmd { d with ident := { d.ident with resetDue := true } } w.cmd 0x61 tgt 0

/-- Admission has stopped: a transition waits, or its reset is due. -/
def lcBusy (d : Dev) : Bool := d.ident.resetDue || d.bnds.any fun w => w.op == 0x61

/-- LIFECYCLE_RESET: 10 ms after the reply the module resets (R423). -/
def execLifecycleReset (s : State) : Host.Outcome State Fault Refusal :=
  run (fun d => if d.ident.resetDue then resetModule d else d) s

end Sys2Proof.Machine
end

