-- ==== Sys2Proof/Machine/Hat.lean ====
section
/-! DEFINITION. The hatbox (R481–R494): closed intervals that wait for their frames, apportionment, the sealed log, its signed
blocks, readout, seal and firmware. Layouts that the spec leaves open are those of log 96. -/
namespace Sys2Proof.Machine

/-! ### Log entries (R487–R489) -/

/-- Entries before the one kept back for GAP (R489). -/
def hatCap : Nat := 33750000

/-- Change the hatbox. -/
def modHat (d : Dev) (f : Hat → Hat) : Dev := { d with hat := f d.hat }

/-- Only the kept entry remains free. -/
def hatAtCap (h : Hat) : Bool := decide (hatCap ≤ h.log.length)

/-- An entry of 192 bytes (R487). -/
def hatEntry (h : Hat) (kind flags : Nat) (interval ein : W64) (bootnum : W32) (body : Bytes) : Bytes :=
  leBytes 8 h.lseq.toNat ++ leBytes 8 interval.toNat ++ leBytes 8 ein.toNat ++ leBytes 4 bootnum.toNat ++ leBytes 1 kind ++
    leBytes 1 flags ++ leBytes 2 h.sealcnt.toNat ++ padTo 128 body ++ leBytes 32 h.prev.toNat

/-- Append an entry. When only the kept entry is left, the log-full line rises (R489). -/
def hatPut (h : Hat) (kind flags : Nat) (interval ein : W64) (bootnum : W32) (body : Bytes) : Hat :=
  let b := hatEntry h kind flags interval ein bootnum body
  let h := { h with log := h.log ++ [b], lseq := h.lseq + 1, prev := Config.sha3 b }
  if hatAtCap h then { h with full := true, gapDue := true } else h

/-- An entry of kind 3 to 7: put off while the log is full (R489). -/
def hatNote (h : Hat) (kind : Nat) (ein : W64) (detail : Bytes) : Hat :=
  if hatAtCap h then { h with deferred := h.deferred ++ [(BitVec.ofNat 8 kind, ein, detail)] } else hatPut h kind 0 0 ein h.bootnum detail

/-- Entries put off, in order, as long as there is room. -/
def hatDrain : List (Byte × W64 × Bytes) → Hat → Hat
  | [], h => { h with deferred := [] }
  | (k, e, b) :: t, h => if hatAtCap h then { h with deferred := (k, e, b) :: t } else hatDrain t (hatPut h k.toNat 0 0 e h.bootnum b)

/-- The GAP entry (R488, R489): first and last refused INTERVAL with their BOOTNUM; EIN is the energy of what was refused. -/
def hatGap (h : Hat) : Hat :=
  let id (x : W64 × W32 × W64) : Bytes := leBytes 8 x.1.toNat ++ leBytes 8 x.2.1.toNat
  let body := ((h.refused.head?.map id).getD []) ++ ((h.refused.getLast?.map id).getD [])
  let e := h.refused.foldl (fun a x => a + x.2.2) (0 : W64)
  hatDrain h.deferred (hatPut { h with refused := [], gapDue := false } 2 0 0 e h.bootnum body)

/-! ### Apportionment (R485, R486) -/

/-- What a frame says of one gauntlet (R483): present, counter error, link self-check error, counters. -/
structure HatG where
  present : Bool
  cerr : Bool
  lerr : Bool
  counters : List Nat
  deriving DecidableEq, Repr

/-- The sixteen gauntlets of a frame. -/
def frameParts (b : Bytes) : List HatG :=
  (List.range 16).map fun g =>
    let o := 0x20 + 80 * g
    let f := w32At b (o + 4)
    { present := bitOf f 0, cerr := bitOf f 1, lerr := bitOf f 2, counters := (List.range 9).map fun i => w64At b (o + 8 + 8 * i) }

/-- Coefficients in pJ, in the order of the counters (R485). -/
def hatCoef : List Nat := [1794, 12000, 8000, 4000, 250, 1500, 20, 80, 22]

/-- The estimate of a gauntlet: absent gauntlets have none. -/
def hatEst (x : HatG) : Nat := if x.present then (List.zipWith (· * ·) hatCoef x.counters).foldl (· + ·) 0 else 0

/-- The charge of R394 from SEATCYC and the IOD cycles of STEMCYC, EMBCYC and EXDCYC. -/
def chargeOf (seat iod : Nat) : Nat := seat + 4 * iod / 3

/-- ENGT of a gauntlet (R485). -/
def hatEngt (x : HatG) : Nat :=
  satN 30 (chargeOf (x.counters.getD 0 0) (x.counters.getD 1 0 + x.counters.getD 2 0 + x.counters.getD 3 0) / 1024)

/-- EG of every gauntlet: the shares, what is not shared going to G0 (R485, R486). -/
def hatShares (ein : Nat) (meas : Bool) (l : List HatG) : List Nat :=
  let s := (l.map hatEst).foldl (· + ·) 0
  let eg := l.map fun x => if s = 0 ∨ meas ∨ x.cerr ∨ x.lerr then 0 else ein * hatEst x / s
  let rest := ein - eg.foldl (· + ·) 0
  eg.modifyHead (· + rest)

/-- A share word (R487). An EG that passes 32 bits is a free value (log 4). -/
def shareWord (free eg : Nat) (valid : Bool) (x : HatG) : Nat :=
  (if eg < 2 ^ 32 then eg else free % 2 ^ 32) + hatEngt x * 2 ^ 32 + b2n x.present * 2 ^ 62 + b2n valid * 2 ^ 63

/-- The body of an INTERVAL entry (R485–R487). -/
def hatBody (free ein : Nat) (meas low : Bool) (l : List HatG) : Bytes :=
  (List.zip (hatShares ein meas l) l).flatMap fun p =>
    leBytes 8 (shareWord free p.1 (p.2.present && !meas && !low && !p.2.cerr && !p.2.lerr) p.2)

/-- Write the oldest interval that waits, with its frame or as NOFRAME; a full log refuses it (R484, R489). -/
def hatInterval (d : Dev) (frame : Option Bytes) : Dev :=
  match d.hat.waiting with
  | [] => d
  | (ein, meas, low) :: t =>
    let (v, d) := freeVal d
    modHat d fun h =>
      let iv := h.nextIv
      let h := { h with waiting := t, nextIv := iv + 1 }
      if hatAtCap h then { h with refused := h.refused ++ [(iv, h.bootnum, ein)] }
      else match frame with
        | some b =>
          let l := frameParts b
          hatPut h 1 (2 * b2n (l.any fun x => x.lerr) + 4 * b2n meas + 8 * b2n (bitOf (w32At b 0x10) 0)) iv ein h.bootnum
            (hatBody v.toNat ein.toNat meas low l)
        | none =>
          hatPut h 1 (1 + 4 * b2n meas) iv ein h.bootnum (hatBody v.toNat ein.toNat true low (List.replicate 16 ⟨false, false, false, []⟩))

/-- Write the oldest waiting intervals as NOFRAME. -/
def hatNoFrames : Nat → Dev → Dev
  | 0, d => d
  | n + 1, d => hatNoFrames n (hatInterval d none)

/-! ### Seal and firmware (R493) -/

/-- What the hatbox reports for M6 (R411). -/
def hatItem (d : Dev) : Bytes := leBytes 32 d.hat.fwDigest.toNat ++ leBytes 2 d.hat.sealcnt.toNat

/-- A report of a change extends M6 while the module runs. -/
def hatReport (d : Dev) : Dev := if fld (reg d rBOOT_STATUS) 1 0 = 1 then extendMeas d 6 (hatItem d) else d

/-- A new hatbox image takes effect: SEALCNT rises, then the FIRMWARE entry (R488, R493). -/
def hatNewFw (d : Dev) : Dev :=
  match d.hat.fwPend with
  | none => d
  | some b =>
    let ((ver, sec, _), pkg, _) := Config.fwImage b
    let dg := Config.sha3 pkg
    let d := modHat d fun h =>
      hatNote { h with fwPend := none, fwver := BitVec.ofNat 32 ver, secver := sec, fwDigest := dg, sealcnt := h.sealcnt + 1 } 6 0
        (leBytes 32 h.fwDigest.toNat ++ leBytes 32 dg.toNat)
    hatReport d

/-- The hatbox's part of a lifecycle change, as the MC reports it at the handshake: entry to RMA and exit from it (R423, R488). -/
def hatLifecycle (d : Dev) : Dev :=
  let now := d.pst.lcstate == 3
  if now == d.hat.rma then d
  else modHat d fun h =>
    let st := BitVec.ofNat 8 d.pst.lcstate.toNat
    hatNote { h with lastLc := st, rma := now } 7 0 [st]

/-- HATBOX_INTERVAL_TICK (R482): the interval closes. The self-check of the next interval passes unless it is reported to fail
(log 97); a new image takes effect; the log-full line is lowered where there is room (R489). An interval for which no place is left
ends as NOFRAME (R484). -/
def execHatboxIntervalTick (ein : W64) (s : State) : Host.Outcome State Fault Refusal :=
  run (fun d =>
    let d := if decide (65536 ≤ d.hat.waiting.length) then hatInterval d none else d
    let d := modHat d fun h =>
      { h with waiting := h.waiting ++ [(ein, h.measerr, h.wasLow || !h.ready)], measerr := false, wasLow := false, ready := true
               full := hatAtCap h }
    hatNewFw d) s

/-- Energy, span and BOOTNUM of the RESET entry are free values (log 97). -/
def hatNewStart (d : Dev) (boot : W32) (iv : W64) : Dev :=
  let m := min (iv.toNat + 1) d.hat.waiting.length
  let d := hatNoFrames (d.hat.waiting.length - m) d
  let (e, d) := freeVal d
  let (v, d) := freeVal d
  modHat d fun h => hatNote { h with bootnum := boot, nextIv := iv + 1 - BitVec.ofNat 64 m } 3 e (leBytes 8 v.toNat)

/-- HATBOX_ACTIVITY_FRAME (R483, R484, R488). -/
def execHatboxActivityFrame (frame : Bytes) (s : State) : Host.Outcome State Fault Refusal :=
  run (fun d =>
    if frame.length ≠ 1316 ∨ leAt frame 0x520 4 ≠ crc32c (frame.take 0x520) then d
    else
      let boot := BitVec.ofNat 32 (leAt frame 0 4)
      let iv := BitVec.ofNat 64 (leAt frame 8 8)
      let d := if boot = d.hat.bootnum then d else hatNewStart d boot iv
      let h := d.hat
      if iv.toNat < h.nextIv.toNat ∨ h.waiting.length ≤ iv.toNat - h.nextIv.toNat then d
      else hatInterval (hatNoFrames (iv.toNat - h.nextIv.toNat) d) (some frame)) s

/-! ### Readout (R490–R492) -/

/-- A message of the hatbox: any unread response is discarded; a refused one has none. -/
def hatMsg (f : Dev → Dev) (s : State) : Host.Outcome State Fault Refusal := run (fun d => f (modHat d fun h => { h with resp := none })) s

/-- The answer to a message. -/
def hatAns (d : Dev) (b : Bytes) : Dev := modHat d fun h => { h with resp := some b }

/-- Entry of an LSEQ that is held. -/
def hatHeld (h : Hat) (n : Nat) : Option Bytes := if n < h.oldest.toNat then none else h.log[n - h.oldest.toNat]?

/-- Seed of the hatbox's key (R490): SHAKE256(secret ‖ "RK-HB"). -/
def hatSeed : Bytes := Config.shake (Config.fusedKey 3 ++ [0x52, 0x4B, 0x2D, 0x48, 0x42])

/-- HATBOX_STATUS (R492). -/
def execHatboxStatus (s : State) : Host.Outcome State Fault Refusal :=
  hatMsg (fun d =>
    let h := d.hat
    hatAns d (leBytes 8 h.serial.toNat ++ leBytes 8 d.pst.serial.toNat ++ leBytes 4 h.fwver.toNat ++ leBytes 32 h.fwDigest.toNat ++
      leBytes 2 h.sealcnt.toNat ++ leBytes 8 h.oldest.toNat ++ leBytes 8 (h.lseq - 1).toNat ++
      (match h.signed with | some n => [1] ++ leBytes 8 n.toNat | none => [0] ++ leBytes 8 0) ++
      leBytes 1 (b2n h.ready) ++ leBytes 1 (b2n h.full) ++ [h.lastLc])) s

/-- HATBOX_READ (R492): 1 to 64 entries from an LSEQ that is held, as far as they are written. -/
def execHatboxRead (first : W64) (count : Byte) (s : State) : Host.Outcome State Fault Refusal :=
  hatMsg (fun d =>
    let l := (List.range count.toNat).filterMap fun i => hatHeld d.hat (first.toNat + i)
    if count = 0 ∨ 64 < count.toNat ∨ (hatHeld d.hat first.toNat).isNone then d else hatAns d l.flatten) s

/-- The header of a signed block (R491). -/
def hatHeader (d : Dev) (first last : Nat) (entry nonce : Bytes) : Bytes :=
  let h := d.hat
  leBytes 8 h.serial.toNat ++ leBytes 8 d.pst.serial.toNat ++ leBytes 8 first ++ leBytes 8 last ++ leBytes 32 (Config.sha3 entry).toNat ++
    leBytes 32 h.fwDigest.toNat ++ leBytes 2 h.sealcnt.toNat ++ List.replicate 14 0 ++ padTo 16 nonce

/-- HATBOX_SIGN (R491, R492): a block over entries that are written. -/
def execHatboxSign (first last : W64) (nonce : Bytes) (s : State) : Host.Outcome State Fault Refusal :=
  hatMsg (fun d =>
    match hatHeld d.hat first.toNat, hatHeld d.hat last.toNat with
    | some _, some e =>
      if last.toNat < first.toNat then d
      else
        let b := hatHeader d first.toNat last.toNat e nonce
        let (v, d) := freeVal d
        let d := hatAns d (b ++ Config.sign (leNat hatSeed) (leBytes 32 (Config.sha3 b).toNat) v.toNat)
        modHat d fun h => { h with signed := some (match h.signed with | some n => if n.toNat < last.toNat then last else n | none => last) }
    | _, _ => d) s

/-- HATBOX_RELEASE (R489, R492): signed entries are erased; after a full log GAP is written first. -/
def execHatboxRelease (last : W64) (s : State) : Host.Outcome State Fault Refusal :=
  hatMsg (fun d =>
    match d.hat.signed with
    | none => d
    | some n =>
      if n.toNat < last.toNat then d
      else
        let k := min d.hat.log.length (last.toNat + 1 - d.hat.oldest.toNat)
        let d := modHat d fun h =>
          let h := { h with log := h.log.drop k, oldest := h.oldest + BitVec.ofNat 64 k }
          if h.gapDue && !hatAtCap h then hatGap h else h
        hatAns d []) s

/-- HATBOX_GETCERT (R490): root, metering CA, hatbox certificate. -/
def execHatboxGetcert (index : Byte) (s : State) : Host.Outcome State Fault Refusal :=
  hatMsg (fun d =>
    if 2 < index.toNat then d
    else if index.toNat = 2 then
      hatAns d (Config.certificate 6 (leBytes 8 d.hat.serial.toNat ++ leBytes 8 d.pst.serial.toNat ++ Config.publicKey hatSeed ++
        leBytes 32 (Config.sha3 (hatCoef.flatMap (leBytes 4))).toNat))
    else hatAns d (Config.certificate (4 + index.toNat) [])) s

/-- HATBOX_UPDATE (R493): in MANUFACTURE, or between the reports of entry to RMA and of exit; the ready line is low until the image
takes effect at the next interval edge. -/
def execHatboxUpdate (image : Bytes) (s : State) : Host.Outcome State Fault Refusal :=
  hatMsg (fun d =>
    let ((_, sec, len), pkg, sig) := Config.fwImage image
    if (d.pst.lcstate == 0 || d.hat.rma) && len == pkg.length && decide (d.hat.secver ≤ sec) &&
        Config.verify (Config.fusedKey 2) (leBytes 32 (Config.sha3 pkg).toNat) sig then
      hatAns (modHat d fun h => { h with fwPend := some image, ready := false, wasLow := true }) []
    else d) s

/-- HATBOX_POWERLOSS (R488): EIN and DETAIL are the energy since the last entry. -/
def execHatboxPowerloss (energy : W64) (s : State) : Host.Outcome State Fault Refusal :=
  run (fun d => modHat d fun h => hatNote h 4 energy (leBytes 8 energy.toNat)) s

/-- HATBOX_SEALBREAK (R488, R493): the mesh breaks once. -/
def execHatboxSealbreak (ms : W64) (s : State) : Host.Outcome State Fault Refusal :=
  run (fun d =>
    if d.hat.meshBroken then d
    else hatReport (modHat d fun h => hatNote { h with meshBroken := true, sealcnt := h.sealcnt + 1 } 5 0 (leBytes 8 ms.toNat))) s

/-- HATBOX_SELFCHECK_FAIL (R494): MEASERR for the interval; the ready line is low until the next passing check. -/
def execHatboxSelfcheckFail (s : State) : Host.Outcome State Fault Refusal :=
  run (fun d => modHat d fun h => { h with measerr := true, ready := false, wasLow := true }) s

end Sys2Proof.Machine
end

