-- ==== Sys2Proof/Machine/Boot.lean ====
section
/-! DEFINITION. Boot (R449–R459): the steps B00–B25 with their levels, halts and alternatives, the boot journal's use, the recovery
path, FWSTAGE; and what adds to the repair map in operation (R103, R461). -/
namespace Sys2Proof.Machine

/-! ### Levels and the journal (R452, R454, R457, R458) -/

/-- Kind of a boot step (R452): 1 alternative, 2 optional, 3 retried, 0 none. -/
def stepKind (n : Nat) : Nat :=
  if [1, 8, 10, 11, 13, 15, 16, 17].contains n then 1
  else if [19, 20, 21].contains n then 2
  else if n = 2 ∨ 25 < n then 0 else 3

/-- LEVEL of a step: 0 normal, 1 alternative or retry, 2 halted, 3 skipped. -/
def levelOf (d : Dev) (n : Nat) : Nat := (tget 0 d.pst.levels n).toNat

/-- Set the level of a step. -/
def setLevel (d : Dev) (n v : Nat) : Dev := { d with pst := { d.pst with levels := tset 0 d.pst.levels n (BitVec.ofNat 2 v) } }

/-- The step that the previous start was in when it ended: its last STEPBEGIN, where neither BOOTDONE nor SUPPLYRESET nor
THERMALRESET follows (R458, R459, R506). -/
def stepCut (d : Dev) : Option Nat :=
  d.pst.journal.foldl (fun a r =>
    if r.kind = 2 then some r.step.toNat
    else if r.kind = 1 ∨ r.kind = 5 ∨ r.kind = 6 ∨ r.kind = 12 then none else a) none

/-- The level of a step at the start after its failure (R452, R465 HALTOPT). -/
def nextLevel (d : Dev) (n : Nat) : Nat :=
  let v := levelOf d n
  match stepKind n with
  | 1 | 3 => if v = 0 then 1 else 2
  | 2 => if d.pst.opt.getLsbD 1 then 2 else 3
  | _ => v

/-- The last STEPFAIL of a step: REASON and DETAIL. -/
def lastFail (d : Dev) (n : Nat) : Nat × Nat :=
  ((d.pst.journal.reverse.find? fun r => r.kind == 3 && r.step.toNat == n).map fun r => (r.reason.toNat, r.detail.toNat)).getD (0, 0)

/-- BOOT_STATUS (R465). -/
def bootStatus (d : Dev) (st step reason : Nat) : Dev := setReg d rBOOT_STATUS (st + step * 256 + reason * 65536)

/-! ### The work of the steps -/

/-- Domains that a step turns on. -/
def domsOn (d : Dev) (l : List Nat) : Dev := l.foldl domArrive d

/-- A pending lifecycle transition is completed (R423): the done bits are burned. -/
def lcComplete (d : Dev) : Dev :=
  match d.pst.lcPend with
  | none => d
  | some t =>
    let scrap := t == 4
    let p := d.pst
    { d with pst := { p with lcPend := none, lcstate := t, rma := if t = 3 then p.rma + 1 else p.rma, udsErased := p.udsErased || scrap
                             chainErased := p.chainErased || scrap } }

/-- The flash image is valid (R451). -/
def imgOk (d : Dev) : Bool := d.pst.imgValid && decide (d.pst.secver.toNat ≤ d.pst.imgSec.toNat)

/-- The stroke count starts at zero and G0 exists (R24, R386): its queues (log 94), and the receive rings of the ports (R359). -/
def startStrokes (d : Dev) : Dev :=
  let d := { d with strk := { Strk.reset with time := d.strk.time }, keys := BitVec.ofNat 16 (d.keys.toNat ||| 1) }
  let d := modG d 0 fun _ => { Gaunt.reset 0 with present := true, inst := 1, acctBorn := true }
  let d := gauntQueues d 0 16 16
  (List.range 16).foldl (fun d p => addQueue d (64 + p) (mkQueue 0 0 5 12 (0xFE0 + p) true 0)) d

/-- FAB_LASER of an engine once its lasers are on (R253, R283): each lane is lit but one whose laser failed without a spare. -/
def laserWord (d : Dev) (e : Nat) : Nat :=
  let l := (applied d 6).filter fun r => r.unit.toNat / 16 == e
  let dark := maskOf ((d.pst.repairs.filter fun r => r.kind == 6 && r.state == 1 && r.unit.toNat / 16 == e).map fun r => r.unit.toNat % 16)
  (0x1FF &&& (0x7FF ^^^ dark)) + 512 * (2 ^ min 2 l.length - 1) + 2048 * (dark % 512)

/-- The work of a boot step at its level, with what its alternative form does to the unit that failed (R452). -/
def bootWork (r : BootReport) (n : Nat) (d : Dev) : Dev :=
  let alt := levelOf d n == 1
  let unit := (lastFail d n).2
  match n with
  | 1 => if alt then { d with pst := { d.pst with repairs := [] } } else d
  | 2 =>
    let b := leBytes 32 d.pst.imgDigest.toNat
    let d := (List.range 3).foldl (fun d i => extendMeas d i (Config.measured i b)) d
    { d with ident := { d.ident with fwver := d.pst.fwver, fwsec := d.pst.imgSec } }
  | 3 =>
    let d := lcComplete d
    extendMeas d 3 [BitVec.ofNat 8 d.pst.lcstate.toNat, BitVec.ofNat 8 d.pst.rma.toNat, BitVec.ofNat 8 d.pst.secver.toNat,
      if d.pst.lcstate = 0 ∨ d.pst.lcstate = 3 then 1 else 0]
  | 4 => drawNonce d
  | 5 => bootRepairs (domsOn d [88, 112]) [10]
  | 6 => domsOn d [89]
  | 8 => bootRepairs (domsOn d [98, 99, 100, 101]) [4]
  | 9 => { d with lown := (List.range (if d.opt1T then 1016 else 2040)).foldl (fun t e => tset (0 : Byte) t e 0x20) d.lown }
  | 11 => bootRepairs (domsOn (if alt then repairMade d 8 unit else d) ((List.range 20).map (68 + ·))) [3, 8]
  | 13 =>
    let d := bootRepairs (domsOn d ((List.range 68))) [1, 2, 7]
    if alt then fenceCrew d (unit % 64) else d
  | 15 =>
    let (v, d) := freeVal d
    let d := if !alt then d else if unit < 16 then repairAdd d 5 0 (unit * 16 + v.toNat % 9) else repairMade d 9 (512 + unit % 4)
    let d := bootRepairs (domsOn d ((List.range 8).map (90 + ·))) [5, 6, 9]
    (List.range 4).foldl (fun d e => setReg d (rFAB_LASER + 4 * e) (laserWord d e)) d
  | 16 => bootRepairs (domsOn (if alt then repairMade d 9 (unit % 20) else d) [102, 103]) []
  | 17 => bootRepairs (domsOn (if alt then repairMade d 9 (256 + unit % 64) else d) [104, 105, 106]) [9]
  | 18 => domsOn d [107, 108, 109, 110, 111]
  | 20 =>
    let d := hatLifecycle { d with hat := { d.hat with ready := r.hatReady, wasLow := d.hat.wasLow || !r.hatReady } }
    extendMeas d 6 (hatItem d)
  | 22 => extendMeas d 4 ((d.pst.repairs.flatMap repairBytes) ++ (List.range 32).map fun i => BitVec.ofNat 8 (levelOf d i))
  | 24 => startStrokes d
  | _ => d

/-- A start that has passed B25 (R451, R452): BOOTDONE; the security counter follows the image; what was skipped or retried is
normal again (log 92). -/
def bootDone (d : Dev) : Dev :=
  let d := jrec d 5 0xFF 0 0 0
  let d := (List.range 32).foldl (fun d n => if stepKind n != 1 && (levelOf d n == 1 || levelOf d n == 3) then setLevel d n 0 else d) d
  let p := d.pst
  let d := { d with pst := { p with secver := if p.secver.toNat < d.ident.fwsec.toNat then BitVec.ofNat 7 d.ident.fwsec.toNat else p.secver } }
  bootStatus d 1 25 0

/-- A boot step fails (R458): STEPFAIL, and the package restarts without a cycle of the supply. -/
def stepFailed (d : Dev) (n reason detail : Nat) : Dev := resetModule (jrec d 3 n (levelOf d n) reason detail)

/-- The steps in order: a step at level 2 halts the module, one at level 3 is skipped; the first that fails ends the start; a B02
that fails takes the recovery path, whose steps B03–B06 write no STEPBEGIN (R455; log 92). -/
def bootGo (r : BootReport) (recov : Bool) : List Nat → Dev → Dev
  | [], d => if recov then bootStatus d 2 2 4 else bootDone d
  | n :: t, d =>
    let lv := levelOf d n
    if lv = 2 then bootStatus d 3 n (lastFail d n).1
    else if lv = 3 ∨ (n = 19 ∧ !d.pst.opt.getLsbD 0) then bootGo r recov t d
    else
      let d := if lv = 1 ∧ stepKind n = 1 then jrec d 4 n 1 0 0 else d
      let d := if n = 0 ∨ n = 2 ∨ recov then d else jrec d 2 n lv 0 0
      if n ≠ 2 ∧ r.failStep = some (BitVec.ofNat 5 n) then stepFailed d n r.reason.toNat r.detail.toNat
      else bootGo r recov t (bootWork r n d)

/-- The MC leaves B00 (R427, R499, R504, R506): input qualified, EN# closed, flow, no cut-off held, every sensor at or below 60 °C. -/
def mayBoot (d : Dev) : Bool :=
  fld (reg d rBOOT_STATUS) 1 0 == 0 && d.sup.vinOk && d.sup.enClosed && d.sup.flowOk && !d.sup.ovHold &&
    (List.range 8).all fun i => decide (sext 8 (fld (reg d rPWR_TJ) (8 * i + 7) (8 * i)) ≤ 60)

/-- A start (R452, R454, R458): BOOTSTART; the step that the last start was cut in goes to its next level; steps that BOOT_RETRY
names are normal; then the steps. -/
def bootRun (d : Dev) (r : BootReport) : Dev :=
  if !mayBoot d then d
  else
    let cut := stepCut d
    let d := { d with pst := { d.pst with bootnum := BitVec.ofNat 32 (satN 32 (d.pst.bootnum.toNat + 1)) } }
    let d := jrec d 1 0xFF 0 0 0
    let d := match cut with
      | some n => setLevel d n (nextLevel d n)
      | none => d
    let d := (setBits 32 d.pst.retry.toNat).foldl (fun d n => setLevel d n 0) d
    let d := { d with pst := { d.pst with retry := 0 } }
    if r.failStep = some 2 ∨ !imgOk d then bootGo r true [0, 1, 3, 4, 5, 6] d
    else bootGo r false (List.range 26) d

/-- BOOT_START (R452). -/
def execBootStart (report : BootReport) (s : State) : Host.Outcome State Fault Refusal := run (fun d => bootRun d report) s

/-- BOOT_STEP_FAIL (R458): a start in which a step reports failure or passes its limit. -/
def execBootStepFail (step : BitVec 5) (reason : Byte) (detail : W64) (s : State) : Host.Outcome State Fault Refusal :=
  run (fun d => bootRun d { failStep := some step, reason := reason, detail := detail, hatReady := d.hat.ready }) s

/-! ### Firmware images (R451, R455, R456) -/

/-- An image of a package (log 93): version, security version, digest; none where the signature, the length or the security version
fails. -/
def imageOf (d : Dev) (b : Bytes) : Option (Nat × Nat × BitVec 256) :=
  let ((ver, sec, len), pkg, sig) := Config.fwImage b
  let dg := Config.sha3 pkg
  if len = pkg.length ∧ sec < 64 ∧ d.pst.secver.toNat ≤ sec ∧ Config.verify (Config.fusedKey 1) (leBytes 32 dg.toNat) sig then some (ver, sec, dg)
  else none

/-- RECOVERY_GO: a write of BOOT_RECCTL (R455, R465): GO starts the read in RECOVERY while BUSY is clear, ERR is cleared by a 1. -/
def recctlWrite (v : W32) (d : Dev) : Dev :=
    let o := reg d rBOOT_RECCTL
    let go := v.toNat.testBit 0 && fld (reg d rBOOT_STATUS) 1 0 == 2 && !o.testBit 1
    let err := o.testBit 2 && !v.toNat.testBit 2
    setReg d rBOOT_RECCTL (2 * b2n (o.testBit 1 || go) + 4 * b2n err)

/-- RECOVERY_GO (R455, R465). -/
def execRecoveryGo (v : W32) (s : State) : Host.Outcome State Fault Refusal :=
  run (recctlWrite v) s

/-- RECOVERY_IMAGE_CHECKED (R455): the image read by DMA is checked; boot goes on from B07, or ERR is set. -/
def execRecoveryImageChecked (s : State) : Host.Outcome State Fault Refusal :=
  run (fun d =>
    let o := reg d rBOOT_RECCTL
    if fld (reg d rBOOT_STATUS) 1 0 ≠ 2 ∨ !o.testBit 1 then d
    else
      let bad (d : Dev) : Dev := setReg d rBOOT_RECCTL 4
      let n := reg d rBOOT_RECLEN
      if 2 ^ 25 < n then bad d
      else match hostGet d 0 (reg d rBOOT_RECADDR) n with
        | none => bad d
        | some (b, d) => match imageOf d b with
          | none => bad d
          | some (ver, sec, dg) =>
            let d := setReg d rBOOT_RECCTL (4 * b2n (o.testBit 2))
            let d := extendMeas { d with ident := { d.ident with fwver := BitVec.ofNat 32 ver, fwsec := BitVec.ofNat 6 sec } } 1 (leBytes 32 dg.toNat)
            let d := jrec d 7 0xFF 0 0 0
            bootGo { failStep := none, reason := 0, detail := 0, hatReady := d.hat.ready } false ((List.range 19).map (7 + ·)) d) s

/-- BOOT_RETRY_WRITE (R454): bits that are written 1 are set; the journal holds RETRYSET. -/
def retryWrite (v : W32) (d : Dev) : Dev :=
    let d := (setBits 32 v.toNat).foldl (fun d n => jrec d 9 n 0 0 0) d
    { d with pst := { d.pst with retry := d.pst.retry ||| v } }

/-- BOOT_RETRY_WRITE (R454). -/
def execBootRetryWrite (v : W32) (s : State) : Host.Outcome State Fault Refusal :=
  run (retryWrite v) s

/-- BOOT_OPT_WRITE (R465): MTEST and HALTOPT, stored in flash. -/
def optWrite (v : W32) (d : Dev) : Dev :=
  { d with pst := { d.pst with opt := BitVec.ofNat 2 v.toNat } }

/-- BOOT_OPT_WRITE (R465). -/
def execBootOptWrite (v : W32) (s : State) : Host.Outcome State Fault Refusal :=
  run (optWrite v) s

/-- A FWSTAGE fails: BOOT_FWSTAT bit 1. -/
def fwBad (d : Dev) (h : HostCmd) (code : Nat) : Dev := rejCmd (setReg d rBOOT_FWSTAT 2) h 0x59 code

/-- FWSTAGE once its image may be read (R456): the whole write is one action between FWBEGIN and FWEND (log 75). -/
def fwGo (d : Dev) (h : HostCmd) : Dev :=
  match hostGet d 0 h.p0.toNat h.p1.toNat with
  | none => failCmd (setReg d rBOOT_FWSTAT 2) h 0x59 0x61
  | some (b, d) => match imageOf d b with
    | none => fwBad d h 0x80
    | some (ver, sec, dg) =>
      let d := setReg d rBOOT_FWSTAT 0
      if h.p2 = 0 then doneCmd d h 0x59 0 0
      else
        let d := jrec d 10 0xFF 0 0 0
        let d := { d with pst := { d.pst with fwver := BitVec.ofNat 32 ver, imgSec := BitVec.ofNat 6 sec, imgDigest := dg, imgValid := true } }
        doneCmd (jrec d 11 0xFF 0 0 0) h 0x59 0 0

/-- FWSTAGE (R456): it waits for resume during brace (R430). P2 selects check or write. -/
def fwBody (h : HostCmd) (d : Dev) : Dev :=
  if 2 ^ 25 < h.p1.toNat then fwBad d h 0x80
  else if d.sup.brace then atBoundary d 0x59 0 0 h
  else fwGo d h

/-- FWSTAGE_CHECK (R456). -/
def execCmdFwstageCheck (h : HostCmd) (s : State) : Host.Outcome State Fault Refusal := hostCmd 0x59 [pAny, pAny, 1] 0x58 h (fwBody h) s
/-- FWSTAGE_WRITE (R456): the same packet, P2 = 1. -/
def execCmdFwstageWrite (h : HostCmd) (s : State) : Host.Outcome State Fault Refusal := hostCmd 0x59 [pAny, pAny, 1] 0x58 h (fwBody h) s

/-- A FWSTAGE that waited for resume. -/
def bndFwstage (d : Dev) (w : Waiting) : Dev := if d.sup.brace then d else fwGo { d with bnds := d.bnds.erase w } w.cmd

/-! ### Triggers of repair (R103, R461) -/

/-- SEATFAULT (R103): the seat is fenced; the repair map takes it, and the lane core that the fault was traced to (R461). The trigger
code is a free value (log 73). -/
def execSeatFault (u : SeatAt) (lane : Option LaneNo) (s : State) : Host.Outcome State Fault Refusal :=
  runIf (SeatAt.wf u) (fun d =>
    let n := seatIdx u
    let (v, d) := freeVal d
    let d := repairAdd (fenceSeat d n) 1 (v.toNat % 256) n
    match lane with
    | some l => repairAdd d 2 (v.toNat % 256) (64 * n + l.toNat)
    | none => d) s

/-- REPAIR_SCAN (R461): the queues that R351 has disabled, then the units whose monitors and counters met a trigger. -/
def execRepairScan (finds : List RepairFind) (s : State) : Host.Outcome State Fault Refusal :=
  run (fun d => finds.foldl (fun d f =>
    if [1, 2, 3, 4, 5, 6, 10].contains f.kind.toNat then repairAdd d f.kind.toNat f.trigger.toNat f.unit.toNat else d)
    ((qDead d).foldl (fun d n => repairTrigger d 10 n) d)) s

end Sys2Proof.Machine
end

