-- ==== Sys2Proof/Machine/Link.lean ====
section
/-! DEFINITION. The host link and its functions (R360–R362, R384): training, resets, link down and up, function-level resets,
function power states, poisoned requests, NumVFs. -/
namespace Sys2Proof.Machine

/-- Code of a line rate in HIF_LINK (R385; below 32 GT/s log 77). -/
def rateCode : LinkRate → BitVec 3
  | .gt2 => 1
  | .gt5 => 2
  | .gt8 => 6
  | .gt16 => 7
  | .gt32 => 3
  | .gt64 => 4
  | .gt128 => 5

/-- Lanes of a width. -/
def widthOf : LinkWidth → BitVec 4
  | .x1 => 1
  | .x4 => 4
  | .x8 => 8

/-- The rate is below 32 GT/s (R361). -/
def slowRate : LinkRate → Bool
  | .gt2 | .gt5 | .gt8 | .gt16 => true
  | .gt32 | .gt64 | .gt128 => false

/-- LINK_TRAINED (R361): the link is up at a rate and width, once the endpoint is on (R452, B06). -/
def execLinkTrained (rate : LinkRate) (width : LinkWidth) (s : State) : Host.Outcome State Fault Refusal :=
  run (fun d =>
    if !domOn d 89 then d
    else { d with ident := { d.ident with rate := rateCode rate, width := widthOf width, lowrate := slowRate rate, l0p := false, up := true } }) s

/-- PERST_ASSERT: the module is reset (R47, R384). -/
def execPerstAssert (s : State) : Host.Outcome State Fault Refusal := run resetModule s

/-- HOT_RESET: the module is reset (R47, R384). -/
def execHotReset (s : State) : Host.Outcome State Fault Refusal := run resetModule s

/-- LINK_DOWN (R384): rings stop, host DMA fails; steps run on. HIF_LINK then shows RATE 0 (R385). -/
def execLinkDown (s : State) : Host.Outcome State Fault Refusal :=
  run (fun d => { d with ident := { d.ident with up := false, l0p := false } }) s

/-- LINK_UP (R384): rings go on from their pointers. The rate and width are those at which the link trained (R361); one that has
not trained again after a deep wake stays down (R445). -/
def execLinkUp (s : State) : Host.Outcome State Fault Refusal :=
  run (fun d => if !domOn d 89 || d.ident.width == 0 then d else { d with ident := { d.ident with up := true } }) s

/-- FLR_VF (R384). -/
def execFlrVf (fn : Fn) (s : State) : Host.Outcome State Fault Refusal :=
  run (fun d => if fn = 0 ∨ !fnOn d fn.toNat then d else flrFn d fn.toNat) s

/-- FLR_PF (R384): as FLR of every virtual function, then of G0's rings; virtual functions are disabled. -/
def execFlrPf (s : State) : Host.Outcome State Fault Refusal :=
  run (fun d =>
    let d := ((List.range 15).map (· + 1)).foldl (fun d f => if fnOn d f then flrFn d f else d) d
    let d := flrFn d 0
    { d with ident := { d.ident with numvf := 0 } }) s

/-- D3HOT_ENTRY (R384): the function's rings stop fetching, and its vectors do not fire. -/
def execD3hotEntry (fn : Fn) (s : State) : Host.Outcome State Fault Refusal :=
  run (fun d => if fnOn d fn.toNat then modF d fn.toNat fun x => { x with d3 := true } else d) s

/-- D0_RETURN (R384). -/
def execD0Return (fn : Fn) (s : State) : Host.Outcome State Fault Refusal :=
  run (fun d => modF d fn.toNat fun x => { x with d3 := false }) s

/-- POISONED_REQUEST (R384): discarded and counted. -/
def execPoisonedRequest (_fn : Fn) (s : State) : Host.Outcome State Fault Refusal := run (fun d => inc32 d rHIF_BADTLP 1) s

/-- NUMVFS_WRITE (R362): virtual functions 1 to NumVFs exist, at most 15. One that ceases to exist is reset as by FLR
(log 95). -/
def execNumvfsWrite (n : BitVec 5) (s : State) : Host.Outcome State Fault Refusal :=
  run (fun d =>
    let v := min n.toNat 15
    let d := ((List.range 15).map (· + 1)).foldl (fun d f => if fnOn d f && decide (v < f) then flrFn d f else d) d
    { d with ident := { d.ident with numvf := BitVec.ofNat 5 v } }) s

end Sys2Proof.Machine
end

