-- ==== Sys2Proof/Machine/Regs.lean ====
section
/-! DEFINITION. Register accesses (R8, R10–R12, R363–R366): what each register shows, what a read clears, what a write does, and the
debug path's limits under a locked interface (R365). -/
namespace Sys2Proof.Machine

/-- A number of fields side by side, the first lowest. -/
def sideBySide (w : Nat) (l : List Nat) : Nat := l.foldr (fun x a => x % 2 ^ w + a * 2 ^ w) 0

/-! ### What the registers show -/

/-- STRK_STATUS (R48). -/
def strkStatus (d : Dev) : Nat :=
  b2n d.strk.aligned + 2 * b2n d.strk.alignErr + 4 * b2n d.strk.kHeld.isSome + 8 * b2n d.sup.brace + 16 * d.strk.k.toNat

/-- Registers of the STRK block (R48). -/
def strkVal (d : Dev) (off : Nat) : Nat :=
  match off with
  | 0x0 => (d.strk.kHeld.getD d.strk.k).toNat
  | 0x8 => d.strk.count.toNat
  | 0x10 => d.strk.period.toNat
  | 0x14 => d.strk.offset.toNat
  | 0x18 => strkStatus d
  | 0x24 => d.strk.bndlat.toNat
  | _ => reg d off

/-- Status word of a tile (R91). -/
def tileWord (s : Seat) (i : Nat) : Nat :=
  let t := tileOf s i
  t.kind.toNat + 4 * b2n t.landed + 8 * b2n t.ovf + 16 * b2n t.accnf + 32 * t.shift.toNat + 128 * b2n t.rerun + 256 * b2n (accMapped s i) +
    512 * fld s.acccfg.toNat (4 * i + 1) (4 * i) + 65536 * t.kblk.toNat + 2 ^ 32 * t.fmta.toNat + 2 ^ 36 * t.fmtb.toNat +
    2 ^ 40 * t.split.toNat

/-- A context's byte of SEAT_CTXSTAT (R104). -/
def ctxStat (s : Seat) (c : Nat) : Nat :=
  let x := ctxOf s c
  let w := x.waitTok || x.waitCred || x.waitSb
  let st := if x.step.isNone then 0 else if w then 1 else if s.running.toNat = c then 3 else 2
  st + 4 * b2n x.waitTok + 8 * b2n x.waitCred + 16 * b2n x.waitSb + 32 * b2n x.failed

/-- Registers of a seat (R104, R130). -/
def seatVal (d : Dev) (u off i : Nat) : Nat :=
  let s := seatOf d u
  match off with
  | 0x0 => (if s.fenced then 15 else s.logical.toNat) + 16 * (u % 16) + 256 * (u / 16)
  | 0x4 => s.gnt.toNat + 16 * b2n s.valid
  | 0x8 => s.acccfg.toNat
  | 0x10 => s.tregcfg.toNat
  | 0x18 => s.scrcfg.toNat
  | 0x20 => sideBySide 1 ((List.range 4).map fun c => b2n (ctxOf s c).half)
  | 0x40 => tileWord s i
  | 0x80 => sideBySide 8 ((List.range 4).map (ctxStat s))
  | 0x104 => b2n s.krun + 2 * s.kctx.toNat + 256 * s.haltStat.toNat
  | 0x108 => s.spare.toNat
  | _ => reg d (seatPage u + off)

/-- The step in a context slot of a crew. -/
def stepInSlot (d : Dev) (x : Cox) (s : Nat) : Option (Nat × Step) := (tfind x.slots s).bind fun k => (tfind d.steps k).map fun st => (k, st)

/-- A slot's byte of COX_SLOTS (R156). -/
def slotStat (d : Dev) (x : Cox) (s : Nat) : Nat :=
  match stepInSlot d x s with
  | none => 0
  | some (_, st) =>
    b2n (st.st == .admitted) + 2 * b2n (st.st == .suspended) + 4 * b2n st.failing.isSome +
      8 * b2n ((tvals x.counters).all fun c => !c.active || c.slot.toNat != s || cntEmpty c)

/-- A work counter's 128 bits (R156). -/
def wcntWord (c : WCnt) : Nat :=
  c.next % 2 ^ 32 + c.fin % 2 ^ 32 * 2 ^ 32 + c.epoch % 2 ^ 16 * 2 ^ 64 + c.jobset % 64 * 2 ^ 80 + c.slot.toNat * 2 ^ 86 + b2n c.active * 2 ^ 88 +
    b2n c.die * 2 ^ 89 + b2n (!c.regrant.isEmpty) * 2 ^ 90

/-- Registers of a crew (R156). -/
def coxVal (d : Dev) (c off i : Nat) : Nat :=
  let x := coxOf d c
  match off with
  | 0x0 => c
  | 0x4 => x.gnt.toNat + 16 * b2n x.valid
  | 0x8 => sideBySide 8 ((List.range 4).map (slotStat d x))
  | 0x10 => ((stepInSlot d x i).map fun p => p.2.adm.toNat).getD 0
  | 0x40 => ((stepInSlot d x (i / 8)).map fun p => ((progOf p.2).lens.getD (i % 8) 0).toNat).getD 0
  | 0x400 => wcntWord (cntOf x i)
  | _ => reg d (coxPage c + off)

/-- Entries of the repair map of a kind and state (R464). -/
def repairsOf (d : Dev) (kind state : Nat) : List RepairRec := d.pst.repairs.filter fun r => r.kind.toNat == kind && r.state.toNat == state

/-- Registers of the MEM block (R184); MEM_SOWN and MEM_LOWN are read byte by byte. -/
def memVal (d : Dev) (off i : Nat) : Nat :=
  let ext := if d.opt1T then 1016 else 2040
  match off - 0x4000 with
  | 0x0 => b2n d.opt1T + 16 * ext + 60 * 2 ^ 16
  | 0x4 => sideBySide 1 ((List.range 4).map fun n => b2n (d.wipeExt.any fun e => e / 60 == n)) + 16 * b2n d.wipeMedia +
      32 * b2n (d.coxes.any fun p => p.2.wiping) + 64 * b2n (d.seats.any fun p => p.2.wiping)
  | 0x8 => (d.lown.filter fun p => fld p.2.toNat 5 4 == 2).length
  | 0x40 => ((repairsOf d 4 2).filter fun r => r.spare != noSpare).length
  | 0x44 => (repairsOf d 4 1).length
  | 0x48 => d.keys.toNat
  | 0x1000 => (tget 0 d.sown i).toNat
  | 0x2000 => (tget 0 d.lown i).toNat
  | _ => reg d off

/-- A slot's byte of STEM_SLOTS (R203). -/
def stemStat (d : Dev) (s : Nat) : Nat :=
  match tfind d.stems s with
  | none => 0
  | some (k, i, _, z, f) =>
    match tfind d.steps k with
    | none => 0
    | some st => b2n (st.st == .admitted) + 2 * b2n (z || st.st == .suspended) + 4 * b2n f + 8 * b2n ((smCtl (stemDesc (progOf st) i)).testBit 1) + 16 * st.g.toNat

/-- Registers of the STEM block (R203). -/
def stemVal (d : Dev) (off i : Nat) : Nat :=
  match off with
  | 0x3000 => sideBySide 8 ((List.range 4).map (stemStat d))
  | 0x3008 => ((tfind d.stems i).map fun x => x.2.2.1).getD 0
  | _ => reg d off

/-- Registers of the KVM block (R233). -/
def kvmVal (d : Dev) (off i : Nat) : Nat :=
  let sum (f : Nat → Nat) := (List.range 16).foldl (fun a g => a + f g) 0
  match off with
  | 0x8000 => 1024
  | 0x8004 => d.kv.length
  | 0x8008 => sum (freeS d)
  | 0x800C => sum (freeL d)
  | 0x8010 => d.kv.foldl (fun a p => a + p.2.defer.length) 0
  | 0x8014 => maskOf ((List.range 16).filter fun g => d.steps.any fun p => p.2.g.toNat == g && p.2.st == .queued && (p.2.hold == 0x28 || p.2.hold == 0x2C))
  | _ => reg d (off + 8 * i)

/-- The dispatch round of an admitted step, with its step. -/
def roundNow (d : Dev) : Option (Step × Round) := d.steps.findSome? fun p => if p.2.st = .admitted then p.2.round.map fun r => (p.2, r) else none

/-- Phase of a round as EXD_STAT shows it, and whether it waits for a peer (R244, R250). -/
def roundStat (r : Round) : Nat :=
  let n := r.ranks.length
  let wait := match r.phase with
    | 1 => r.counts.length != n
    | 2 => r.offs.length != n
    | 3 => r.sends.length != n
    | 5 => r.returns.length != n
    | _ => false
  16 * (if r.phase < 6 then r.phase + 1 else 0) + 128 * b2n wait

/-- Registers of the EMB and EXD blocks (R250). -/
def embVal (d : Dev) (off : Nat) : Nat :=
  match off with
  | 0xA000 => ((roundNow d).map fun p => p.1.g.toNat + roundStat p.2).getD 0
  | 0xA004 => ((roundNow d).map fun p => w32At ((progOf p.1).disp.getD 0 []) 0).getD 0
  | _ => reg d off

/-- An optical port's word (R283). -/
def portWord (d : Dev) (p : Nat) : Nat :=
  let x := portOf d p
  x.state.toNat + 8 * x.lanes.toNat + 4096 * x.sparefor.toNat + 2 ^ 16 * x.peermid.toNat + 2 ^ 28 * x.peerport.toNat + 2 ^ 32 * x.bufgnt.toNat +
    2 ^ 44 * b2n x.droppend

/-- Registers of the FAB block (R283). `v` is a free value for the hops to REF, which the model does not count. -/
def fabVal (d : Dev) (off i v : Nat) : Nat :=
  match off with
  | 0x2000 => (match d.fab with
    | some c => c.mid.toNat + 4096 * c.node.toNat + 2 ^ 21 * c.slot.toNat + 2 ^ 24
    | none => 0) + 2 ^ 25 * b2n d.fabPend.isSome
  | 0x2004 => (match d.fab with
    | some c => c.ref.toNat + 4096 * c.upport.toNat + 65536 * (if c.mid = c.ref then 0 else v % 16)
    | none => 0)
  | 0x2040 => portWord d i
  | 0x20C0 => reg d (off + 4 * i)
  | _ => reg d off

/-- Registers of the ING block (R319). -/
def ingVal (d : Dev) (off i : Nat) : Nat :=
  match off with
  | 0xB000 => maskOf ((List.range 64).filter fun c => (decOf d c).busy)
  | 0xB030 => sideBySide 4 ((List.range 16).map fun g => maskOf ((List.range 4).filter fun t => (tfind (gaunt d g).toks t).isSome))
  | 0xB100 => (tget 0 (gaunt d (i / 16)).cursors (i % 16)).toNat
  | _ => reg d off

/-- Registers of the VID block (R345). -/
def vidVal (d : Dev) (off i : Nat) : Nat :=
  match off with
  | 0xC008 =>
    let p := pipeOf d i
    p.g.toNat + 16 * b2n p.busy + 32 * b2n p.live + 64 * (p.sess % 64) + 4096 * b2n p.ingest
  | 0xC050 => maskOf ((List.range 64).filter fun s => (sessOf d s).isOpen)
  | 0xC058 => maskOf ((List.range 16).filter fun s => (sessOf d (64 + s)).isOpen)
  | _ => reg d off

/-- Registers of the HIF block (R385). A link that is down shows zero. RATE of a link below 32 GT/s is a free value (log 77). -/
def hifVal (d : Dev) (off v : Nat) : Nat :=
  match off with
  | 0x1000 =>
    if d.ident.up then
      (if d.ident.lowrate then v % 8 else d.ident.rate.toNat) + 8 * d.ident.width.toNat + 128 * b2n (d.ident.rate == 4 || d.ident.rate == 5) +
        256 * b2n d.ident.lowrate + 512 * b2n d.ident.l0p
    else 0
  | 0x1004 => d.ident.numvf.toNat
  | 0x102C => maskOf ((List.range 16).filter fun f => (func d f).ide)
  | 0x1030 => sideBySide 2 (0 :: (List.range 15).map fun g => (func d (g + 1)).tdi.toNat)
  | _ => reg d off

/-- Registers of the IDN block (R426). -/
def idnVal (d : Dev) (off i : Nat) : Nat :=
  match off with
  | 0x10000 =>
    d.pst.lcstate.toNat + 8 * b2n d.pst.lcPend.isSome + 16 * d.pst.rma.toNat + 256 * (d.pst.lcPend.getD 0).toNat
  | 0x10008 => d.pst.serial.toNat
  | 0x10010 => d.ident.fwver.toNat
  | 0x10020 => leNat (nonceBytes d)
  | 0x10040 => if i = 7 then (gaunt d 0).m7.toNat else (measOf d i).toNat
  | 0x10140 => maskOf ((List.range 16).filter fun f => inSession d f)
  | _ => reg d off

/-- Registers of the PWR block (R448, R507). Input current and power are measured, free values of 16 bits (log 4). -/
def pwrVal (d : Dev) (off i v : Nat) : Nat :=
  match off with
  | 0xD000 => b2n d.sup.brace + reg d off + 8 * b2n d.sup.resumeRun + 16 * b2n (modePend d)
  | 0xD008 => v % 65536
  | 0xD00C => v % 65536
  | 0xD100 => sideBySide 2 ((List.range 16).map fun n => if 113 ≤ 16 * i + n then 0 else (domOf d (16 * i + n)).mode.toNat)
  | 0xD140 => sideBySide 2 ((List.range 16).map fun n => if 113 ≤ 16 * i + n then 0 else (domOf d (16 * i + n)).state.toNat)
  | 0xD20C => b2n (d.sup.junction || d.sup.flow || d.sup.inlet) + 2 * b2n d.sup.junction + 4 * b2n d.sup.flow + 8 * b2n d.sup.inlet +
      16 * b2n d.sup.lastTrip
  | _ => reg d off

/-- Registers of the BOOT block (R465). -/
def bootVal (d : Dev) (off : Nat) : Nat :=
  match off with
  | 0xE004 => d.pst.bootnum.toNat
  | 0xE008 => sideBySide 2 ((List.range 32).map (levelOf d))
  | 0xE010 => d.pst.retry.toNat
  | 0xE014 => d.pst.opt.toNat
  | 0xE018 => maskOf ((List.range 64).filter fun c => (coxOf d c).fenced)
  | 0xE020 =>
    let s8 := ((List.range 64).filter fun c => decide ((seatOf d (16 * c + 8)).logical.toNat < 8)).length
    let lanes := d.seats.foldl (fun a p => a + fld p.2.spare.toNat 0 0 + fld p.2.spare.toNat 1 1) 0
    let ports := ((List.range 16).filter fun p => (portOf d p).sparefor != 15).length
    s8 + 128 * lanes + 2 ^ 18 * ports + 2 ^ 23 * (applied d 6).length
  | 0xE024 => (d.pst.repairs.filter fun r => r.state == 1).length
  | 0xE028 => d.pst.repairs.length
  | 0xE02C => sideBySide 1 ((List.range 20).map fun i => b2n (withdrawn d (i / 5) (i % 5))) +
      2 ^ 20 * sideBySide 1 ((List.range 4).map fun e => b2n (engFenced d e))
  | 0xE030 => d.pst.secver.toNat
  | _ => reg d off

/-- Registers of the TEL block (R480). TEL_TIME runs within the stroke: a free value (log 7). -/
def telVal (d : Dev) (off v : Nat) : Nat :=
  match off with
  | 0xF000 => d.strk.time.toNat + v % strokeNs d.strk.k
  | 0xF008 => d.evlog.rp.toNat
  | 0xF00C => d.evlog.lost.toNat
  | 0xF010 => maskOf (tkeys d.ckpts)
  | 0xF100 => leNat (padTo 64 (tget [] d.evlog.ents (slotOf d.evlog d.evlog.rp)))
  | _ => reg d off

/-- A register of the blocks that stand once: offset of its row, and its place in the row. -/
def blockVal (d : Dev) (off i v : Nat) : Nat :=
  if off < 0x1000 then strkVal d off
  else if off < 0x2000 then hifVal d off v
  else if off < 0x3000 then fabVal d off i v
  else if off < 0x4000 then stemVal d off i
  else if off < 0x8000 then memVal d off i
  else if off < 0x9000 then kvmVal d off i
  else if off < 0xB000 then embVal d off
  else if off < 0xC000 then ingVal d off i
  else if off < 0xD000 then vidVal d off i
  else if off < 0xE000 then pwrVal d off i v
  else if off < 0xF000 then bootVal d off
  else if off < 0x10000 then telVal d off v
  else idnVal d off i

/-! ### A locked interface (R365) -/

/-- The interface of a gauntlet is CONFIG_LOCKED or RUN. -/
def tdiLocked (d : Dev) (g : Nat) : Bool := g != 0 && ((func d g).tdi == 1 || (func d g).tdi == 2)

/-- Some context of the crew belongs to a gauntlet whose interface is locked. -/
def crewLocked (d : Dev) (c : Nat) : Bool :=
  let x := coxOf d c
  (x.valid && tdiLocked d x.gnt.toNat) ||
    (List.range 9).any fun s => let y := seatOf d (16 * c + s); y.valid && tdiLocked d y.gnt.toNat

/-- A stem slot belongs to such a gauntlet. -/
def stemLocked (d : Dev) (s : Nat) : Bool :=
  match tfind d.stems s with
  | some (k, _) => (tfind d.steps k).any fun st => tdiLocked d st.g.toNat
  | none => false

/-! ### Reads -/

/-- Bits of a register that the debug path shows while its gauntlet's interface is locked: gauntlet and state (log 98). -/
def seatLockMask (off : Nat) : Nat :=
  match off with
  | 0x0 => 2 ^ 32 - 1
  | 0x4 => 2 ^ 32 - 1
  | 0x80 => 0x03030303
  | _ => 0
/-- The same for a crew's registers. -/
def coxLockMask (off : Nat) : Nat :=
  match off with
  | 0x0 => 2 ^ 32 - 1
  | 0x4 => 2 ^ 32 - 1
  | 0x8 => 2 ^ 32 - 1
  | _ => 0
/-- The same for a queue descriptor: GNT, and ENABLE. -/
def queLockMask (off : Nat) : Nat :=
  match off with
  | 0x8 => 0x3C
  | 0xC => 0x4
  | _ => 0

/-- A 32-bit word of a row of a register map: the row's value, and whether the word is an RC register. -/
def rowWord (r : RegRow) (off : Nat) (val : Nat → Nat) : Nat × Bool :=
  let i := (off - r.off) / r.size
  if r.size < 4 then (leNat ((List.range 4).map fun k => BitVec.ofNat 8 (if off - r.off + k < r.span then val (off - r.off + k) else 0)), false)
  else (val i / 2 ^ (8 * ((off - r.off) % r.size)) % 2 ^ 32, r.acc == .rc)

/-- The 32-bit word at an offset of PF BAR0, and where it is an RC register that this read clears (R10, R12, R364, R365). -/
def bar0Word (d : Dev) (off v : Nat) : Nat × Option Nat :=
  if decide (0x100000 ≤ off) && decide (off < 0x140000) then
    let n := (off - 0x100000) / 64
    let o := off % 64
    let q := queue d n
    let w := leAt (queueImage q) o 4
    (if tdiLocked d q.gnt.toNat && q.nlog != 0 then w &&& queLockMask (o / 4 * 4) else w, none)
  else if decide (0x800000 ≤ off) && decide (off < 0x840000) then
    let c := (off - 0x800000) / 0x1000
    let o := off % 0x1000
    match rowAt coxRows o with
    | none => (0, none)
    | some r =>
      let (w, rc) := rowWord r o (coxVal d c r.off)
      if crewLocked d c then (w &&& coxLockMask r.off, none) else (w, if rc then some off else none)
  else if decide (0x1000000 ≤ off) && decide (off < 0x1400000) then
    let u := (off - 0x1000000) / 0x1000
    let o := off % 0x1000
    if 8 < u % 16 then (0, none)
    else match rowAt seatRows o with
      | none => (0, none)
      | some r =>
        let (w, rc) := rowWord r o (seatVal d u r.off)
        if crewLocked d (u / 16) then (w &&& seatLockMask r.off, none) else (w, if rc then some off else none)
  else match rowAt blockRows off with
    | none => (0, none)
    | some r =>
      let i := (off - r.off) / r.size
      let (w, rc) := rowWord r off fun j => blockVal d r.off j v
      if r.off = rSTEM_CURSOR ∧ stemLocked d i then (0, none)
      else if r.off = rING_CURSOR ∧ tdiLocked d (i / 16) then (0, none)
      else (w, if rc then some off else none)

/-- A 32-bit word of a function page (R366). Counters and queue positions come from the latest snapshot (R43). -/
def fnWord (d : Dev) (f off : Nat) : Nat :=
  let x := func d f
  let half (v : Nat) : Nat := v / 2 ^ (8 * (off % 8)) % 2 ^ 32
  if off = 0x0 then f + 16 * b2n (f == 0) + 32 * b2n (gaunt d f).present
  else if decide (0x8 ≤ off) && decide (off < 0x18) then featOff d / 2 ^ (8 * (off - 0x8)) % 2 ^ 32
  else if decide (0x18 ≤ off) && decide (off < 0x28) then x.feat.toNat / 2 ^ (8 * (off - 0x18)) % 2 ^ 32
  else if off / 8 = 5 then half x.sqbase.toNat
  else if off / 8 = 6 then half x.cqbase.toNat
  else if off = 0x38 then x.nlog.toNat + 256 * b2n x.enable
  else if off = 0x3C then b2n x.openF + 2 * b2n x.enable + 4 * x.tdi.toNat + 32 * b2n x.ide
  else if off = 0x48 then leAt (queue d (4 * f)).snapImg 0x14 4
  else if off = 0x4C then leAt (queue d (4 * f + 1)).snapImg 0x10 4
  else if off = 0x50 then x.intcfg.toNat
  else if off = 0x54 then x.err.toNat
  else if off / 8 = 0x20 then half d.strk.count.toNat
  else if off = 0x108 then strkStatus d
  else if decide (0x1000 ≤ off) && decide (off < 0x1040) then
    let (a, w, m) := tget (0, 0, false) x.msix ((off - 0x1000) / 16)
    match off % 16 with
    | 0 => a.toNat % 2 ^ 32
    | 4 => a.toNat / 2 ^ 32
    | 8 => w.toNat
    | _ => b2n m
  else if off = 0x1800 then x.pba.toNat
  else 0

/-- The two windows of R363: PF BAR0 (`none`), or the page of a function; none where the function has no such BAR. -/
def windowOf (d : Dev) (a : BusAddr) : Option (Option Nat × Nat) :=
  let off := a.off.toNat
  if a.fn = 0 ∧ a.bar = 0 then (if off < 2 ^ 26 then some (none, off) else none)
  else if (a.fn = 0 ∧ a.bar = 2) ∨ (a.fn ≠ 0 ∧ a.bar = 0) then
    (if off < 2 ^ 16 ∧ fnOn d a.fn.toNat then some (some a.fn.toNat, off) else none)
  else none

/-- An access of R363: 4 or 8 bytes wide and naturally aligned. -/
def accessOk (a : BusAddr) : Bool := (a.size == 4 || a.size == 8) && a.off.toNat % a.size.toNat == 0

/-- A halted module serves the BOOT block only (R454, R465). -/
def served (d : Dev) (win : Option Nat) (off : Nat) : Bool :=
  fld (reg d rBOOT_STATUS) 1 0 != 3 || (win.isNone && decide (0xE000 ≤ off) && decide (off < 0xF000))

/-- One 32-bit word is read, and cleared where it is an RC register: one action (R10, R11). -/
def readWord (d : Dev) (win : Option Nat) (off : Nat) : Nat × Dev :=
  if !served d win off then (0, d)
  else match win with
    | some f => (fnWord d f off, d)
    | none =>
      let (v, d) := freeVal d
      match bar0Word d off v.toNat with
      | (w, some r) => (w, setReg d r 0)
      | (w, none) => (w, d)

/-- RC_REGISTER_READ: a read of a register (R10–R12, R363). What the bus returns is kept in `busData` (log 6); an access that is not
4 or 8 bytes wide and aligned returns zero. A function that does not exist answers nothing. -/
def execRcRegisterRead (a : BusAddr) (s : State) : Host.Outcome State Fault Refusal :=
  run (fun d =>
    match windowOf d a with
    | none => d
    | some (win, off) =>
      if !accessOk a then { d with busData := 0 }
      else
        let (lo, d) := readWord d win off
        let (hi, d) := if a.size = 8 then readWord d win (off + 4) else (0, d)
        { d with busData := BitVec.ofNat 64 (lo + 2 ^ 32 * hi) }) s

/-! ### Writes -/

/-- A write to STRK_CFG.K (R22, R23): held while a step is admitted; a member of an aligned fabric ignores it. -/
def strkCfg (v : W32) (d : Dev) : Dev :=
  let k := BitVec.ofNat 4 (min 9 (fld v.toNat 3 0))
  if d.strk.aligned then d
  else if d.steps.any fun p => p.2.st == .admitted then { d with strk := { d.strk with kHeld := some k } }
  else { d with strk := { d.strk with k := k, kHeld := none, period := BitVec.ofNat 32 (strokeCycles k) } }

/-- STRK_CFG_WRITE (R23). -/
def execStrkCfgWrite (v : W32) (s : State) : Host.Outcome State Fault Refusal := run (strkCfg v) s

/-- Replace 32-bit half `h` of a 64-bit value. -/
def setHalf (old h v : Nat) : Nat := if h = 0 then old / 2 ^ 32 * 2 ^ 32 + v else old % 2 ^ 32 + v * 2 ^ 32

/-- A 32-bit write to PF BAR0 (R10, R363): the registers that G0 writes, and every W1C register; every other write is ignored. -/
def bar0Write (off v : Nat) (d : Dev) : Dev :=
  let w : W32 := BitVec.ofNat 32 v
  let clear (d : Dev) : Dev := setReg d off (reg d off - (reg d off &&& v))
  if off = rSTRK_CFG then strkCfg w d
  else if off = rMEM_ZEROSHARE then setReg d off (v % 4)
  else if off = rMEM_SCRUBCFG then setReg d off (max 100 (v % 65536))
  else if off = rFAB_RTIMEOUT then setReg d off (max 1 (v % 65536))
  else if off = rVID_CFG then setReg d off (min 16 (v % 32))
  else if off = rEMB_RCPART ∨ off = rEMB_RCPART + 4 then
    rcpartWrite (BitVec.ofNat 64 (setHalf (reg d rEMB_RCPART) ((off - rEMB_RCPART) / 4) v)) d
  else if off = rPWR_WAKEADDR then setReg d off (v % 256)
  else if off = rPWR_WTIMER then setReg d off v
  else if off = rPWR_AUTOIDLE then setReg d off (max 1 (v % 256))
  else if off = rBOOT_RETRY then retryWrite w d
  else if off = rBOOT_OPT then optWrite w d
  else if off = rBOOT_RECADDR ∨ off = rBOOT_RECADDR + 4 then
    setReg d rBOOT_RECADDR (setHalf (reg d rBOOT_RECADDR) ((off - rBOOT_RECADDR) / 4) v)
  else if off = rBOOT_RECLEN then setReg d off v
  else if off = rBOOT_RECCTL then recctlWrite w d
  else if off = rTEL_LOGRP then logrpWrite w d
  else if decide (0x100000 ≤ off) && decide (off < 0x140000) then
    let n := (off - 0x100000) / 64
    if off % 64 = rq_QCTL then
      let d := if v.testBit 0 then ctlFlush d n .provider else d
      if v.testBit 1 then ctlDroprest d n .provider else d
    else d
  else if decide (0x800000 ≤ off) && decide (off < 0x840000) then (if off % 0x1000 = rCOX_ERR then clear d else d)
  else if decide (0x1000000 ≤ off) && decide (off < 0x1400000) then
    (if off % 0x1000 = rSEAT_ERR ∧ off / 0x1000 % 16 ≤ 8 then clear d else d)
  else match rowAt blockRows off with
    | some r => if r.acc = .w1c then clear d else d
    | none => d

/-- A 32-bit write to a function page (R366). -/
def fnWrite (f off v : Nat) (d : Dev) : Dev :=
  let x := func d f
  let fn : Fn := BitVec.ofNat 4 f
  let w : W32 := BitVec.ofNat 32 v
  if off / 8 = 5 then (if x.enable then d else modF d f fun x => { x with sqbase := BitVec.ofNat 64 (setHalf x.sqbase.toNat (off / 4 % 2) v / 4096 * 4096) })
  else if off / 8 = 6 then
    (if x.enable then d else modF d f fun x => { x with cqbase := BitVec.ofNat 64 (setHalf x.cqbase.toNat (off / 4 % 2) v / 4096 * 4096) })
  else if off = 0x38 then ringcfgWrite fn w d
  else if off = 0x40 then sqtailWrite fn w d
  else if off = 0x44 then cqheadWrite fn w d
  else if off = 0x50 then modF d f fun x => { x with intcfg := w }
  else if off = 0x54 then modF d f fun x => { x with err := x.err &&& ~~~(BitVec.ofNat 4 v) }
  else if decide (0x1000 ≤ off) && decide (off < 0x1040) then
    let n := (off - 0x1000) / 16
    let (a, dt, m) := tget (0, 0, false) x.msix n
    let put (e : W64 × W32 × Bool) : Dev := modF d f fun x => { x with msix := tput x.msix n e }
    match off % 16 with
    | 0 => put (BitVec.ofNat 64 (setHalf a.toNat 0 v), dt, m)
    | 4 => put (BitVec.ofNat 64 (setHalf a.toNat 1 v), dt, m)
    | 8 => put (a, w, m)
    | _ => if v.testBit 0 then put (a, dt, true) else msixUnmask fn (BitVec.ofNat 2 n) d
  else d

/-- One 32-bit word is written. -/
def writeWord (win : Option Nat) (off v : Nat) (d : Dev) : Dev :=
  if !served d win off then d
  else match win with
    | some f => fnWrite f off v d
    | none => bar0Write off v d

/-- REGISTER_WRITE (R10, R12, R363): a write that is not 4 or 8 bytes wide and aligned is ignored. -/
def execRegisterWrite (a : BusAddr) (v : W64) (s : State) : Host.Outcome State Fault Refusal :=
  run (fun d =>
    match windowOf d a with
    | none => d
    | some (win, off) =>
      if !accessOk a then d
      else if a.size = 8 ∧ win = none ∧ off = rEMB_RCPART ∧ served d win off then rcpartWrite v d
      else
        let d := writeWord win off (v.toNat % 2 ^ 32) d
        if a.size = 8 then writeWord win (off + 4) (v.toNat / 2 ^ 32) d else d) s

end Sys2Proof.Machine
end

