-- ==== Sys2Proof/Machine/Ue.lean ====
section
/-! DEFINITION. Uncorrectable errors that a read finds (R174, R176): what fails, by the unit that read. -/
namespace Sys2Proof.Machine

/-- UE (R102, R176). -/
def cUE : Nat := 0x06

/-- The report of R176: the registers, and a UE event to the owner's event queue with its VA. -/
def ueReport (d : Dev) (x : ErrSite) (owner : Option Nat) : Dev :=
  event (ueRecord d x owner false) 0x05 owner cUE [x.va.toNat, x.tier.toNat, x.unitCode.toNat] owner.toList

/-- The command that waits for nothing but the read: a started memory command of a gauntlet fails (R375); its chunk has no effect. -/
def ueCommand (d : Dev) (g : Nat) : Dev :=
  match (func d g).cur with
  | some c => if c.started ∧ 8 ≤ c.op.toNat ∧ c.op.toNat ≤ 10 then memFail d c.cmd c.op.toNat cUE c.off else d
  | none => d

/-- The step of an item that read the word fails, with the ERR register of the chapter of its unit. -/
def ueStep (d : Dev) (k g unit : Nat) : Dev :=
  let i := unit % 4096
  match unit / 4096 with
  | 0 =>
    match (ctxsOf (seatOf d i) k).head? with
    | some c =>
      let op := ((seatOf d i).flights.find? fun f => f.ctx.toNat == c).map fun f => cOp f.word
      seatFail d i c (op.getD 0) cUE
    | none => failStep d k cUE unit
  | 5 => match i with
    | 4 => (match d.stems.find? fun p => p.2.1 == k with
      | some (s, _) => stemFail d k s 3 cUE
      | none => failStep d k cUE unit)
    | 5 =>
      let job := ((tfind d.steps k).bind fun st => (st.embs.find? fun p => p.2.started && !p.2.landed).map (·.1)).getD 0
      embFail d k g job 2 cUE
    | 6 => exdFail d k g 0 3 cUE
    | 0 | 1 | 2 | 3 => ingFail d k g 0 3 cUE unit
    | _ => failStep d k cUE unit
  | 7 => ingFail d k g (decOf d i).desc 3 cUE unit
  | _ => failStep d k cUE unit

/-- MEM_UE_READ (R176): the data is never delivered. A codec pipe treats it as damage (R337); a memory command, a checkpoint or a
restore fails (R375, R470). -/
def execMemUeRead (site : ErrSite) (st : Option StepName) (s : State) : Host.Outcome State Fault Refusal :=
  run (fun d =>
    let owner := ueOwner d site
    let d := ueReport d site owner
    let unit := site.unitCode.toNat
    if unit / 4096 = 6 then (if (pipeOf d (unit % 4096)).busy then concealRest d (unit % 4096) 7 0 else d)
    else if unit = 0x5008 ∧ st.isNone then ueCommand d (owner.getD 0)
    else if unit = 0x5009 then ckFail d (owner.getD 0) cUE 0
    else match st with
      | none => d
      | some n => match findStep d n with
        | none => d
        | some k => ueStep d k n.g.toNat unit) s

end Sys2Proof.Machine
end

