-- ==== Sys2Proof/Machine/Boundary.lean ====
section
/-! DEFINITION. The stroke boundary (R24, R25, R27–R29, R38, R45, R46, R394, R403, R431, R446): the eight actions in their order, what
the clock counts, and what waits for a boundary. -/
namespace Sys2Proof.Machine

/-! ### The clock (R22–R25, R403) -/

/-- The correction of an offset in one stroke: at most 50 ns (R25). -/
def strokeFix (z : Int) : Int := max (-50) (min 50 z)

/-- Length in ns of the stroke that ends: STRK_PERIOD cycles of 0.625 ns. -/
def strokeLen (d : Dev) : Nat := d.strk.period.toNat * 5 / 8

/-- A module of an aligned fabric other than the reference corrects its offset (R25). -/
def alignFix (d : Dev) : Dev :=
  let s := d.strk
  let own := match d.fab with
    | some c => c.mid == c.ref
    | none => true
  if !s.aligned || own then { d with strk := { s with period := BitVec.ofNat 32 (strokeCycles s.k) } }
  else
    let z : Int := s.offset.toInt + strokeLen d - strokeNs s.k
    let c := strokeFix z
    { d with strk := { s with offset := BitVec.ofNat 32 (wrapZ 32 z), alignErr := decide (200 < z.natAbs)
                              period := BitVec.ofNat 32 ((strokeCycles s.k : Int) - c * 8 / 5).toNat } }

/-- The tick (R24, R403, R405): the count rises by one; time and interval go on; the hatbox's lines are sampled. -/
def tickTime (d : Dev) : Dev :=
  let s := d.strk
  let d := { d with strk := { s with
      count := s.count + 1, ticks := s.ticks + 1, time := s.time + BitVec.ofNat 64 (strokeLen d), nominal := s.nominal + strokeNs s.k
      ivStrokes := s.ivStrokes + 1, rdyLow := s.rdyLow || !d.hat.ready, logFull := s.logFull || d.hat.full }
                    sup := { d.sup with inInterval := d.sup.inInterval || d.sup.brace } }
  alignFix d

/-- The boundary ends an accounting interval (R403). -/
def intervalEnds (d : Dev) : Bool := decide ((d.strk.interval + 1) * intervalNs ≤ d.strk.nominal)

/-- The next interval: its number and first stroke. -/
def nextInterval (d : Dev) : Dev :=
  { d with strk := { d.strk with interval := d.strk.interval + 1, ivFirst := d.strk.count, ivStrokes := 0 } }

/-- A boundary that PWAIT spends (R446): the clock runs, no action is performed; an interval that ends is kept for the wake. -/
def pwaitTick (d : Dev) : Dev :=
  let d := tickTime d
  let d := { d with pwait := { d.pwait with strokes := d.pwait.strokes + 1 } }
  if intervalEnds d then
    nextInterval { d with pwait := { d.pwait with late := d.pwait.late ++ [(BitVec.ofNat 64 d.strk.interval, d.strk.ivFirst, d.strk.ivStrokes)] } }
  else d

/-- SYNC frames (R258, R265): from the reference and every aligned module, on the ports whose peers name them as UPPORT; which these
are is a free value (log 4). A configuration applied at this boundary is the one sent (R255). -/
def sendSync (d : Dev) : Dev :=
  match d.fab with
  | none => d
  | some c =>
    if c.mid ≠ c.ref ∧ !d.strk.aligned then d
    else
      let (v, d) := freeVal d
      (List.range 16).foldl (fun d p =>
        if portUp (portOf d p) && (c.mid == c.ref || c.upport.toNat != p) && v.toNat.testBit p then
          portSend d p { Frame.blank 1 0 with
            dst := (portOf d p).peermid, src := c.mid, len := 1
            payload := padTo 32 (leBytes 8 d.strk.count.toNat ++ leBytes 8 d.strk.time.toNat ++ leBytes 8 d.strk.k.toNat ++ leBytes 8 c.digest.toNat) }
        else d) d

/-! ### Brace exit (R46, R431) -/

/-- At the boundary that ends brace: the event and PWR_LASTBRACE; running items meet their overrun boundary at the next one. A wake
that brace deferred takes place; a module that stays in PWAIT writes no event (R446). -/
def braceExit (d : Dev) : Dev :=
  let us := satN 32 ((d.strk.time.toNat - d.sup.braceAt) / 1000)
  let low := d.sup.minVin.toNat
  let d := { d with sup := { d.sup with brace := false, resumeDue := false, resumeRun := false }
                    steps := tmap (fun _ st => { st with items := st.items.map fun i => { i with seen := 0 } }) d.steps
                    funcs := tmap (fun _ f => { f with cur := f.cur.map fun c => { c with tries := c.tries - c.tries % 2 } }) d.funcs }
  let d := setReg d rPWR_LASTBRACE (low + us * 65536)
  let d := if d.pwait.active && d.pwait.wake != 0 then wakeNow d d.pwait.wake else d
  if d.pwait.active then d else event d 1 none 0 [low, us] (allG d)

/-! ### Virtual time (R394) -/

/-- Charge a gauntlet for the stroke just ended, from the snapshot. -/
def vtCharge (d : Dev) (g : Nat) : Dev :=
  let a := tget Acct.reset d.snap.accts g
  let seat := a.seatcyc.toNat
  let iod := a.stemcyc.toNat + a.embcyc.toNat + a.exdcyc.toNat
  modG d g fun x =>
    let c := chargeOf (seat - x.charged.1) (iod - x.charged.2)
    { x with charged := (seat, iod), vt := BitVec.ofNat 64 (satN 64 (x.vt.toNat + c * 65536 / x.share.toNat)) }

/-- A gauntlet has a step queued, admitted or suspended. -/
def gActive (d : Dev) (g : Nat) : Bool := d.steps.any fun p => p.2.g.toNat == g

/-- The smallest of a list. -/
def leastOf (l : List Nat) : Nat := match l with
  | [] => 0
  | a :: t => t.foldl min a

/-- Virtual times are set against the least-served active gauntlet. -/
def vtNormal (d : Dev) : Dev :=
  let m := leastOf (((allG d).filter (gActive d)).map fun g => (gaunt d g).vt.toNat)
  (allG d).foldl (fun d g => modG d g fun x => { x with vt := if gActive d g then x.vt - BitVec.ofNat 64 m else 0 }) d

/-! ### Actions 1 to 4 -/

/-- Action 1 (R37, R38, R43): the snapshot, where no marked message has taken it already; virtual times; the sums of stroke
entries that are turned on start now (R475). -/
def action1 (d : Dev) : Dev :=
  let d := if d.snap.early then d else snapTake d
  let d := { d with snap := { d.snap with early := false } }
  let d := vtNormal ((allG d).foldl vtCharge d)
  (allG d).foldl (fun d g => if (gaunt d g).telFresh then modG d g fun x => { x with strokeAcc := Bins.reset, telFresh := false } else d) d

/-- A running item meets a boundary (R27): `none` where it ends here or has overrun and is no longer a running item. -/
def itemMeets (sending : Bool) (i : Item) : Option Item :=
  if i.kind = 4 then (if sending ∧ i.seen = 0 then some { i with seen := 1 } else none)
  else if i.seen = 0 then some { i with seen := 1 } else some { i with seen := 0 }

/-- An item has overrun: it was running at the boundary before too. -/
def itemOver (sending : Bool) (i : Item) : Bool := i.seen != 0 && (i.kind != 4 || sending)

/-- What an overrun does (R29): it is counted and its event is written; a reduction chunk is held with its bucket's STALL; an
overrun decode item loses its sample. Steps of tile jobs are suspended at action 4. -/
def overrunOne (k g : Nat) (d : Dev) (i : Item) : Dev :=
  let d := event (ovrCount d (min 3 (i.kind - 1))) 0x09 (some g) 0x5E [i.kind, i.unitCode.toNat] [g]
  if i.kind = 4 then
    inc32 (modStep d k fun st => { st with
      fl := { st.fl with stall := true }
      buckets := st.buckets.map fun b => if b.tag.toNat = i.sub / 65536 then { b with stalls := b.stalls + 1 } else b }) rRED_STALLCNT 1
  else if i.kind = 3 then abandon d i.sub 1
  else d

/-- Action 2 for one step: its items meet the boundary. -/
def overrunStep (d : Dev) (k : Nat) : Dev :=
  match tfind d.steps k with
  | none => d
  | some st =>
    if st.st ≠ .admitted then d
    else
      let w := sendsWait d
      let d := (st.items.filter (itemOver w)).foldl (overrunOne k st.g.toNat) d
      modStep d k fun st => { st with items := st.items.filterMap (itemMeets w) }

/-- Steps that action 2 marks for suspension: a tile job of theirs has overrun. -/
def overSteps (d : Dev) : List Nat :=
  (d.steps.filter fun p => p.2.st == .admitted && p.2.items.any fun i => itemOver true i && decide (i.kind ≤ 2)).map (·.1)

/-- Action 2 (R27, R29): items of steps, chunks of commands, and the budgets of samples (R310). -/
def action2 (d : Dev) : Dev :=
  let d := (tkeys d.steps).foldl overrunStep d
  let d := (List.range 16).foldl chunkOverrun d
  { d with decs := tmap (fun _ c => if c.busy && c.item != 0 then { c with seen := c.seen + 1 } else c) d.decs }

/-- A step met the boundary (R28): its strokes and elapsed strokes. -/
def strokeOf (st : Step) : Step :=
  match st.st with
  | .admitted => { st with strokes := st.strokes + 1, elapsed := if st.fresh then st.elapsed else st.elapsed + 1, fresh := false }
  | .suspended => { st with strokes := st.strokes + 1, fresh := false }
  | _ => st

/-- A step at action 3: failed or cancelled, complete, or still running. -/
def endOrComplete (d : Dev) (k : Nat) : Dev :=
  match tfind d.steps k with
  | none => d
  | some st =>
    if st.st = .admitted ∨ st.st = .suspended then
      match st.failing with
      | some (c, cancelled) => endStep d k 2 c.toNat cancelled
      | none => if st.st = .admitted ∧ stepDone d k st then completeStep d k else d
    else d

/-- The caches that a gauntlet's writes empty (R170, R240). -/
def cacheEmpty (d : Dev) (g : Nat) : Dev :=
  let x := gaunt d g
  let d := if x.wrote then
      { d with coxes := tmap (fun _ c => if c.cacheValid && c.cacheGnt.toNat == g then { c with lines := [], rr := [] } else c) d.coxes }
    else d
  let d := if x.wroteRow then { d with rowcache := d.rowcache.filter fun r => r / 2 ^ 40 != g } else d
  modG d g fun x => { x with wrote := false, wroteRow := false }

/-- Action 3 (R28, R38): completion; then LATE, and the caches. -/
def action3 (d : Dev) : Dev :=
  let d := { d with steps := tmap (fun _ st => strokeOf st) d.steps }
  let d := (tkeys d.steps).foldl endOrComplete d
  let late (st : Step) : Bool := st.st == .admitted && decide (pBudget (progOf st) < st.elapsed)
  let d := { d with steps := tmap (fun _ st => if late st then { st with fl := { st.fl with late := true } } else st) d.steps }
  (List.range 16).foldl cacheEmpty d

/-- Steps that a command has chosen (R396, R400). -/
def chosen (d : Dev) (f : Step → Bool) : List Nat := (d.steps.filter fun p => p.2.st == .admitted && f p.2).map (·.1)

/-- Action 4 (R38, R45, R396, R400): steps that overran and steps that are preempted are suspended; a forced preemption cancels. -/
def action4 (d : Dev) (ovr : List Nat) : Dev :=
  let d := (chosen d fun st => st.kill).foldl cancelStep d
  let ovr := ovr.filter fun k => (tfind d.steps k).isSome
  let pre := victims d ++ chosen d (fun st => st.evict) ++ ckSuspends d
  if ovr.isEmpty && pre.isEmpty then d else suspendSteps d ovr pre

/-! ### Actions 5 to 8 -/

/-- Commands of one opcode that wait. -/
def waitOf (d : Dev) (ops : List Nat) : List Waiting := d.bnds.filter fun w => ops.contains w.op.toNat

/-- Action 5 (R435–R437, R442): changes of mode, PWAIT, then the domains that leave the on state. -/
def action5 (d : Dev) : Dev :=
  let d := (waitOf d [0x58]).foldl bndPwrset d
  if d.pwait.active then d else (List.range 113).foldl domDown d

/-- A held stroke exponent takes effect at a boundary at which no step is admitted (R23). -/
def kApply (d : Dev) : Dev :=
  match d.strk.kHeld with
  | none => d
  | some k =>
    if d.steps.any fun p => p.2.st == .admitted then d
    else { d with strk := { d.strk with k := k, kHeld := none, period := BitVec.ofNat 32 (strokeCycles k) } }

/-- What takes effect at a boundary besides its actions: translation, gauntlets, the fabric's configuration, stroke length. -/
def takeEffect (d : Dev) : Dev :=
  let d := (waitOf d [0x10, 0x11, 0x12, 0x19]).foldl bndMem d
  let d := (List.range 16).foldl (fun d g => if (gaunt d g).present then bndGauntlet d g else d) d
  let d := (waitOf d [0x20]).foldl bndGcreate d
  kApply (fabBoundary d)

/-- Keys, checkpoints and restores at a boundary outside brace (R45, R418, R469, R472). -/
def takeHeld (d : Dev) : Dev :=
  (List.range 16).foldl (fun d g => if (gaunt d g).present then rsBoundary (ckBoundary (tkBoundary d g) g) g else d) d

/-- Actions 6 and 7: admission, unless a lifecycle transition has stopped it (R423); domains requested return. -/
def action67 (d : Dev) : Dev :=
  let d := if lcBusy d then d else admission d
  (List.range 113).foldl domUp d

/-- A stroke entry is due (R475). -/
def entryDue (d : Dev) (g : Nat) : Bool :=
  let c := (gaunt d g).telCfg.toNat
  c.testBit 0 && d.strk.count.toNat % 2 ^ fld c 7 4 == 0

/-- A stroke entry (R476). -/
def strokeEntry (d : Dev) (g : Nat) : Bytes :=
  let b := (gaunt d g).strokeAcc
  let n (st : StepSt) : Nat := (d.steps.filter fun p => p.2.g.toNat == g && p.2.st == st).length
  [1] ++ leBytes 1 g ++ [0, 0] ++ leBytes 8 d.strk.count.toNat ++
    ([b.fwd, b.bwd, b.opt, b.other, b.ingw, b.fabw, b.red].flatMap fun v => leBytes 8 v.toNat) ++
    leBytes 4 (n .admitted) ++ leBytes 4 (n .suspended) ++ leBytes 4 (n .queued) ++ List.replicate 44 0

/-- Telemetry of one gauntlet at action 8 (R476; vector 2, R381). -/
def telExport (d : Dev) (g : Nat) : Dev :=
  let d := (gaunt d g).telPend.foldl (fun d b => pushE d (tnQ g) 2 b) d
  let d := modG d g fun x => { x with telPend := [] }
  if entryDue d g then modG (pushE d (tnQ g) 2 (strokeEntry d g)) g fun x => { x with strokeAcc := Bins.reset } else d

/-- Action 8 (R38, R403, R476, R483): telemetry, then the records and the frame of an interval that ends, from the snapshot. -/
def action8 (d : Dev) : Dev :=
  let d := (allG d).foldl telExport d
  if intervalEnds d then
    let acct (g : Nat) : Acct := tget Acct.reset d.snap.accts g
    let d := exportInterval { d with actSent := [] } (BitVec.ofNat 64 d.strk.interval) d.strk.ivFirst d.strk.ivStrokes acct
    nextInterval (newInterval d acct)
  else d

/-- What starts once the boundary sequence has ended (R40, R163, R376, R390, R423, R456). -/
def afterBoundary (d : Dev) : Dev :=
  let d := (waitOf d [8, 9, 10]).foldl bndMemCmd d
  let d := (waitOf d [0x3C]).foldl bndKvedit d
  let d := memRetries (submitsGo d)
  let d := (waitOf d [0x59]).foldl bndFwstage d
  settle ((waitOf d [0x61]).foldl bndLifecycle d)

/-- Length of the sequence in cycles: a free value within its bound (R38; log 7). -/
def noteLatency (d : Dev) : Dev :=
  let (v, d) := freeVal d
  { d with strk := { d.strk with bndlat := BitVec.ofNat 32 (v.toNat % 4097) } }

/-- The boundary of a running module (R38, R46): in brace only actions 1, 3 and 8. -/
def boundary (d : Dev) : Dev :=
  let d := tickTime (action1 d)
  let d := if d.sup.brace && d.sup.resumeDue then braceExit d else d
  let normal := !d.sup.brace
  let ovr := if normal then overSteps d else []
  let d := if normal then action2 d else d
  let d := action3 d
  let d := if normal then action4 d ovr else d
  let d := (allG d).foldl tearBoundary d
  let d := if normal then action5 d else d
  if d.pwait.active then noteLatency (action8 (sendSync d))
  else
    let d := sendSync (takeEffect (domArrivals d))
    let d := if normal then action67 (takeHeld d) else d
    noteLatency (afterBoundary (action8 d))

/-- STROKE_BOUNDARY (R38): a module that has passed B25 counts strokes (R24, R452). In PWAIT only the clock runs; a deferred wake takes
place where brace ends, and the first boundary sequence is the next one (R446). -/
def execStrokeBoundary (s : State) : Host.Outcome State Fault Refusal :=
  run (fun d =>
    if fld (reg d rBOOT_STATUS) 1 0 ≠ 1 then d
    else if d.pwait.active then
      let d := pwaitTick d
      if d.sup.brace && d.sup.resumeDue then braceExit d else d
    else boundary d) s

end Sys2Proof.Machine
end

