-- ==== Sys2Proof/Machine/Dispatch.lean ====
section
/-! DEFINITION. The effect of each command: one arm for each constructor of `Instr`. -/
namespace Sys2Proof.Machine

def exec (i : Instr) (s : State) : Host.Outcome State Fault Refusal :=
  match i with
  | .strokeBoundary => Sys2Proof.Machine.execStrokeBoundary s
  | .seatNop c w => Sys2Proof.Machine.execSeatNop c w s
  | .seatMma c w => Sys2Proof.Machine.execSeatMma c w s
  | .mmaBlockLands u => Sys2Proof.Machine.execMmaBlockLands u s
  | .seatLoadacc c w => Sys2Proof.Machine.execSeatLoadacc c w s
  | .seatDrain c w => Sys2Proof.Machine.execSeatDrain c w s
  | .drainEpilogue u => Sys2Proof.Machine.execDrainEpilogue u s
  | .seatSetidx c w => Sys2Proof.Machine.execSeatSetidx c w s
  | .seatSwaph c w => Sys2Proof.Machine.execSeatSwaph c w s
  | .seatLane c w => Sys2Proof.Machine.execSeatLane c w s
  | .seatFence c w => Sys2Proof.Machine.execSeatFence c w s
  | .seatYield c w => Sys2Proof.Machine.execSeatYield c w s
  | .seatEnd c w => Sys2Proof.Machine.execSeatEnd c w s
  | .seatFault u lane => Sys2Proof.Machine.execSeatFault u lane s
  | .laneKernelHalt u => Sys2Proof.Machine.execLaneKernelHalt u s
  | .laneIop l w => Sys2Proof.Machine.execLaneIop l w s
  | .laneAddi l w => Sys2Proof.Machine.execLaneAddi l w s
  | .laneAndi l w => Sys2Proof.Machine.execLaneAndi l w s
  | .laneOri l w => Sys2Proof.Machine.execLaneOri l w s
  | .laneXori l w => Sys2Proof.Machine.execLaneXori l w s
  | .laneShi l w => Sys2Proof.Machine.execLaneShi l w s
  | .laneLui l w => Sys2Proof.Machine.execLaneLui l w s
  | .laneFop l w => Sys2Proof.Machine.execLaneFop l w s
  | .laneFma l w => Sys2Proof.Machine.execLaneFma l w s
  | .laneFcvt l w => Sys2Proof.Machine.execLaneFcvt l w s
  | .laneCvt l w => Sys2Proof.Machine.execLaneCvt l w s
  | .laneXfn l w => Sys2Proof.Machine.execLaneXfn l w s
  | .laneTld l w => Sys2Proof.Machine.execLaneTld l w s
  | .laneTst l w => Sys2Proof.Machine.execLaneTst l w s
  | .laneWld l w => Sys2Proof.Machine.execLaneWld l w s
  | .laneBr l w => Sys2Proof.Machine.execLaneBr l w s
  | .laneJal l w => Sys2Proof.Machine.execLaneJal l w s
  | .laneJalr l w => Sys2Proof.Machine.execLaneJalr l w s
  | .laneCsrr l w => Sys2Proof.Machine.execLaneCsrr l w s
  | .laneCsrw l w => Sys2Proof.Machine.execLaneCsrw l w s
  | .lanePerm l w => Sys2Proof.Machine.execLanePerm l w s
  | .laneRed l w => Sys2Proof.Machine.execLaneRed l w s
  | .laneBar l w => Sys2Proof.Machine.execLaneBar l w s
  | .laneHalt l w => Sys2Proof.Machine.execLaneHalt l w s
  | .collectiveProceed u => Sys2Proof.Machine.execCollectiveProceed u s
  | .laneWatchdog u => Sys2Proof.Machine.execLaneWatchdog u s
  | .workGrant c => Sys2Proof.Machine.execWorkGrant c s
  | .streamBlockLanded c strm => Sys2Proof.Machine.execStreamBlockLanded c strm s
  | .jobsetComplete crew counter => Sys2Proof.Machine.execJobsetComplete crew counter s
  | .haloRowPublish crew conv => Sys2Proof.Machine.execHaloRowPublish crew conv s
  | .stemRow slot => Sys2Proof.Machine.execStemRow slot s
  | .embJobStart st job => Sys2Proof.Machine.execEmbJobStart st job s
  | .embWorkUnit st job => Sys2Proof.Machine.execEmbWorkUnit st job s
  | .expertCount st => Sys2Proof.Machine.execExpertCount st s
  | .expertOffset st => Sys2Proof.Machine.execExpertOffset st s
  | .expertSend st => Sys2Proof.Machine.execExpertSend st s
  | .expertCompute st => Sys2Proof.Machine.execExpertCompute st s
  | .expertReturn st => Sys2Proof.Machine.execExpertReturn st s
  | .expertCombine st => Sys2Proof.Machine.execExpertCombine st s
  | .expertAbortReceived g round => Sys2Proof.Machine.execExpertAbortReceived g round s
  | .kvEditApply tab => Sys2Proof.Machine.execKvEditApply tab s
  | .kvSpillLanded tab entry => Sys2Proof.Machine.execKvSpillLanded tab entry s
  | .kvSummaryItem st tab entry => Sys2Proof.Machine.execKvSummaryItem st tab entry s
  | .kvSelectorBlock st walk q => Sys2Proof.Machine.execKvSelectorBlock st walk q s
  | .kvWalkBlock c walk => Sys2Proof.Machine.execKvWalkBlock c walk s
  | .kvFetchReq g src tab page group limit frame => Sys2Proof.Machine.execKvFetchReq g src tab page group limit frame s
  | .kvFetchResp st tab page group frame data => Sys2Proof.Machine.execKvFetchResp st tab page group frame data s
  | .crewSaveDone crew => Sys2Proof.Machine.execCrewSaveDone crew s
  | .crewRestoreDone crew badCtx => Sys2Proof.Machine.execCrewRestoreDone crew badCtx s
  | .memUeRead site st => Sys2Proof.Machine.execMemUeRead site st s
  | .patrolScrub find => Sys2Proof.Machine.execPatrolScrub find s
  | .wipeDone w => Sys2Proof.Machine.execWipeDone w s
  | .zeroingDone extent => Sys2Proof.Machine.execZeroingDone extent s
  | .memAccess st unitCode va write data len => Sys2Proof.Machine.execMemAccess st unitCode va write data len s
  | .decodeContextTake ctx => Sys2Proof.Machine.execDecodeContextTake ctx s
  | .recordParse st desc shard => Sys2Proof.Machine.execRecordParse st desc shard s
  | .decodeItem ctx => Sys2Proof.Machine.execDecodeItem ctx s
  | .sampleBudgetExpiry ctx => Sys2Proof.Machine.execSampleBudgetExpiry ctx s
  | .sampleComplete ctx => Sys2Proof.Machine.execSampleComplete ctx s
  | .batchComplete st desc batch => Sys2Proof.Machine.execBatchComplete st desc batch s
  | .ingestDescriptorComplete st desc => Sys2Proof.Machine.execIngestDescriptorComplete st desc s
  | .videoFrameStart pipe => Sys2Proof.Machine.execVideoFrameStart pipe s
  | .videoBlockRowItem pipe rows => Sys2Proof.Machine.execVideoBlockRowItem pipe rows s
  | .videoFramePublish pipe => Sys2Proof.Machine.execVideoFramePublish pipe s
  | .videoWatchdog pipe => Sys2Proof.Machine.execVideoWatchdog pipe s
  | .encodeFrameEmit pipe => Sys2Proof.Machine.execEncodeFrameEmit pipe s
  | .queueWriteL q item credited => Sys2Proof.Machine.execQueueWriteL q item credited s
  | .queueWriteE q body => Sys2Proof.Machine.execQueueWriteE q body s
  | .queueFlush q wr => Sys2Proof.Machine.execQueueFlush q wr s
  | .queueDroprest q wr => Sys2Proof.Machine.execQueueDroprest q wr s
  | .fnSqtailWrite fn v => Sys2Proof.Machine.execFnSqtailWrite fn v s
  | .fnCqheadWrite fn v => Sys2Proof.Machine.execFnCqheadWrite fn v s
  | .commandFetch fn => Sys2Proof.Machine.execCommandFetch fn s
  | .memoryChunk fn => Sys2Proof.Machine.execMemoryChunk fn s
  | .controlCoreTakeover core => Sys2Proof.Machine.execControlCoreTakeover core s
  | .msixHoldoffExpiry fn => Sys2Proof.Machine.execMsixHoldoffExpiry fn s
  | .cmdNop h => Sys2Proof.Machine.execCmdNop h s
  | .cmdOpen h => Sys2Proof.Machine.execCmdOpen h s
  | .cmdClose h => Sys2Proof.Machine.execCmdClose h s
  | .cmdIdent h => Sys2Proof.Machine.execCmdIdent h s
  | .cmdRead h => Sys2Proof.Machine.execCmdRead h s
  | .cmdWrite h => Sys2Proof.Machine.execCmdWrite h s
  | .cmdFill h => Sys2Proof.Machine.execCmdFill h s
  | .cmdMap h => Sys2Proof.Machine.execCmdMap h s
  | .cmdUnmap h => Sys2Proof.Machine.execCmdUnmap h s
  | .cmdProtect h => Sys2Proof.Machine.execCmdProtect h s
  | .cmdExtlist h => Sys2Proof.Machine.execCmdExtlist h s
  | .cmdAssign h => Sys2Proof.Machine.execCmdAssign h s
  | .cmdReclaim h => Sys2Proof.Machine.execCmdReclaim h s
  | .cmdGcreate h => Sys2Proof.Machine.execCmdGcreate h s
  | .cmdGdestroy h => Sys2Proof.Machine.execCmdGdestroy h s
  | .cmdGset h => Sys2Proof.Machine.execCmdGset h s
  | .cmdPreempt h => Sys2Proof.Machine.execCmdPreempt h s
  | .cmdPreemptForce h => Sys2Proof.Machine.execCmdPreemptForce h s
  | .cmdSubmit h => Sys2Proof.Machine.execCmdSubmit h s
  | .cmdCancel h => Sys2Proof.Machine.execCmdCancel h s
  | .cmdCheckpointDrain h => Sys2Proof.Machine.execCmdCheckpointDrain h s
  | .cmdCheckpointSuspend h => Sys2Proof.Machine.execCmdCheckpointSuspend h s
  | .checkpointCopyItem g => Sys2Proof.Machine.execCheckpointCopyItem g s
  | .cmdRestore h => Sys2Proof.Machine.execCmdRestore h s
  | .cmdStepstat h => Sys2Proof.Machine.execCmdStepstat h s
  | .cmdQcreate h => Sys2Proof.Machine.execCmdQcreate h s
  | .cmdQdestroy h => Sys2Proof.Machine.execCmdQdestroy h s
  | .cmdQstat h => Sys2Proof.Machine.execCmdQstat h s
  | .cmdKvpoolAdd h => Sys2Proof.Machine.execCmdKvpoolAdd h s
  | .cmdKvpoolRemove h => Sys2Proof.Machine.execCmdKvpoolRemove h s
  | .cmdKvcreate h => Sys2Proof.Machine.execCmdKvcreate h s
  | .cmdKvdestroy h => Sys2Proof.Machine.execCmdKvdestroy h s
  | .cmdKvroot h => Sys2Proof.Machine.execCmdKvroot h s
  | .cmdKveditTruncate h => Sys2Proof.Machine.execCmdKveditTruncate h s
  | .cmdKveditPin h => Sys2Proof.Machine.execCmdKveditPin h s
  | .cmdKveditUnpin h => Sys2Proof.Machine.execCmdKveditUnpin h s
  | .cmdKveditBringBack h => Sys2Proof.Machine.execCmdKveditBringBack h s
  | .cmdFabcfg h => Sys2Proof.Machine.execCmdFabcfg h s
  | .cmdFtagbind h => Sys2Proof.Machine.execCmdFtagbind h s
  | .cmdPeerset h => Sys2Proof.Machine.execCmdPeerset h s
  | .cmdRgcreate h => Sys2Proof.Machine.execCmdRgcreate h s
  | .cmdRgdestroy h => Sys2Proof.Machine.execCmdRgdestroy h s
  | .cmdTokload h => Sys2Proof.Machine.execCmdTokload h s
  | .cmdVsopen h => Sys2Proof.Machine.execCmdVsopen h s
  | .cmdVsclose h => Sys2Proof.Machine.execCmdVsclose h s
  | .cmdAcct h => Sys2Proof.Machine.execCmdAcct h s
  | .cmdTelcfgConfigure h => Sys2Proof.Machine.execCmdTelcfgConfigure h s
  | .cmdTelcfgReadEvents h => Sys2Proof.Machine.execCmdTelcfgReadEvents h s
  | .cmdTelcfgReadTelemetry h => Sys2Proof.Machine.execCmdTelcfgReadTelemetry h s
  | .cmdPwrset h => Sys2Proof.Machine.execCmdPwrset h s
  | .cmdFwstageCheck h => Sys2Proof.Machine.execCmdFwstageCheck h s
  | .cmdFwstageWrite h => Sys2Proof.Machine.execCmdFwstageWrite h s
  | .cmdSecmsg h => Sys2Proof.Machine.execCmdSecmsg h s
  | .cmdLifecycle h => Sys2Proof.Machine.execCmdLifecycle h s
  | .lifecycleReset => Sys2Proof.Machine.execLifecycleReset s
  | .msgGetVersion fn => Sys2Proof.Machine.execMsgGetVersion fn s
  | .msgGetCapabilities fn => Sys2Proof.Machine.execMsgGetCapabilities fn s
  | .msgNegotiateAlgorithms fn algs => Sys2Proof.Machine.execMsgNegotiateAlgorithms fn algs s
  | .msgGetDigests fn => Sys2Proof.Machine.execMsgGetDigests fn s
  | .msgGetCertificate fn slot off len => Sys2Proof.Machine.execMsgGetCertificate fn slot off len s
  | .msgChallenge fn slot nonce => Sys2Proof.Machine.execMsgChallenge fn slot nonce s
  | .msgGetMeasurements fn nonce => Sys2Proof.Machine.execMsgGetMeasurements fn nonce s
  | .msgKeyExchange fn ek => Sys2Proof.Machine.execMsgKeyExchange fn ek s
  | .msgFinish fn verify => Sys2Proof.Machine.execMsgFinish fn verify s
  | .msgEndSession fn => Sys2Proof.Machine.execMsgEndSession fn s
  | .msgIdeKm fn op => Sys2Proof.Machine.execMsgIdeKm fn op s
  | .msgTdisp fn op => Sys2Proof.Machine.execMsgTdisp fn op s
  | .msgStopInterface fn => Sys2Proof.Machine.execMsgStopInterface fn s
  | .msgGetKemkey fn => Sys2Proof.Machine.execMsgGetKemkey fn s
  | .msgTkStage fn keygen ct wrapped => Sys2Proof.Machine.execMsgTkStage fn keygen ct wrapped s
  | .msgTkActivate fn keygen => Sys2Proof.Machine.execMsgTkActivate fn keygen s
  | .ideIntegrityFail fn => Sys2Proof.Machine.execIdeIntegrityFail fn s
  | .linkTrained rate width => Sys2Proof.Machine.execLinkTrained rate width s
  | .perstAssert => Sys2Proof.Machine.execPerstAssert s
  | .hotReset => Sys2Proof.Machine.execHotReset s
  | .linkDown => Sys2Proof.Machine.execLinkDown s
  | .linkUp => Sys2Proof.Machine.execLinkUp s
  | .flrVf fn => Sys2Proof.Machine.execFlrVf fn s
  | .flrPf => Sys2Proof.Machine.execFlrPf s
  | .d3hotEntry fn => Sys2Proof.Machine.execD3hotEntry fn s
  | .d0Return fn => Sys2Proof.Machine.execD0Return fn s
  | .poisonedRequest fn => Sys2Proof.Machine.execPoisonedRequest fn s
  | .frameReceived port fr => Sys2Proof.Machine.execFrameReceived port fr s
  | .nakReceived port seq => Sys2Proof.Machine.execNakReceived port seq s
  | .replayTimeout port => Sys2Proof.Machine.execReplayTimeout port s
  | .portRetrain port ok => Sys2Proof.Machine.execPortRetrain port ok s
  | .laneDrop port lane => Sys2Proof.Machine.execLaneDrop port lane s
  | .laserFail eng laser => Sys2Proof.Machine.execLaserFail eng laser s
  | .rejectReceived st cls status => Sys2Proof.Machine.execRejectReceived st cls status s
  | .syncReceived port count time k digest => Sys2Proof.Machine.execSyncReceived port count time k digest s
  | .delayMeasure t1 t2 t3 t4 => Sys2Proof.Machine.execDelayMeasure t1 t2 t3 t4 s
  | .alignJoin count k digest => Sys2Proof.Machine.execAlignJoin count k digest s
  | .joinReceived g group src digest => Sys2Proof.Machine.execJoinReceived g group src digest s
  | .bucketFull st tag => Sys2Proof.Machine.execBucketFull st tag s
  | .reductionChunk st tag chunk => Sys2Proof.Machine.execReductionChunk st tag chunk s
  | .contribReceived g src m => Sys2Proof.Machine.execContribReceived g src m s
  | .resultReceived g src m => Sys2Proof.Machine.execResultReceived g src m s
  | .bucketRelease st tag => Sys2Proof.Machine.execBucketRelease st tag s
  | .bucketAbortReceived g group tag => Sys2Proof.Machine.execBucketAbortReceived g group tag s
  | .reductionTimeout st => Sys2Proof.Machine.execReductionTimeout st s
  | .copySendStart st copy => Sys2Proof.Machine.execCopySendStart st copy s
  | .peerWriteReceived g src va round pos data => Sys2Proof.Machine.execPeerWriteReceived g src va round pos data s
  | .peerDoneReceived g round pos bytes => Sys2Proof.Machine.execPeerDoneReceived g round pos bytes s
  | .peerAbortReceived g round pos => Sys2Proof.Machine.execPeerAbortReceived g round pos s
  | .overvoltageCutoff vin => Sys2Proof.Machine.execOvervoltageCutoff vin s
  | .overvoltageRelease vin => Sys2Proof.Machine.execOvervoltageRelease vin s
  | .overvoltageWarning vin => Sys2Proof.Machine.execOvervoltageWarning vin s
  | .underrangeWarning vin => Sys2Proof.Machine.execUnderrangeWarning vin s
  | .braceEntry vin => Sys2Proof.Machine.execBraceEntry vin s
  | .vinRecovery vin => Sys2Proof.Machine.execVinRecovery vin s
  | .resumeCountExpiry => Sys2Proof.Machine.execResumeCountExpiry s
  | .supplyReset vin => Sys2Proof.Machine.execSupplyReset vin s
  | .powerOnStart vin => Sys2Proof.Machine.execPowerOnStart vin s
  | .enClose => Sys2Proof.Machine.execEnClose s
  | .thermalBraceEntry cause reading => Sys2Proof.Machine.execThermalBraceEntry cause reading s
  | .thermalTrip die celsius => Sys2Proof.Machine.execThermalTrip die celsius s
  | .domainReturnDone dom => Sys2Proof.Machine.execDomainReturnDone dom s
  | .autoIdleRetention dom => Sys2Proof.Machine.execAutoIdleRetention dom s
  | .smbusWakeMatch addr => Sys2Proof.Machine.execSmbusWakeMatch addr s
  | .mcWakeRequest => Sys2Proof.Machine.execMcWakeRequest s
  | .wakeTimerExpiry => Sys2Proof.Machine.execWakeTimerExpiry s
  | .bootStart report => Sys2Proof.Machine.execBootStart report s
  | .bootStepFail step reason detail => Sys2Proof.Machine.execBootStepFail step reason detail s
  | .recoveryGo v => Sys2Proof.Machine.execRecoveryGo v s
  | .recoveryImageChecked => Sys2Proof.Machine.execRecoveryImageChecked s
  | .bootRetryWrite v => Sys2Proof.Machine.execBootRetryWrite v s
  | .bootOptWrite v => Sys2Proof.Machine.execBootOptWrite v s
  | .repairScan finds => Sys2Proof.Machine.execRepairScan finds s
  | .hatboxIntervalTick ein => Sys2Proof.Machine.execHatboxIntervalTick ein s
  | .hatboxActivityFrame frame => Sys2Proof.Machine.execHatboxActivityFrame frame s
  | .hatboxStatus => Sys2Proof.Machine.execHatboxStatus s
  | .hatboxRead first count => Sys2Proof.Machine.execHatboxRead first count s
  | .hatboxSign first last nonce => Sys2Proof.Machine.execHatboxSign first last nonce s
  | .hatboxRelease last => Sys2Proof.Machine.execHatboxRelease last s
  | .hatboxGetcert index => Sys2Proof.Machine.execHatboxGetcert index s
  | .hatboxUpdate image => Sys2Proof.Machine.execHatboxUpdate image s
  | .hatboxPowerloss energy => Sys2Proof.Machine.execHatboxPowerloss energy s
  | .hatboxSealbreak ms => Sys2Proof.Machine.execHatboxSealbreak ms s
  | .hatboxSelfcheckFail => Sys2Proof.Machine.execHatboxSelfcheckFail s
  | .strkCfgWrite v => Sys2Proof.Machine.execStrkCfgWrite v s
  | .seatCfgWrite u which v => Sys2Proof.Machine.execSeatCfgWrite u which v s
  | .embRcpartWrite v => Sys2Proof.Machine.execEmbRcpartWrite v s
  | .telLogrpWrite v => Sys2Proof.Machine.execTelLogrpWrite v s
  | .rcRegisterRead a => Sys2Proof.Machine.execRcRegisterRead a s
  | .registerWrite a v => Sys2Proof.Machine.execRegisterWrite a v s
  | .enOpen => Sys2Proof.Machine.execEnOpen s
  | .flowQualified flow => Sys2Proof.Machine.execFlowQualified flow s
  | .portTrained port mid peerPort lanes => Sys2Proof.Machine.execPortTrained port mid peerPort lanes s
  | .loadaccLands u => Sys2Proof.Machine.execLoadaccLands u s
  | .msixUnmask fn vec => Sys2Proof.Machine.execMsixUnmask fn vec s
  | .fnRingcfgWrite fn v => Sys2Proof.Machine.execFnRingcfgWrite fn v s
  | .numvfsWrite n => Sys2Proof.Machine.execNumvfsWrite n s

end Sys2Proof.Machine
end

