-- ==== Sys2Proof/Safety.lean ====
section
/-! DEFINITION. What counts as a good state and a safe step, in the terms the statements use. -/
namespace Sys2Proof.Machine

/-- A good state: the memory stands in its canonical form (log 2), no store of a finished command is left over
(log 5), and every command waiting names units that the module has. -/
def GoodState (s : State) : Prop :=
  Memory.wf s.dev.mem = true ∧ s.dev.wlog = [] ∧ s.pending.all Sys2Proof.Instr.wf = true

/-- The word of a seat command or lane-core instruction spells another defined command: such a row names a word that is not its own. -/
def spellsOther : Sys2Proof.Instr → Bool
  | .seatNop _ w => decide (cOp w ≠ 0) && decide (cOp w ≤ 9)
  | .seatMma _ w => decide (cOp w ≠ 1) && decide (cOp w ≤ 9)
  | .seatLoadacc _ w => decide (cOp w ≠ 2) && decide (cOp w ≤ 9)
  | .seatDrain _ w => decide (cOp w ≠ 3) && decide (cOp w ≤ 9)
  | .seatSetidx _ w => decide (cOp w ≠ 4) && decide (cOp w ≤ 9)
  | .seatSwaph _ w => decide (cOp w ≠ 5) && decide (cOp w ≤ 9)
  | .seatLane _ w => decide (cOp w ≠ 6) && decide (cOp w ≤ 9)
  | .seatFence _ w => decide (cOp w ≠ 7) && decide (cOp w ≤ 9)
  | .seatYield _ w => decide (cOp w ≠ 8) && decide (cOp w ≤ 9)
  | .seatEnd _ w => decide (cOp w ≠ 9) && decide (cOp w ≤ 9)
  | .laneIop _ w => decide (lOp w ≠ 0x01) && lOpDefined (lOp w)
  | .laneAddi _ w => decide (lOp w ≠ 0x02) && lOpDefined (lOp w)
  | .laneAndi _ w => decide (lOp w ≠ 0x03) && lOpDefined (lOp w)
  | .laneOri _ w => decide (lOp w ≠ 0x04) && lOpDefined (lOp w)
  | .laneXori _ w => decide (lOp w ≠ 0x05) && lOpDefined (lOp w)
  | .laneShi _ w => decide (lOp w ≠ 0x06) && lOpDefined (lOp w)
  | .laneLui _ w => decide (lOp w ≠ 0x07) && lOpDefined (lOp w)
  | .laneFop _ w => decide (lOp w ≠ 0x08) && lOpDefined (lOp w)
  | .laneFma _ w => decide (lOp w ≠ 0x09) && lOpDefined (lOp w)
  | .laneFcvt _ w => decide (lOp w ≠ 0x0A) && lOpDefined (lOp w)
  | .laneCvt _ w => decide (lOp w ≠ 0x0B) && lOpDefined (lOp w)
  | .laneXfn _ w => decide (lOp w ≠ 0x0C) && lOpDefined (lOp w)
  | .laneTld _ w => decide (lOp w ≠ 0x10) && lOpDefined (lOp w)
  | .laneTst _ w => decide (lOp w ≠ 0x11) && lOpDefined (lOp w)
  | .laneWld _ w => decide (lOp w ≠ 0x12) && lOpDefined (lOp w)
  | .laneBr _ w => decide (lOp w ≠ 0x18) && lOpDefined (lOp w)
  | .laneJal _ w => decide (lOp w ≠ 0x19) && lOpDefined (lOp w)
  | .laneJalr _ w => decide (lOp w ≠ 0x1A) && lOpDefined (lOp w)
  | .laneCsrr _ w => decide (lOp w ≠ 0x1C) && lOpDefined (lOp w)
  | .laneCsrw _ w => decide (lOp w ≠ 0x1D) && lOpDefined (lOp w)
  | .lanePerm _ w => decide (lOp w ≠ 0x20) && lOpDefined (lOp w)
  | .laneRed _ w => decide (lOp w ≠ 0x21) && lOpDefined (lOp w)
  | .laneBar _ w => decide (lOp w ≠ 0x22) && lOpDefined (lOp w)
  | .laneHalt _ w => decide (lOp w ≠ 0x3F) && lOpDefined (lOp w)
  | _ => false

/-- A context issues the word: its seat and context run a step that may run, its queue is empty or has the word at its head,
and the seat's gate lets it go (R34, R79, R88, R92). -/
def Issues (d : Dev) (c : CtxAt) (w : SeatWord) : Prop :=
  c.wf = true ∧ (seatOf d (ctxIdx c)).fenced = false ∧ (seatOf d (ctxIdx c)).wiping = false ∧
  (ctxOf (seatOf d (ctxIdx c)) c.ctx.toNat).failed = false ∧
  (∃ k, (ctxOf (seatOf d (ctxIdx c)) c.ctx.toNat).step = some k ∧ canRun d k = true) ∧
  ((ctxOf (seatOf d (ctxIdx c)) c.ctx.toNat).queue = [] ∨ (ctxOf (seatOf d (ctxIdx c)) c.ctx.toNat).queue.head? = some w) ∧
  gate (progAt d (ctxIdx c) c.ctx.toNat) (seatOf d (ctxIdx c)) c.ctx.toNat w = .go

/-- The context as it stands in a state. -/
def ctxAt (s : State) (c : CtxAt) : Ctx := ctxOf (seatOf s.dev (ctxIdx c)) c.ctx.toNat

/-- The word has left its queue, and the context stands as `x` otherwise: the program position has risen by one, the waits are over,
and of the commands that stood in the queue and behind it only this one is gone. -/
def LeftQueue (s t : State) (c : CtxAt) (w : SeatWord) (x : Ctx) : Prop :=
  ctxAt t c = { x with queue := (ctxAt t c).queue, todo := (ctxAt t c).todo, pos := (ctxAt s c).pos + 1, waitTok := false
                       waitCred := false, waitSb := false } ∧
  (ctxAt t c).queue ++ (ctxAt t c).todo =
    (if (ctxAt s c).queue.head? = some w then (ctxAt s c).queue.tail else (ctxAt s c).queue) ++ (ctxAt s c).todo

/-- What the issue of a seat command leaves: memory, the other seats, the other contexts of the seat, every register but the seat's
count of switches, and everything of the module that is no seat, no register and no item of a step. -/
def IssueFrame (s t : State) (c : CtxAt) : Prop :=
  t.dev = { s.dev with seats := t.dev.seats, regs := t.dev.regs, steps := t.dev.steps, wlog := [] } ∧
  (∀ v, v ≠ ctxIdx c → seatOf t.dev v = seatOf s.dev v) ∧
  (∀ k, k ≠ c.ctx.toNat → ctxOf (seatOf t.dev (ctxIdx c)) k = ctxOf (seatOf s.dev (ctxIdx c)) k) ∧
  ∀ off, off ≠ seatPage (ctxIdx c) + rSEAT_SWCNT → reg t.dev off = reg s.dev off

/-- The seat of a context as it stands in a state. -/
def seatAt (s : State) (c : CtxAt) : Seat := seatOf s.dev (ctxIdx c)

/-- A lane core executes the word: its kernel runs, it waits at no collective, it fetches inside the kernel store, and the word is
legal (R107, R112). -/
def Executes (d : Dev) (l : LaneAt) (w : LaneWord) : Prop :=
  l.wf = true ∧ laneReady d (laneIdx l) l.lane.toNat = true ∧ (laneOf (seatOf d (laneIdx l)) l.lane.toNat).pc < 65536 ∧
  (laneOf (seatOf d (laneIdx l)) l.lane.toNat).pc % 4 = 0 ∧ lLegal w = true

/-- The lane core as it stands in a state. -/
def laneAt (s : State) (l : LaneAt) : LaneCore := laneOf (seatOf s.dev (laneIdx l)) l.lane.toNat

/-- What every instruction of a lane core leaves: the other lane cores, the other seats, every register but the count of instructions
retired, which rises by one, and everything of the module that is no seat, register, step, byte of memory or free value. -/
def LaneFrame (s t : State) (l : LaneAt) : Prop :=
  t.dev = { s.dev with seats := t.dev.seats, regs := t.dev.regs, mem := t.dev.mem, steps := t.dev.steps, free := t.dev.free, wlog := [] } ∧
  (∀ v, v ≠ laneIdx l → seatOf t.dev v = seatOf s.dev v) ∧
  (∀ n, n ≠ l.lane.toNat → laneOf (seatOf t.dev (laneIdx l)) n = laneOf (seatOf s.dev (laneIdx l)) n) ∧
  (∀ off, off ≠ seatPage (laneIdx l) + rLANE_INSTR → reg t.dev off = reg s.dev off) ∧
  reg t.dev (seatPage (laneIdx l) + rLANE_INSTR) = (reg s.dev (seatPage (laneIdx l) + rLANE_INSTR) + 1) % 2 ^ 64

/-- The seat keeps everything but its lane cores. -/
def SeatKept (s t : State) (l : LaneAt) : Prop :=
  seatOf t.dev (laneIdx l) = { seatOf s.dev (laneIdx l) with lanes := (seatOf t.dev (laneIdx l)).lanes }

/-- Nothing but the lane core changes: memory, steps, free values and the rest of the seat stay. -/
def LaneOnly (s t : State) (l : LaneAt) : Prop :=
  LaneFrame s t l ∧ t.dev.mem = s.dev.mem ∧ t.dev.steps = s.dev.steps ∧ t.dev.free = s.dev.free ∧ SeatKept s t l

/-- A general register as a word. -/
def gVal (s : State) (l : LaneAt) (i : Nat) : W32 := BitVec.ofNat 32 (gReg (laneAt s l) i)

/-- The lane core moves to the next instruction with `v` in `rd`, or with nothing written where `rd` is g0; `x` is the rest of it. -/
def LaneWrites (s t : State) (l : LaneAt) (rd : Nat) (v : W32) (x : LaneCore) : Prop :=
  laneAt t l = { x with g := (laneAt t l).g, pc := (laneAt s l).pc + 4 } ∧
  gVal t l rd = (if rd = 0 then 0 else v) ∧ ∀ i, i ≠ rd → gVal t l i = gVal s l i

/-- IOP as R112 lists it, on words. -/
def iopSpec (f : Nat) (a b c : W32) : W32 :=
  match f with
  | 0 => a + b
  | 1 => a - b
  | 2 => a * b
  | 3 => (a.signExtend 64 * b.signExtend 64).extractLsb' 32 32
  | 4 => (a.zeroExtend 64 * b.zeroExtend 64).extractLsb' 32 32
  | 5 => a &&& b
  | 6 => a ||| b
  | 7 => a ^^^ b
  | 8 => a <<< (b.toNat % 32)
  | 9 => a >>> (b.toNat % 32)
  | 10 => a.sshiftRight (b.toNat % 32)
  | 11 => if a.slt b then 1 else 0
  | 12 => if a.ult b then 1 else 0
  | 13 => if a.slt b then a else b
  | 14 => if a.slt b then b else a
  | 15 => if a.ult b then a else b
  | 16 => if a.ult b then b else a
  | _ => if c = 0 then b else a

/-- The conditions of BR as R112 lists them, on words. -/
def brSpec (cond : Nat) (a b : W32) : Bool :=
  match cond with
  | 0 => a == b
  | 1 => a != b
  | 2 => a.slt b
  | 3 => !a.slt b
  | 4 => a.ult b
  | _ => !a.ult b

/-- The outcome of a command is a next state of which `p` holds. -/
def Completes (o : Host.Outcome State Fault Refusal) (p : State → Prop) : Prop :=
  ∃ t, o = .next t ∧ p t

/-- The device part of a next state: what a command answers when it runs. -/
def after (f : Dev → Dev) (s : State) : Dev :=
  let d := f { s.dev with wlog := [] }
  { d with mem := d.wlog.foldl applyWr s.dev.mem, wlog := [] }

/-! ### Reports and replies -/

/-- Registers in which replies and reports are counted and failures of commands recorded. -/
def reportRegs : List Nat := [rHIF_DMAWR, rHIF_CMDCNT, rHIF_ERR, rHIF_ERRINFO, rIDN_ERR, rIDN_ERRINFO, rTEL_CKERR]

/-- The module stands as `d` but for what reports and replies touch: host memory, free values drawn, the event log and the queues in
module storage, the functions' vectors, credits and commands in execution, accounted host traffic, the counts of `reportRegs`. -/
def Reports (d : Dev) (t : State) : Prop :=
  t.dev = { d with mem := t.dev.mem, free := t.dev.free, regs := t.dev.regs, gaunts := t.dev.gaunts, queues := t.dev.queues
                   evlog := t.dev.evlog, funcs := t.dev.funcs, wlog := [] } ∧
  (∀ a, a < hostBase → peek t.dev a 1 = peek d a 1) ∧
  (∀ off, off ∉ reportRegs → reg t.dev off = reg d off) ∧
  (∀ g, gaunt t.dev g = { gaunt d g with acct := (gaunt t.dev g).acct }) ∧
  (∀ f, func t.dev f = { func d f with
    msix := (func t.dev f).msix, pba := (func t.dev f).pba, unsig := (func t.dev f).unsig, holdRun := (func t.dev f).holdRun
    err := (func t.dev f).err, cqHeld := (func t.dev f).cqHeld, reply := (func t.dev f).reply, cur := (func t.dev f).cur })

/-- The repair map holds a PENDING entry of a unit (R461, R464). -/
def PendingRepair (d : Dev) (kind unit : Nat) : Prop :=
  ∃ r, r ∈ d.pst.repairs ∧ r.kind.toNat = kind ∧ r.state = 1 ∧ r.unit.toNat = unit

/-- The latest reply of the command's function is this one (R371), and no command of that ring is in execution. -/
def Replied (s t : State) (h : HostCmd) (op status code r0 r1 : Nat) : Prop :=
  (func t.dev h.fn.toNat).reply = some
    { tag := h.tag, status := BitVec.ofNat 8 status, reason := BitVec.ofNat 8 code, opcode := BitVec.ofNat 8 op
      res0 := BitVec.ofNat 64 r0, res1 := BitVec.ofNat 64 r1, stroke := s.dev.strk.count } ∧
  (func t.dev h.fn.toNat).cur = none

/-- Opcode, bits that the parameters may carry, reason for a reserved bit, and packet of a row that is a packet of a ring (R8, R377). -/
def hostRow : Sys2Proof.Instr → Option (Nat × List Nat × Nat × HostCmd)
  | .cmdNop h => some (0, [pAny], 0x58, h)
  | .cmdOpen h => some (1, [pAny, pAny], 0x58, h)
  | .cmdClose h => some (2, [], 0x58, h)
  | .cmdIdent h => some (3, [pAny], 0x58, h)
  | .cmdRead h => some (8, [pAny, pAny, pAny], 0x58, h)
  | .cmdWrite h => some (9, [pAny, pAny, pAny], 0x58, h)
  | .cmdFill h => some (10, [pAny, pAny, pAny], 0x58, h)
  | .cmdMap h => some (0x10, [pAny, pAny, 3], 0x58, h)
  | .cmdUnmap h => some (0x11, [pAny], 0x58, h)
  | .cmdProtect h => some (0x12, [pAny, 0, 3], 0x58, h)
  | .cmdExtlist h => some (0x13, [pAny], 0x58, h)
  | .cmdAssign h => some (0x18, [0xF, 0x07FF001B, pAny], 0x58, h)
  | .cmdReclaim h => some (0x19, [0xF, 0x07FF001B, pAny], 0x58, h)
  | .cmdGcreate h => some (0x20, [pAny, pAny, pAny, pAny, pAny, pAny, pAny], 0x58, h)
  | .cmdGdestroy h => some (0x21, [0xF], 0x58, h)
  | .cmdGset h => some (0x22, [pAny, pAny, pAny, pAny, pAny, pAny, pAny], 0x58, h)
  | .cmdPreempt h | .cmdPreemptForce h => some (0x23, [0xF, pAny, 1], 0x58, h)
  | .cmdSubmit h => some (0x28, [pAny, pAny, pAny, 0xF], 0x58, h)
  | .cmdCancel h => some (0x29, [pAny, 2 ^ 32 - 1], 0x58, h)
  | .cmdCheckpointDrain h | .cmdCheckpointSuspend h => some (0x2A, [1, pAny], 0x58, h)
  | .cmdRestore h => some (0x2B, [0, pAny], 0x58, h)
  | .cmdStepstat h => some (0x2C, [pAny], 0x58, h)
  | .cmdQcreate h => some (0x30, [0x7FF, pAny], 0x51, h)
  | .cmdQdestroy h => some (0x31, [pAny], 0x58, h)
  | .cmdQstat h => some (0x32, [pAny, pAny], 0x58, h)
  | .cmdKvpoolAdd h | .cmdKvpoolRemove h => some (0x38, [1, pAny], 0x58, h)
  | .cmdKvcreate h => some (0x39, [2 ^ 64 - 2 ^ 16, pAny, pAny], 0x58, h)
  | .cmdKvdestroy h => some (0x3A, [pAny], 0x58, h)
  | .cmdKvroot h => some (0x3B, [pAny, pAny], 0x58, h)
  | .cmdKveditTruncate h | .cmdKveditPin h | .cmdKveditUnpin h | .cmdKveditBringBack h => some (0x3C, [pAny, 3, pAny], 0x58, h)
  | .cmdFabcfg h => some (0x40, [pAny, pAny], 0x58, h)
  | .cmdFtagbind h => some (0x41, [0xF, 0xFFFF], 0x58, h)
  | .cmdPeerset h => some (0x42, [pAny, pAny, pAny], 0x58, h)
  | .cmdRgcreate h => some (0x43, [7, pAny, pAny, pAny, pAny], 0x58, h)
  | .cmdRgdestroy h => some (0x44, [7], 0x58, h)
  | .cmdTokload h => some (0x48, [3, pAny, pAny], 0x58, h)
  | .cmdVsopen h => some (0x49, [pAny], 0x58, h)
  | .cmdVsclose h => some (0x4A, [pAny], 0x58, h)
  | .cmdAcct h => some (0x50, if h.fn = 0 then [pAny, pAny, 0xF] else [pAny, pAny], 0x58, h)
  | .cmdTelcfgConfigure h | .cmdTelcfgReadEvents h | .cmdTelcfgReadTelemetry h => some (0x51, telcfgMasks h, 0x58, h)
  | .cmdPwrset h => some (0x58, [pAny, 2 ^ 51 - 1, 3, 7], 0x58, h)
  | .cmdFwstageCheck h | .cmdFwstageWrite h => some (0x59, [pAny, pAny, 1], 0x58, h)
  | .cmdSecmsg h => some (0x60, [pAny, pAny, pAny], 0x58, h)
  | .cmdLifecycle h => some (0x61, [pAny, pAny, pAny], 0x58, h)
  | _ => none

/-- The command of a row starts (R373, R442) and passes the checks that every command shares (R372, R377, R380, R382, R420, R8). -/
def Accepted (s : State) (i : Sys2Proof.Instr) : Prop :=
  ∃ op masks rsv h, hostRow i = some (op, masks, rsv, h) ∧ mayStart s.dev op h = true ∧ s.dev.pwait.active = false ∧
    cmdGate s.dev op masks rsv h = none

/-- The command of a row starts, and a shared check refuses it with a reason. -/
def Refused (s : State) (i : Sys2Proof.Instr) (op : Nat) (h : HostCmd) (code : Nat) : Prop :=
  ∃ masks rsv, hostRow i = some (op, masks, rsv, h) ∧ mayStart s.dev op h = true ∧ s.dev.pwait.active = false ∧
    cmdGate s.dev op masks rsv h = some code

/-- The command waits, with its ring, for a boundary (R374, R376); the module stands as `d` else. -/
def WaitsBoundary (d : Dev) (t : State) (op g key : Nat) (h : HostCmd) : Prop :=
  t.dev = { startCmd d op h with
    bnds := d.bnds ++ [{ op := BitVec.ofNat 8 op, cmd := h, g := BitVec.ofNat 4 g, key := key }], wlog := [] }

/-- A KV command is refused with a status of its chapter, which KVM_ERR records (R233). -/
def KvRefused (s t : State) (h : HostCmd) (op code tab : Nat) : Prop :=
  Replied s t h op 1 code 0 0 ∧
    Reports (recordErr s.dev rKVM_ERR rKVM_ERRINFO (code - 0x28) (h.fn.toNat + 16 * (tab % 1024) + code * 2 ^ 16)) t

/-- A step fails with a status, the first one kept; its event goes to the log and to its gauntlet, and the module stands as `d` else. -/
def Fails (d : Dev) (t : State) (k : Nat) (st : Step) (code : Nat) : Prop :=
  Reports { d with steps := tput d.steps k { st with failing := st.failing <|> some (BitVec.ofNat 8 code, false) } } t

/-- The record of a sample's slot (R314): flags, reason, outputs valid, sample index, lengths. -/
def sampleRecord (x : DecCtx) (flags : Nat) : Bytes :=
  leBytes 2 flags ++ leBytes 1 x.reason ++ leBytes 1 (if x.pad = true then 0 else x.outv) ++ leBytes 4 0 ++ leBytes 8 x.sample.toNat ++
    padTo 16 (if x.pad = true then [] else x.lens.flatMap fun l => leBytes 4 l.toNat)

/-- A sample's slot is final in the step of its context: its flags, reason and action (R314, R316); the context is free. -/
def SlotFinal (t : State) (c : Nat) (x : DecCtx) (flags reason action : Nat) : Prop :=
  decOf t.dev c = DecCtx.reset ∧ ∃ st r f, tfind t.dev.steps x.step = some st ∧ tfind st.ings x.desc = some r ∧ tfind r.finals x.slot = some f ∧
    f.flags = flags ∧ f.reason = reason ∧ f.action = action

/-- The module after a reset (R47): all stands as at reset but flash, OTP, the hatbox and what comes from outside; no byte of the
module's memory survives, host memory stays. -/
def ResetLeaves (s t : State) : Prop :=
  t.dev = { Dev.reset with
    opt1T := s.dev.opt1T, optPT := s.dev.optPT, mem := t.dev.mem, free := t.dev.free, pst := t.dev.pst, hat := s.dev.hat
    blocks := s.dev.blocks, regs := t.dev.regs, strk := { Strk.reset with time := s.dev.strk.time }, sup := t.dev.sup } ∧
  (∀ a, a < hostBase → peek t.dev a 1 = [0]) ∧ (∀ a, hostBase ≤ a → peek t.dev a 1 = peek s.dev a 1) ∧
  ∀ off, off ≠ rPWR_VIN → off ≠ rPWR_TJ → off ≠ rPWR_COOL → reg t.dev off = resetOf off % 2 ^ 64

/-- No register map defines the 32-bit word at this offset of a window (R12): the maps of R364 in PF BAR0, the map of R366 in a
function page. -/
def unmapped (win : Option Nat) (off : Nat) : Bool :=
  match win with
  | none =>
    if 0x100000 ≤ off ∧ off < 0x140000 then false
    else if 0x800000 ≤ off ∧ off < 0x840000 then (rowAt coxRows (off % 0x1000)).isNone
    else if 0x1000000 ≤ off ∧ off < 0x1400000 then decide (8 < off / 0x1000 % 16) || (rowAt seatRows (off % 0x1000)).isNone
    else (rowAt blockRows off).isNone
  | some _ =>
    !(decide (off < 4) || decide (8 ≤ off ∧ off < 0x58) || decide (0x100 ≤ off ∧ off < 0x10C) ||
      decide (0x1000 ≤ off ∧ off < 0x1040) || decide (0x1800 ≤ off ∧ off < 0x1808))

end Sys2Proof.Machine
end

