-- ==== Sys2Proof/Certificates/Slice0/Obligations.lean ====
section
/-! DEFINITION. The statements for the provers: each is a Prop named after what it states. -/
open Sys2Proof Sys2Proof.Machine

/-! ### The block as a whole -/

/-- A step takes the command at the front of the queue and is that command's effect over the queue's rest. -/
def Obligations.StepRunsFrontCommand : Prop :=
  ∀ (c : Instr) (s : State), step { s with pending := c :: s.pending } = exec c s

/-- With no command waiting the block idles (log 3: the model's choice). No command changes the queue of the commands behind it, and
none leaves a store over. -/
def Obligations.QueueOnlyLosesItsFront : Prop :=
  (∀ s : State, s.pending = [] → step s = .next s) ∧
  (∀ (c : Instr) (s t : State), exec c s = .next t → t.pending = s.pending ∧ t.dev.wlog = [])

/-- The state after reset is a good state. -/
def Obligations.ResetMeetsInv : Prop := GoodState State.reset

/-- Every step from a good state leads to a good state: memory canonical, no store left over, the queue well formed. -/
def Obligations.StepKeepsInv : Prop := ∀ s t : State, GoodState s → step s = .next t → GoodState t

/-- A command that names a unit the module does not have is refused, in every state (log 19's other side). Every well-formed command
whose word spells its own row answers a next state, in every state: no state stops the module's model. -/
def Obligations.CommandRunsIfWellFormed : Prop :=
  (∀ (c : Instr) (s : State), c.wf = false → exec c s = .refused .noSuchUnit) ∧
  (∀ (c : Instr) (s : State), c.wf = true → spellsOther c = false → ∃ t, exec c s = .next t)

/-! ### Seats: commands at issue -/

/-- NOP and FENCE, once their gate lets them go, complete at issue and change nothing but the context's queue. SETIDX holds its fields,
SWAPH exchanges the halves and makes the filled grant the computed one, and YIELD gives the issue port to the first ready context in
cyclic order. -/
def Obligations.SeatControlIssues : Prop :=
  (∀ (c : CtxAt) (w : SeatWord) (s : State), Issues s.dev c w →
    (cOp w = 0 → Completes (exec (.seatNop c w) s) fun t => LeftQueue s t c w (ctxAt s c) ∧ IssueFrame s t c ∧
      seatAt t c = { seatAt s c with running := c.ctx, ctxs := (seatAt t c).ctxs }) ∧
    (cOp w = 7 → Completes (exec (.seatFence c w) s) fun t => LeftQueue s t c w (ctxAt s c) ∧ IssueFrame s t c ∧
      seatAt t c = { seatAt s c with running := c.ctx, ctxs := (seatAt t c).ctxs })) ∧
  (∀ (c : CtxAt) (w : SeatWord) (s : State), Issues s.dev c w →
    (cOp w = 4 → Completes (exec (.seatSetidx c w) s) fun t =>
      LeftQueue s t c w { ctxAt s c with vrows := cF w 12 6, vcols := cF w 19 13, rstride := BitVec.ofNat 32 (cF w 63 32)
                                         base := BitVec.ofNat 64 (cF w 127 64) } ∧ IssueFrame s t c ∧
      seatAt t c = { seatAt s c with running := c.ctx, ctxs := (seatAt t c).ctxs }) ∧
    (cOp w = 5 → Completes (exec (.seatSwaph c w) s) fun t =>
      LeftQueue s t c w { ctxAt s c with half := !(ctxAt s c).half, comp := (ctxAt s c).fill, fill := none, walk := none } ∧
      IssueFrame s t c ∧ seatAt t c = { seatAt s c with running := c.ctx, ctxs := (seatAt t c).ctxs }) ∧
    (cOp w = 8 → s.dev.wlog = [] → Completes (exec (.seatYield c w) s) fun t => LeftQueue s t c w (ctxAt s c) ∧ IssueFrame s t c ∧
      seatAt t c = { seatAt s c with running := (seatAt t c).running, ctxs := (seatAt t c).ctxs } ∧
      (seatAt t c).running.toNat =
        (([(c.ctx.toNat + 1) % 4, (c.ctx.toNat + 2) % 4, (c.ctx.toNat + 3) % 4].find?
          (ctxReady (takeIssue s.dev (ctxIdx c) c.ctx.toNat w) (ctxIdx c))).getD c.ctx.toNat)))

/-- An MMA that issues enters the array behind the updates already in flight, with its k-blocks counted by its pairing (64 or 128 k
each), names its formats in the tile's status, and is no longer landed; with ACC 0 a new k-loop begins. LOADACC, DRAIN and LANE, once
their gate lets them go, start their work: a load in flight on a tile of the kind named, a drain in the epilogue queue with the
context's latest SETIDX, a kernel on the lane cores with VL 32 and LFILL 0. -/
def Obligations.SeatWorkIssues : Prop :=
  (∀ (c : CtxAt) (w : SeatWord) (s : State), Issues s.dev c w → cOp w = 1 →
    Completes (exec (.seatMma c w) s) fun t => LeftQueue s t c w (ctxAt s c) ∧ IssueFrame s t c ∧
      seatAt t c = { seatAt s c with running := c.ctx, ctxs := (seatAt t c).ctxs, tiles := (seatAt t c).tiles
                                     kloops := (seatAt t c).kloops, flights := (seatAt s c).flights ++
        [{ ctx := c.ctx, acc := BitVec.ofNat 3 (cF w 8 6), word := w, half := (ctxAt s c).half, blk := 0
           nblk := (cF w 39 24 + kblockOf (cF w 14 11) - 1) / kblockOf (cF w 14 11), load := false }] } ∧
      (∀ i, i ≠ cF w 8 6 → tileOf (seatAt t c) i = tileOf (seatAt s c) i) ∧
      (tileOf (seatAt t c) (cF w 8 6)).landed = false ∧
      (tileOf (seatAt t c) (cF w 8 6)).fmta = BitVec.ofNat 4 (cF w 14 11) ∧
      (tileOf (seatAt t c) (cF w 8 6)).fmtb = BitVec.ofNat 4 (cF w 18 15) ∧
      (tileOf (seatAt t c) (cF w 8 6)).split = BitVec.ofNat 2 (cF w 20 19) ∧
      (cF w 9 9 = 0 → (tileOf (seatAt t c) (cF w 8 6)).ovf = false ∧ (tileOf (seatAt t c) (cF w 8 6)).accnf = false ∧
        (tileOf (seatAt t c) (cF w 8 6)).shift = 0)) ∧
  (∀ (c : CtxAt) (w : SeatWord) (s : State), Issues s.dev c w →
    (cOp w = 2 → Completes (exec (.seatLoadacc c w) s) fun t => LeftQueue s t c w (ctxAt s c) ∧ IssueFrame s t c ∧
      seatAt t c = { seatAt s c with running := c.ctx, ctxs := (seatAt t c).ctxs, tiles := (seatAt t c).tiles
                                     kloops := (seatAt t c).kloops, flights := (seatAt s c).flights ++
        [{ ctx := c.ctx, acc := BitVec.ofNat 3 (cF w 8 6), word := w, half := (ctxAt s c).half, blk := 0, nblk := 1, load := true }] } ∧
      (∀ i, i ≠ cF w 8 6 → tileOf (seatAt t c) i = tileOf (seatAt s c) i) ∧
      (tileOf (seatAt t c) (cF w 8 6)).kind = BitVec.ofNat 2 (1 + cF w 9 9)) ∧
    (cOp w = 3 → Completes (exec (.seatDrain c w) s) fun t => LeftQueue s t c w (ctxAt s c) ∧ IssueFrame s t c ∧
      seatAt t c = { seatAt s c with running := c.ctx, ctxs := (seatAt t c).ctxs, drains := (seatAt s c).drains ++
        [{ ctx := c.ctx, word := w, half := if cF w 79 79 = 1 then !(ctxAt s c).half else (ctxAt s c).half
           vrows := (ctxAt s c).vrows, vcols := (ctxAt s c).vcols, rstride := (ctxAt s c).rstride, base := (ctxAt s c).base }] }) ∧
    (cOp w = 6 → Completes (exec (.seatLane c w) s) fun t => LeftQueue s t c w (ctxAt s c) ∧ IssueFrame s t c ∧
      seatAt t c = { seatAt s c with running := c.ctx, ctxs := (seatAt t c).ctxs, krun := true, kctx := c.ctx, kword := w
                                     lanes := (seatAt t c).lanes, seen := (seatAt t c).shared
                                     shared := { (seatAt s c).shared with vl := 32, lfill := 0 } }))

/-- A kernel starts with pc at its entry, g1 the lane core's number, g2 the argument and every other register zero. -/
def Obligations.KernelStartState : Prop :=
  ∀ (c : CtxAt) (w : SeatWord) (s t : State), Issues s.dev c w → cOp w = 6 → exec (.seatLane c w) s = .next t →
    ∀ n, n < 32 →
      (laneOf (seatAt t c) n).pc = cF w 95 64 ∧ gReg (laneOf (seatAt t c) n) 0 = 0 ∧ gReg (laneOf (seatAt t c) n) 1 = n ∧
      gReg (laneOf (seatAt t c) n) 2 = cF w 127 96 ∧ ∀ i, 3 ≤ i → i < 32 → gReg (laneOf (seatAt t c) n) i = 0

/-! ### Lane cores -/

/-- The integer instructions compute what R112 lists, wrapping modulo 2^32, and leave LSTAT as it was (R113); a result for g0 is discarded.
The functions of IOP are the eighteen listed, none of them a division: any other func is an illegal word. -/
def Obligations.LaneIntegerOps : Prop :=
  (∀ w : LaneWord, lOp w = 0x01 → (lLegal w = true ↔ lFunc w ≤ 17)) ∧
  ∀ (l : LaneAt) (w : LaneWord) (s : State), Executes s.dev l w →
    (lOp w = 0x01 → Completes (exec (.laneIop l w) s) fun t => LaneOnly s t l ∧
      LaneWrites s t l (lRd w) (iopSpec (lFunc w) (gVal s l (lRs1 w)) (gVal s l (lRs2 w)) (gVal s l (lRs3 w))) (laneAt s l)) ∧
    (lOp w = 0x02 → Completes (exec (.laneAddi l w) s) fun t => LaneOnly s t l ∧
      LaneWrites s t l (lRd w) (gVal s l (lRs1 w) + (BitVec.ofNat 16 (lImm w)).signExtend 32) (laneAt s l)) ∧
    (lOp w = 0x03 → Completes (exec (.laneAndi l w) s) fun t => LaneOnly s t l ∧
      LaneWrites s t l (lRd w) (gVal s l (lRs1 w) &&& BitVec.ofNat 32 (lImm w)) (laneAt s l)) ∧
    (lOp w = 0x04 → Completes (exec (.laneOri l w) s) fun t => LaneOnly s t l ∧
      LaneWrites s t l (lRd w) (gVal s l (lRs1 w) ||| BitVec.ofNat 32 (lImm w)) (laneAt s l)) ∧
    (lOp w = 0x05 → Completes (exec (.laneXori l w) s) fun t => LaneOnly s t l ∧
      LaneWrites s t l (lRd w) (gVal s l (lRs1 w) ^^^ BitVec.ofNat 32 (lImm w)) (laneAt s l)) ∧
    (lOp w = 0x06 → Completes (exec (.laneShi l w) s) fun t => LaneOnly s t l ∧
      LaneWrites s t l (lRd w) (iopSpec (8 + fld (lImm w) 6 5) (gVal s l (lRs1 w)) (BitVec.ofNat 32 (fld (lImm w) 4 0)) 0) (laneAt s l)) ∧
    (lOp w = 0x07 → Completes (exec (.laneLui l w) s) fun t => LaneOnly s t l ∧
      LaneWrites s t l (lRd w) (BitVec.ofNat 32 (lImm w) <<< 16) (laneAt s l))

/-- The float instructions write the result of their operation on the operand registers and set its sticky flags of LSTAT (the values
are those of the model's binary32 arithmetic, Machine/Float.lean; log 14, log 15). -/
def Obligations.LaneFloatOps : Prop :=
  ∀ (l : LaneAt) (w : LaneWord) (s : State), Executes s.dev l w →
    let x := laneAt s l
    let flagged (r : Nat × FFlags) : LaneCore := { x with lstat := x.lstat ||| BitVec.ofNat 6 r.2 }
    (lOp w = 0x08 → ∃ r, fop32 (lFunc w) (gReg x (lRs1 w)) (gReg x (lRs2 w)) = some r ∧
      Completes (exec (.laneFop l w) s) fun t => LaneOnly s t l ∧ LaneWrites s t l (lRd w) (BitVec.ofNat 32 r.1) (flagged r)) ∧
    (lOp w = 0x09 → ∃ r, fma32 (gReg x (lRs1 w)) (gReg x (lRs2 w)) (gReg x (lRs3 w)) ((lFunc w).testBit 0) ((lFunc w).testBit 1) = r ∧
      Completes (exec (.laneFma l w) s) fun t => LaneOnly s t l ∧ LaneWrites s t l (lRd w) (BitVec.ofNat 32 r.1) (flagged r)) ∧
    (lOp w = 0x0A → ∃ r, fcvt32 (lFunc w) (gReg x (lRs1 w)) = some r ∧
      Completes (exec (.laneFcvt l w) s) fun t => LaneOnly s t l ∧ LaneWrites s t l (lRd w) (BitVec.ofNat 32 r.1) (flagged r)) ∧
    (lOp w = 0x0C → ∃ r, xfn32 (lFunc w) (gReg x (lRs1 w)) = r ∧
      Completes (exec (.laneXfn l w) s) fun t => LaneOnly s t l ∧ LaneWrites s t l (lRd w) (BitVec.ofNat 32 r.1) (flagged r))

/-- FABS and FNEG change only the sign bit and make a NaN canonical, FMIN and FMAX answer the canonical NaN if either operand is a NaN,
and F2I and F2IT give 0 for a NaN. -/
def Obligations.LaneFloatRules : Prop :=
  ∀ (l : LaneAt) (w : LaneWord) (s : State), Executes s.dev l w → lRd w ≠ 0 →
    let a := gVal s l (lRs1 w)
    let b := gVal s l (lRs2 w)
    let nan (v : W32) : Prop := (v &&& 0x7F800000) = 0x7F800000 ∧ (v &&& 0x007FFFFF) ≠ 0
    (lOp w = 0x08 → Completes (exec (.laneFop l w) s) fun t =>
      (lFunc w = 8 → (nan a → gVal t l (lRd w) = 0x7FC00000) ∧ (¬ nan a → gVal t l (lRd w) = a &&& 0x7FFFFFFF)) ∧
      (lFunc w = 9 → (nan a → gVal t l (lRd w) = 0x7FC00000) ∧ (¬ nan a → gVal t l (lRd w) = a ^^^ 0x80000000)) ∧
      (lFunc w = 3 ∨ lFunc w = 4 → nan a ∨ nan b → gVal t l (lRd w) = 0x7FC00000)) ∧
    (lOp w = 0x0A → lFunc w = 1 ∨ lFunc w = 2 → nan a → Completes (exec (.laneFcvt l w) s) fun t => gVal t l (lRd w) = 0)

/-- CVT writes the bits of its element converted through the slot (not INT4, FP4 or INT32), with the index LIDXB + g[ri], and gathers
it in the lane core's running values of the slot when G is set. -/
def Obligations.LaneCvtConverts : Prop :=
  ∀ (l : LaneAt) (w : LaneWord) (s : State), Executes s.dev l w → lOp w = 0x0B →
    let x := laneAt s l
    let sx := seatOf s.dev (laneIdx l)
    let i := fld w.toNat 24 21
    let sl := slotOfCtx (ctxOf sx sx.kctx.toNat) i
    let y := gReg x (lRs1 w)
    let r := slotConvert s.dev (stepOfCtx s.dev (laneIdx l) sx.kctx.toNat) sl y
      ((x.lidxHi.toNat * 2 ^ 32 + x.lidxLo.toNat + gReg x (lRs2 w)) % 2 ^ 64)
      (w.toNat.testBit 25) (w.toNat.testBit 26) (w.toNat.testBit 27)
    sl.fmt ≠ 6 → sl.fmt ≠ 7 → sl.fmt ≠ 8 →
    Completes (exec (.laneCvt l w) s) fun t => LaneFrame s t l ∧ t.dev.mem = s.dev.mem ∧ t.dev.free = s.dev.free ∧ SeatKept s t l ∧
      LaneWrites s t l (lRd w) (BitVec.ofNat 32 r.1)
        (if w.toNat.testBit 28 then { x with runs := tput x.runs i (gather (tget Running.reset x.runs i) y r.2) } else x)

/-- TLD, TST and WLD, where their access is allowed and inside its storage: TLD loads the element widened, or the pair; TST stores the
low bytes of its register and leaves every other byte; WLD delivers what the window rule gives. Where TLD and TST go: the element (g[ri]
+ IMM) of the tile named, if the masks of the LANE command allow it, the access ends inside 16 KiB, and a pair starts at an even
element. -/
def Obligations.TileAccesses : Prop :=
  (∀ (l : LaneAt) (w : LaneWord) (s : State), Executes s.dev l w →
    let x := laneAt s l
    let sx := seatOf s.dev (laneIdx l)
    (lOp w = 0x10 → ∀ a n, tileAccess sx (laneIdx l) x w false = .ok (a, n) →
      Completes (exec (.laneTld l w) s) fun t => LaneOnly s t l ∧
        (n ≠ 8 → LaneWrites s t l (lRd w) (BitVec.ofNat 32 (widen (fld w.toNat 26 23) (peekN s.dev a n))) x) ∧
        (n = 8 → laneAt t l = { x with g := (laneAt t l).g, pc := x.pc + 4 } ∧
          (lRd w ≠ 0 → gVal t l (lRd w) = BitVec.ofNat 32 (peekN s.dev a 4)) ∧
          gVal t l (lRd w + 1) = BitVec.ofNat 32 (peekN s.dev (a + 4) 4) ∧
          ∀ i, i ≠ lRd w → i ≠ lRd w + 1 → gVal t l i = gVal s l i)) ∧
    (lOp w = 0x11 → ∀ a n, tileAccess sx (laneIdx l) x w true = .ok (a, n) →
      Completes (exec (.laneTst l w) s) fun t => LaneFrame s t l ∧ t.dev.steps = s.dev.steps ∧ t.dev.free = s.dev.free ∧ SeatKept s t l ∧
        laneAt t l = { x with pc := x.pc + 4 } ∧
        (∀ b, b < a ∨ a + n ≤ b → peek t.dev b 1 = peek s.dev b 1) ∧
        (n ≠ 8 → peek t.dev a n = leBytes n (gReg x (lRd w))) ∧
        (n = 8 → peek t.dev a n = leBytes 4 (gReg x (lRd w)) ++ leBytes 4 (gReg x (lRd w + 1)))) ∧
    (lOp w = 0x12 → ∀ v, windowLoad s.dev (sharedFor sx l.lane.toNat)
        (halfBase (laneIdx l) (ctxOf sx sx.kctx.toNat).half + (regionOf sx sx.kctx.toNat).1) (regionOf sx sx.kctx.toNat).2
        (gReg x (lRs1 w)) (gReg x (lRs2 w)) = .ok v →
      Completes (exec (.laneWld l w) s) fun t => LaneOnly s t l ∧ LaneWrites s t l (lRd w) (BitVec.ofNat 32 v) x)) ∧
  (∀ (sx : Seat) (u : Nat) (x : LaneCore) (w : LaneWord) (wr : Bool),
    let v := w.toNat
    let acc := v.testBit 20
    let tile := if acc then fld v 18 16 else fld v 19 16
    let idx := gReg x (lRs1 w) + fld v 31 27
    let es := if fld v 22 21 = 0 then 1 else if fld v 22 21 = 1 then 2 else 4
    let n := if fld v 22 21 = 3 then 8 else es
    ((fld v 22 21 = 3 → idx % 2 = 0) ∧ scopeOk sx acc tile wr = true ∧ idx * es + n ≤ 16384 →
      tileAccess sx u x w wr = .ok ((if acc then accBase u tile else tregBase u tile) + idx * es, n)) ∧
    (fld v 22 21 = 3 → idx % 2 = 1 → tileAccess sx u x w wr = .error 0x08) ∧
    ((fld v 22 21 = 3 → idx % 2 = 0) → scopeOk sx acc tile wr = false → tileAccess sx u x w wr = .error 0x05) ∧
    ((fld v 22 21 = 3 → idx % 2 = 0) → scopeOk sx acc tile wr = true → 16384 < idx * es + n → tileAccess sx u x w wr = .error 0x04))

/-- BR, JAL and JALR set the program counter; offsets count instructions from the branching one, and JAL and JALR link the next. -/
def Obligations.LaneControlFlow : Prop :=
  ∀ (l : LaneAt) (w : LaneWord) (s : State), Executes s.dev l w →
    let x := laneAt s l
    (lOp w = 0x18 → Completes (exec (.laneBr l w) s) fun t => LaneOnly s t l ∧ laneAt t l = { x with pc := (laneAt t l).pc } ∧
      (brSpec (fld w.toNat 18 16) (gVal s l (lRd w)) (gVal s l (lRs1 w)) = false → (laneAt t l).pc = x.pc + 4) ∧
      (brSpec (fld w.toNat 18 16) (gVal s l (lRd w)) (gVal s l (lRs1 w)) = true → (laneAt t l).pc =
        (BitVec.ofNat 32 x.pc + 4 * (BitVec.ofNat 13 (fld w.toNat 31 19)).signExtend 32).toNat)) ∧
    (lOp w = 0x19 → Completes (exec (.laneJal l w) s) fun t => LaneOnly s t l ∧
      laneAt t l = { x with g := (laneAt t l).g, pc := (laneAt t l).pc } ∧
      gVal t l (lRd w) = (if lRd w = 0 then 0 else BitVec.ofNat 32 (x.pc + 4)) ∧ (∀ i, i ≠ lRd w → gVal t l i = gVal s l i) ∧
      (laneAt t l).pc = (BitVec.ofNat 32 x.pc + 4 * (BitVec.ofNat 21 (fld w.toNat 31 11)).signExtend 32).toNat) ∧
    (lOp w = 0x1A → Completes (exec (.laneJalr l w) s) fun t => LaneOnly s t l ∧
      laneAt t l = { x with g := (laneAt t l).g, pc := (laneAt t l).pc } ∧
      gVal t l (lRd w) = (if lRd w = 0 then 0 else BitVec.ofNat 32 (x.pc + 4)) ∧ (∀ i, i ≠ lRd w → gVal t l i = gVal s l i) ∧
      (laneAt t l).pc = (gVal s l (lRs1 w) + (BitVec.ofNat 16 (lImm w)).signExtend 32).toNat)

/-- CSRR reads the special registers (CYCLE a free value, log 7); CSRW clears bits of LSTAT, sets LIDXB, and reaches the shared registers
from lane 0 only. -/
def Obligations.LaneSpecialRegisters : Prop :=
  ∀ (l : LaneAt) (w : LaneWord) (s : State), Executes s.dev l w →
    let x := laneAt s l
    let sx := seatOf s.dev (laneIdx l)
    let v := gReg x (lRs1 w)
    (lOp w = 0x1C → lImm w ≠ 5 → Completes (exec (.laneCsrr l w) s) fun t => LaneOnly s t l ∧
      LaneWrites s t l (lRd w) (BitVec.ofNat 32 (csrRead sx l.lane.toNat x (lImm w))) x) ∧
    (lOp w = 0x1C → lImm w = 5 → Completes (exec (.laneCsrr l w) s) fun t => LaneFrame s t l ∧ t.dev.mem = s.dev.mem ∧
      t.dev.steps = s.dev.steps ∧ SeatKept s t l ∧ LaneWrites s t l (lRd w) (laneAt t l).cycle { x with cycle := (laneAt t l).cycle }) ∧
    (lOp w = 0x1D → Completes (exec (.laneCsrw l w) s) fun t => LaneFrame s t l ∧ t.dev.mem = s.dev.mem ∧ t.dev.steps = s.dev.steps ∧
      t.dev.free = s.dev.free ∧
      laneAt t l = { laneCsrWrite x (lImm w) v with pc := x.pc + 4 } ∧
      seatOf t.dev (laneIdx l) = { sx with lanes := (seatOf t.dev (laneIdx l)).lanes
                                           shared := if l.lane = 0 then sharedWrite sx.shared (lImm w) v else sx.shared } ∧
      (lImm w = 2 → (laneAt t l).lstat = x.lstat &&& ~~~(BitVec.ofNat 6 v)) ∧
      (lImm w = 8 → l.lane = 0 → (seatOf t.dev (laneIdx l)).shared.vl.toNat = (if v % 64 = 0 then 1 else min (v % 64) 32)))

/-- PERM, RED and BAR wait at their collective with the program counter on it; HALT stops the lane core and merges what it gathered into
the slots of its context. A lane core that has halted short of the collective, or one that waits at a collective this one never reached,
would fail the kernel instead. When all 32 lane cores wait at a BAR, at a PERM, or at one RED, the collective proceeds: every lane core
goes on past it; BAR shows lane 0's shared registers to the others; PERM delivers to the lanes below VL what R122 says; RED writes its
256 bytes of results. The LANE command completes when all 32 lane cores have halted, with the OR of their LSTAT in the step's status;
the watchdog of a running kernel fails its context and stops every lane core. -/
def Obligations.CollectivesAndHalt : Prop :=
  (∀ (l : LaneAt) (w : LaneWord) (s : State), Executes s.dev l w →
    let x := laneAt s l
    let sx := seatOf s.dev (laneIdx l)
    let waits (o : Host.Outcome State Fault Refusal) : Prop := Completes o fun t => LaneOnly s t l ∧
      laneAt t l = { x with coll := x.coll + 1, wait := some w }
    ((∀ n, n < 32 → (laneOf sx n).halted = true → x.coll + 1 ≤ (laneOf sx n).coll) →
      (lOp w = 0x20 → waits (exec (.lanePerm l w) s)) ∧ (lOp w = 0x21 → waits (exec (.laneRed l w) s)) ∧
      (lOp w = 0x22 → waits (exec (.laneBar l w) s))) ∧
    ((∀ n, n < 32 → (laneOf sx n).wait.isSome = true → (laneOf sx n).coll ≤ x.coll) → lOp w = 0x3F →
      Completes (exec (.laneHalt l w) s) fun t => LaneFrame s t l ∧ t.dev.mem = s.dev.mem ∧ t.dev.steps = s.dev.steps ∧
        t.dev.free = s.dev.free ∧ laneAt t l = { x with halted := true, runs := [] } ∧
        seatOf t.dev (laneIdx l) = { sx with lanes := (seatOf t.dev (laneIdx l)).lanes, ctxs := (seatOf t.dev (laneIdx l)).ctxs } ∧
        (∀ k, k ≠ sx.kctx.toNat → ctxOf (seatOf t.dev (laneIdx l)) k = ctxOf sx k) ∧
        (ctxOf (seatOf t.dev (laneIdx l)) sx.kctx.toNat) = { ctxOf sx sx.kctx.toNat with slots := (x.runs.foldl
          (fun q p => tput q p.1 { tget ScaleSlot.reset q p.1 with run := mergeRun (tget ScaleSlot.reset q p.1).run p.2 })
          (ctxOf sx sx.kctx.toNat).slots) })) ∧
  (∀ (u : SeatAt) (s : State), u.wf = true →
    let sx := seatOf s.dev (seatIdx u)
    let frame (t : State) : Prop := (∀ v, v ≠ seatIdx u → seatOf t.dev v = seatOf s.dev v) ∧
      t.dev = { s.dev with seats := t.dev.seats, mem := t.dev.mem, wlog := [] }
    let past (t : State) (n : Nat) : LaneCore := laneOf (seatOf t.dev (seatIdx u)) n
    sx.krun = true → (∃ k, (ctxOf sx sx.kctx.toNat).step = some k ∧ canRun s.dev k = true) →
    ((∀ n, n < 32 → ∃ w, (laneOf sx n).wait = some w ∧ lOp w = 0x22) →
      Completes (exec (.collectiveProceed u) s) fun t => frame t ∧ t.dev.mem = s.dev.mem ∧
        seatOf t.dev (seatIdx u) = { sx with lanes := (seatOf t.dev (seatIdx u)).lanes, seen := sx.shared } ∧
        ∀ n, n < 32 → past t n = { laneOf sx n with wait := none, pc := ((laneOf sx n).pc + 4) % 2 ^ 32 }) ∧
    ((∀ n, n < 32 → ∃ w, (laneOf sx n).wait = some w ∧ lOp w = 0x20) →
      Completes (exec (.collectiveProceed u) s) fun t => frame t ∧ t.dev.mem = s.dev.mem ∧
        seatOf t.dev (seatIdx u) = { sx with lanes := (seatOf t.dev (seatIdx u)).lanes } ∧
        ∀ n w, n < 32 → (laneOf sx n).wait = some w →
          let x := laneOf sx n
          let vl := (sharedFor sx n).vl.toNat
          let i := gReg x (lRs2 w) % 32
          past t n = { x with wait := none, pc := (x.pc + 4) % 2 ^ 32, g := (past t n).g
                              lstat := if n < vl ∧ vl ≤ i then x.lstat ||| 1 else x.lstat } ∧
          (∀ j, j ≠ lRd w → gReg (past t n) j = gReg x j) ∧ (vl ≤ n → gReg (past t n) (lRd w) = gReg x (lRd w)) ∧
          (n < vl → lRd w ≠ 0 → gReg (past t n) (lRd w) =
            if i < vl then gReg (laneOf sx i) (lRs1 w) else if fld w.toNat 22 21 = 0 then 0
            else if fld w.toNat 22 21 = 1 then (sharedFor sx n).lfill.toNat else gReg x (lRd w))) ∧
    (∀ w a bs, (∀ n, n < 32 → (laneOf sx n).wait = some w) → lOp w = 0x21 → redTile s.dev (seatIdx u) sx w = .ok (a, bs) →
      Completes (exec (.collectiveProceed u) s) fun t => frame t ∧
        seatOf t.dev (seatIdx u) = { sx with lanes := (seatOf t.dev (seatIdx u)).lanes } ∧
        (∀ n, n < 32 → past t n = { laneOf sx n with wait := none, pc := ((laneOf sx n).pc + 4) % 2 ^ 32 }) ∧
        peek t.dev a 256 = bs ∧ ∀ b, b < a ∨ a + 256 ≤ b → peek t.dev b 1 = peek s.dev b 1)) ∧
  (∀ (u : SeatAt) (s : State), u.wf = true →
    let sx := seatOf s.dev (seatIdx u)
    let all := (List.range 32).foldl (fun a n => a ||| (laneOf sx n).lstat) (0 : BitVec 6)
    sx.krun = true →
    ((∀ n, n < 32 → (laneOf sx n).halted = true) → Completes (exec (.laneKernelHalt u) s) fun t =>
      seatOf t.dev (seatIdx u) = { sx with krun := false, haltStat := all } ∧
      (∀ v, v ≠ seatIdx u → seatOf t.dev v = seatOf s.dev v) ∧
      t.dev = { s.dev with seats := t.dev.seats, regs := t.dev.regs, steps := t.dev.steps, free := t.dev.free, wlog := [] } ∧
      (∀ off, off ≠ seatPage (seatIdx u) + rLANE_BUSY → off ≠ seatPage (seatIdx u) + rLANE_BANKCNT → reg t.dev off = reg s.dev off) ∧
      ∀ k st, (ctxOf sx sx.kctx.toNat).step = some k → tfind s.dev.steps k = some st →
        tfind t.dev.steps k = some { st with fl := { st.fl with lstat := st.fl.lstat ||| all } }) ∧
    (∀ k st, (ctxOf sx sx.kctx.toNat).step = some k → tfind s.dev.steps k = some st → st.st ≠ .ended → st.failing = none →
      Completes (exec (.laneWatchdog u) s) fun t =>
        seatOf t.dev (seatIdx u) = dropCtx sx sx.kctx.toNat ∧ (∀ v, v ≠ seatIdx u → seatOf t.dev v = seatOf s.dev v) ∧
        (ctxOf (seatOf t.dev (seatIdx u)) sx.kctx.toNat).failed = true ∧ (seatOf t.dev (seatIdx u)).krun = false ∧
        reg t.dev (seatPage (seatIdx u) + rSEAT_ERR) = reg s.dev (seatPage (seatIdx u) + rSEAT_ERR) ||| 2 ^ 9 ∧
        (tfind t.dev.steps k).bind (·.failing) = some (9, false)))

/-- RED's integer sum is exact and saturated once at the end; its signed maximum is one of the inputs and no input lies above it. -/
def Obligations.RedTreeIntegers : Prop :=
  ∀ (n : Nat) (xs : List Nat), 1 ≤ n → n ≤ 64 →
    sext 32 (redOne 0 1 n xs) = satI32 (((List.range n).map fun i => sext 32 (xs.getD i 0)).foldl (· + ·) 0) ∧
    (∀ i, i < n → sext 32 (xs.getD i 0) ≤ sext 32 (redOne 1 1 n xs)) ∧
    (∃ i, i < n ∧ sext 32 (redOne 1 1 n xs) = sext 32 (xs.getD i 0)) ∧
    (∀ i, i < n → sext 32 (redOne 2 1 n xs) ≤ sext 32 (xs.getD i 0)) ∧
    (∃ i, i < n ∧ sext 32 (redOne 2 1 n xs) = sext 32 (xs.getD i 0))

/-! ### Seats: what lands -/

/-- A float k-block that lands adds its products to every element of its tile, and to nothing else in memory; KBLK rises, and the flight
moves to its next block or leaves the array. An integer k-block that stays inside INT32 is added exactly; one that leaves INT32 while
SHIFT is below 2 writes nothing: its k-loop is reissued from its first command with one more halving. -/
def Obligations.ArrayBlocksLand : Prop :=
  (∀ (u : SeatAt) (s : State) (f : Flight), u.wf = true → nextFlight s.dev (seatIdx u) false = some f →
    let i := seatIdx u
    let sx := seatOf s.dev i
    let w := f.word
    let kb := kblockOf (cF w 14 11)
    let start (e : Nat) : Nat := if f.blk = 0 ∧ cF w 9 9 = 0 then 0 else peekN s.dev (accBase i f.acc.toNat + 4 * e) 4
    let val (e : Nat) : Nat × Bool :=
      floatBlock s.dev (opBase sx i f.ctx.toNat f.half (cF w 21 21 == 1) (cF w 78 64)) (cF w 14 11)
        (opBase sx i f.ctx.toNat f.half (cF w 22 22 == 1) (cF w 94 80)) (cF w 18 15) (cF w 20 19) (f.blk * kb)
        (min kb (cF w 39 24 - f.blk * kb)) (e / 64) (e % 64) (start e)
    pairing (cF w 14 11) (cF w 18 15) (cF w 20 19) ≠ some 2 →
    Completes (exec (.mmaBlockLands u) s) fun t =>
      (∀ e, e < 4096 → peek t.dev (accBase i f.acc.toNat + 4 * e) 4 = leBytes 4 (val e).1) ∧
      (∀ a, a < accBase i f.acc.toNat ∨ accBase i f.acc.toNat + 16384 ≤ a → peek t.dev a 1 = peek s.dev a 1) ∧
      (seatOf t.dev i).flights = (if f.blk + 1 < f.nblk then sx.flights.map fun g => if g = f then { g with blk := g.blk + 1 } else g
        else sx.flights.erase f) ∧
      (f.load = false → (tileOf (seatOf t.dev i) f.acc.toNat).kblk.toNat = min (2 ^ 16 - 1) ((tileOf sx f.acc.toNat).kblk.toNat + 1)) ∧
      ((tileOf (seatOf t.dev i) f.acc.toNat).accnf = true ↔
        (tileOf sx f.acc.toNat).accnf = true ∨ ∃ e, e < 4096 ∧ (val e).2 = true) ∧
      (∀ n, n ≠ f.acc.toNat → tileOf (seatOf t.dev i) n = tileOf sx n) ∧
      seatOf t.dev i = { sx with flights := (seatOf t.dev i).flights, tiles := (seatOf t.dev i).tiles } ∧
      (∀ v, v ≠ i → seatOf t.dev v = seatOf s.dev v) ∧
      (∀ off, off ≠ seatPage i + rSEAT_BUSY → reg t.dev off = reg s.dev off) ∧
      t.dev = { s.dev with seats := t.dev.seats, regs := t.dev.regs, mem := t.dev.mem, wlog := [] }) ∧
  (∀ (u : SeatAt) (s : State) (f : Flight) (l : KLoop), u.wf = true → nextFlight s.dev (seatIdx u) false = some f →
    let i := seatIdx u
    let sx := seatOf s.dev i
    let w := f.word
    let a := accBase i f.acc.toNat
    let ts := tileOf sx f.acc.toNat
    let start (e : Nat) : Nat := if f.blk = 0 ∧ cF w 9 9 = 0 then 0 else peekN s.dev (a + 4 * e) 4
    let val (e : Nat) : Int :=
      intBlock s.dev (opBase sx i f.ctx.toNat f.half (cF w 21 21 == 1) (cF w 78 64)) (cF w 14 11)
        (opBase sx i f.ctx.toNat f.half (cF w 22 22 == 1) (cF w 94 80)) (cF w 18 15) ts.shift.toNat (f.blk * kblockOf (cF w 14 11))
        (min (kblockOf (cF w 14 11)) (cF w 39 24 - f.blk * kblockOf (cF w 14 11))) (e / 64) (e % 64) (sext 32 (start e))
    pairing (cF w 14 11) (cF w 18 15) (cF w 20 19) = some 2 → tfind sx.kloops f.acc.toNat = some l → l.sat = [] →
    ((∀ e, e < 4096 → -(2 ^ 31 : Int) ≤ val e ∧ val e ≤ 2 ^ 31 - 1) → Completes (exec (.mmaBlockLands u) s) fun t =>
      (∀ e, e < 4096 → sext 32 (peekN t.dev (a + 4 * e) 4) = val e) ∧
      (∀ b, b < a ∨ a + 16384 ≤ b → peek t.dev b 1 = peek s.dev b 1) ∧
      (tileOf (seatOf t.dev i) f.acc.toNat).ovf = ts.ovf ∧ (tileOf (seatOf t.dev i) f.acc.toNat).shift = ts.shift) ∧
    ((∃ e, e < 4096 ∧ (val e < -(2 ^ 31 : Int) ∨ 2 ^ 31 - 1 < val e)) → ts.shift.toNat < 2 → Completes (exec (.mmaBlockLands u) s) fun t =>
      t.dev.mem = s.dev.mem ∧ (tileOf (seatOf t.dev i) f.acc.toNat).shift = ts.shift + 1 ∧
      (tileOf (seatOf t.dev i) f.acc.toNat).rerun = true ∧ (tileOf (seatOf t.dev i) f.acc.toNat).landed = false ∧
      ((seatOf t.dev i).flights.filter fun g => g.acc.toNat == f.acc.toNat).map (·.word) = l.cmds ∧
      reg t.dev (seatPage i + rSEAT_RERUNCNT) = min (2 ^ 32 - 1) (reg s.dev (seatPage i + rSEAT_RERUNCNT) + 1)))

/-- A LOADACC outside a rerun copies its 16 KiB into the tile; a RAW drain copies the tile to its destination; a converting drain
writes its elements in their format. The drain leaves the epilogue queue and ends the tile's k-loop; nothing else in memory changes. -/
def Obligations.LoadAndDrainMoveTiles : Prop :=
  ∀ (u : SeatAt) (s : State), u.wf = true → Memory.wf s.dev.mem = true →
    let i := seatIdx u
    let sx := seatOf s.dev i
    (∀ f, nextFlight s.dev i true = some f → (tileOf sx f.acc.toNat).shift = 0 → Completes (exec (.loadaccLands u) s) fun t =>
      peek t.dev (accBase i f.acc.toNat) 16384 =
        peek s.dev (opBase sx i f.ctx.toNat f.half (cF f.word 10 10 == 1) (cF f.word 78 64)) 16384 ∧
      (∀ a, a < accBase i f.acc.toNat ∨ accBase i f.acc.toNat + 16384 ≤ a → peek t.dev a 1 = peek s.dev a 1) ∧
      (f.nblk = 1 → (seatOf t.dev i).flights = sx.flights.erase f) ∧
      seatOf t.dev i = { sx with flights := (seatOf t.dev i).flights, tiles := (seatOf t.dev i).tiles } ∧
      (∀ v, v ≠ i → seatOf t.dev v = seatOf s.dev v) ∧
      t.dev = { s.dev with seats := t.dev.seats, mem := t.dev.mem, wlog := [] }) ∧
    (∀ q, nextDrain s.dev i = some q →
      let w := q.word
      let dst := if cF w 17 17 = 1 then tregBase i (cF w 67 64) else halfBase i q.half + (regionOf sx q.ctx.toNat).1 + cF w 78 64 * 64
      let ts := tileOf sx (cF w 8 6)
      let x := ctxOf sx q.ctx.toNat
      let p := mul32 (mul32 (slotOfCtx x (cF w 23 20)).scale.toNat (pow32 ts.shift.toNat)) (slotOfCtx x (cF w 27 24)).scale.toNat
      let sz := fmtBits (cF w 13 10) / 8
      Completes (exec (.drainEpilogue u) s) fun t =>
        (seatOf t.dev i).drains = sx.drains.erase q ∧ (seatOf t.dev i).kloops = tdel sx.kloops (cF w 8 6) ∧
        (cF w 9 9 = 1 → peek t.dev dst 16384 = peek s.dev (accBase i (cF w 8 6)) 16384) ∧
        (cF w 9 9 = 0 → ∀ e, e < 4096 → peek t.dev (dst + e * sz) sz = leBytes sz
          (drainElem s.dev (stepOfCtx s.dev i q.ctx.toNat) (slotOfCtx x (cF w 31 28)) q p ts.kind.toNat
            (peekN s.dev (accBase i (cF w 8 6) + 4 * e) 4) (e / 64) (e % 64)).2.1) ∧
        (cF w 18 18 = 1 → peek t.dev (dst + drainBytes w - 8) 8 = leBytes 8 (statWord sx (cF w 8 6))) ∧
        (∀ a, a < dst ∨ dst + drainBytes w ≤ a → peek t.dev a 1 = peek s.dev a 1) ∧
        (seatOf t.dev i).tiles = sx.tiles ∧ (seatOf t.dev i).flights = sx.flights ∧ (seatOf t.dev i).lanes = sx.lanes ∧
        (∀ v, v ≠ i → seatOf t.dev v = seatOf s.dev v) ∧
        (∀ off, off ≠ seatPage i + rSEAT_OVFCNT → reg t.dev off = reg s.dev off) ∧
        t.dev = { s.dev with seats := t.dev.seats, steps := t.dev.steps, regs := t.dev.regs, mem := t.dev.mem, wlog := [] })

/-- END drops the grant it computed: the counter no longer waits for a sound tile, and a stale one (its index re-granted since, R149)
leaves counters and memory as they were. -/
def Obligations.SeatEndReleasesGrant : Prop :=
  ∀ (c : CtxAt) (w : SeatWord) (s : State) (k : Nat) (st : Step) (gr : Grant), Issues s.dev c w → cOp w = 9 → s.dev.wlog = [] →
    (ctxAt s c).step = some k → tfind s.dev.steps k = some st → (ctxAt s c).comp = some gr →
    (stale (cntGet s.dev (ctxIdx c / 16) gr.counter) gr = true → Completes (exec (.seatEnd c w) s) fun t =>
      LeftQueue s t c w { ctxAt s c with comp := none, walk := none, slots := (ctxAt t c).slots } ∧
      t.dev.mem = s.dev.mem ∧ t.dev.coxes = s.dev.coxes ∧ t.dev.dies = s.dev.dies ∧
      ∀ v, v ≠ ctxIdx c → seatOf t.dev v = seatOf s.dev v) ∧
    (∀ d1, stale (cntGet s.dev (ctxIdx c / 16) gr.counter) gr = false →
      putResult (takeIssue s.dev (ctxIdx c) c.ctx.toNat w) k st (ctxIdx c / 16) (ctxIdx c) c.ctx.toNat gr = .ok d1 →
      Completes (exec (.seatEnd c w) s) fun t =>
        LeftQueue s t c w { ctxAt s c with comp := none, walk := none, slots := (ctxAt t c).slots } ∧
        (cntGet t.dev (ctxIdx c / 16) gr.counter).out = (cntGet s.dev (ctxIdx c / 16) gr.counter).out.filter (· != gr.index) ∧
        ∀ v, v ≠ ctxIdx c → seatOf t.dev v = seatOf s.dev v)

/-- A SEATFAULT fences its seat, fails every context with a step, sets bit 7 of SEAT_ERR, and puts the seat (and the lane core it was
traced to) on the repair map. A write of a seat configuration register takes effect where R105 allows it; where it would change a loaded
context's tiles or region, or give a unit twice, it changes nothing and sets bit 1 of SEAT_ERR. -/
def Obligations.SeatFaultAndConfig : Prop :=
  (∀ (u : SeatAt) (lane : Option LaneNo) (s : State), u.wf = true → s.dev.pst.repairs.length < 65535 →
    Completes (exec (.seatFault u lane) s) fun t =>
      (seatOf t.dev (seatIdx u)).fenced = true ∧ (∀ v, v ≠ seatIdx u → seatOf t.dev v = seatOf s.dev v) ∧
      ((seatOf s.dev (seatIdx u)).fenced = false →
        (∀ n, n < 4 → (ctxOf (seatOf s.dev (seatIdx u)) n).step.isSome = true →
          (ctxOf (seatOf t.dev (seatIdx u)) n).failed = true ∧ (ctxOf (seatOf t.dev (seatIdx u)) n).comp = none ∧
          (ctxOf (seatOf t.dev (seatIdx u)) n).queue = []) ∧
        reg t.dev (seatPage (seatIdx u) + rSEAT_ERR) = reg s.dev (seatPage (seatIdx u) + rSEAT_ERR) ||| 2 ^ 7) ∧
      (∃ r, r ∈ t.dev.pst.repairs ∧ r.kind = 1 ∧ r.state = 1 ∧ r.unit = BitVec.ofNat 64 (seatIdx u)) ∧
      (∀ l, lane = some l → ∃ r, r ∈ t.dev.pst.repairs ∧ r.kind = 2 ∧ r.state = 1 ∧ r.unit = BitVec.ofNat 64 (64 * seatIdx u + l.toNat)) ∧
      (∀ a, a < hostBase → peek t.dev a 1 = peek s.dev a 1) ∧ t.dev.xlate = s.dev.xlate ∧ t.dev.sown = s.dev.sown ∧ t.dev.lown = s.dev.lown) ∧
  (∀ (u : SeatAt) (v : W64) (s : State), u.wf = true →
    let i := seatIdx u
    let sx := seatOf s.dev i
    let f (x c : Nat) : Nat := fld x (16 * c + 15) (16 * c)
    let taken (o : Host.Outcome State Fault Refusal) (y : Seat) : Prop := Completes o fun t => seatOf t.dev i = y ∧
      (∀ n, n ≠ i → seatOf t.dev n = seatOf s.dev n) ∧ t.dev = { s.dev with seats := t.dev.seats, wlog := [] }
    let ignored (o : Host.Outcome State Fault Refusal) : Prop := Completes o fun t => t.dev = { s.dev with regs := t.dev.regs, wlog := [] } ∧
      reg t.dev (seatPage i + rSEAT_ERR) = reg s.dev (seatPage i + rSEAT_ERR) ||| 2 ^ 1 ∧
      ∀ off, off ≠ seatPage i + rSEAT_ERR → off ≠ seatPage i + rSEAT_ERRINFO → reg t.dev off = reg s.dev off
    (cfgTouches sx sx.acccfg.toNat (v.toNat % 2 ^ 32) 8 = false →
      taken (exec (.seatCfgWrite u .acc v) s) { sx with acccfg := BitVec.ofNat 32 v.toNat }) ∧
    (cfgTouches sx sx.acccfg.toNat (v.toNat % 2 ^ 32) 8 = true → ignored (exec (.seatCfgWrite u .acc v) s)) ∧
    (cfgTouches sx sx.tregcfg.toNat (v.toNat &&& 0xBBBBBBBBBBBBBBBB) 16 = false →
      taken (exec (.seatCfgWrite u .treg v) s) { sx with tregcfg := v &&& 0xBBBBBBBBBBBBBBBB }) ∧
    (cfgTouches sx sx.tregcfg.toNat (v.toNat &&& 0xBBBBBBBBBBBBBBBB) 16 = true → ignored (exec (.seatCfgWrite u .treg v) s)) ∧
    ((∀ c, c < 4 → f v.toNat c ≠ f sx.scrcfg.toNat c → (ctxOf sx c).step = none) →
      (∀ c, c < 4 → 0 < f v.toNat c / 256 → f v.toNat c % 256 + f v.toNat c / 256 ≤ 32) → regionsOverlap v.toNat = false →
      taken (exec (.seatCfgWrite u .scr v) s) { sx with scrcfg := v }) ∧
    (∀ c, c < 4 → f v.toNat c ≠ f sx.scrcfg.toNat c → (ctxOf sx c).step.isSome = true → ignored (exec (.seatCfgWrite u .scr v) s)))

/-! ### The cox -/

/-- A work counter gives a context at its grant point its next index: the index is the counter's NEXT, it is granted to nobody again
(NEXT rises past it), and the tile's commands go behind those the context holds. -/
def Obligations.WorkGrantGivesNextIndex : Prop :=
  ∀ (c : CtxAt) (s : State) (k n j : Nat) (st : Step) (d1 d2 : Dev) (ent : Bytes) (cmds : List SeatWord),
    c.wf = true → s.dev.wlog = [] → (ctxAt s c).step = some k → tfind s.dev.steps k = some st → canRun s.dev k = true →
    atGrantPoint s.dev k (ctxIdx c) c.ctx.toNat = true →
    pickCounter s.dev st (ctxIdx c / 16) (boundJs (progOf st) (seatAt s c).logical.toNat c.ctx.toNat) = .ok (d1, some (n, j)) →
    groupOf d1 st j (ctxIdx c / 16) (ctxIdx c) c.ctx.toNat = [] → (cntGet d1 (ctxIdx c / 16) n).regrant = [] →
    tilePlan d1 st j (coordsOf st (jsOf (progOf st) j) (ctxIdx c / 16) (cntGet d1 (ctxIdx c / 16) n).next) = .ok (some (ent, cmds)) →
    (∀ w, w ∈ cmds → staticCheck (seatAt s c) c.ctx.toNat w = none) →
    grantOne d1 st k (ctxIdx c) c.ctx.toNat n j = .ok d2 →
    Completes (exec (.workGrant c) s) fun t => ∃ gr, (ctxAt t c).fill = some gr ∧
      gr.index = (cntGet d1 (ctxIdx c / 16) n).next ∧ gr.counter = n ∧ gr.jobset = j ∧ gr.landed = [] ∧
      (ctxAt t c).queue ++ (ctxAt t c).todo = (ctxAt s c).queue ++ (ctxAt s c).todo ++ cmds ∧
      gr.index < (cntGet t.dev (ctxIdx c / 16) n).next ∧
      (cntGet t.dev (ctxIdx c / 16) n).out = (cntGet d1 (ctxIdx c / 16) n).out ++ [gr.index] ∧
      (∀ v, v ≠ ctxIdx c → seatOf t.dev v = seatOf s.dev v) ∧ t.dev.mem = s.dev.mem ∧ t.dev.queues = s.dev.queues ∧ t.dev.xlate = s.dev.xlate

/-- A block of an operand stream that lands for one context alone stands in its slot of the half being filled or computed, and grants
one more token of that stream; nothing else in memory changes. A job set whose counter is exhausted, with every granted tile ended, is
complete on its crew; when it is complete on every crew of the step, the step holds it as complete. A crew's halo rows: every band that
the crew fills for the descriptor shows at least the rows that have ended, from its first on, and never fewer than before; a stem row
writes its outputs, moves the slot to its next row and counts itself. -/
def Obligations.StreamsAndRowsComplete : Prop :=
  (∀ (c : CtxAt) (strm : BitVec 2) (s : State) (k n : Nat) (st : Step) (comp : Bool) (gr : Grant) (ent bs : Bytes) (d1 : Dev),
    c.wf = true → s.dev.wlog = [] → (ctxAt s c).step = some k → tfind s.dev.steps k = some st → canRun s.dev k = true →
    (seatAt s c).fenced = false → (seatAt s c).wiping = false → (ctxAt s c).failed = false →
    blockGrant (progOf st) (ctxAt s c) strm.toNat = some (comp, gr) →
    jsStream (jsOf (progOf st) gr.jobset) strm.toNat = some n → haloReady st gr.jobset (ctxIdx c / 16) [gr.i0, gr.i1, gr.i2] = true →
    sharers s.dev st (ctxIdx c) c.ctx.toNat strm.toNat gr
      ((sdCtl (sdOf (progOf st) n)).testBit 9 || (sdCtl (sdOf (progOf st) n)).testBit 10) = some [(ctxIdx c, c.ctx.toNat)] →
    plEntry s.dev st.g.toNat (progOf st) gr.jobset gr.i2 = .ok ent →
    operandBlock s.dev st.g.toNat (ctxIdx c / 16) (progOf st) (jsOf (progOf st) gr.jobset) (sdOf (progOf st) n) ent
      [gr.i0, gr.i1, gr.i2] (tget 0 gr.landed strm.toNat) = .ok (bs, d1) →
    let a := halfBase (ctxIdx c) (if comp then (ctxAt s c).half else !(ctxAt s c).half) + (regionOf (seatAt s c) c.ctx.toNat).1 +
      sdSoff (sdOf (progOf st) n) + tget 0 gr.landed strm.toNat * sdBlk (sdOf (progOf st) n)
    Completes (exec (.streamBlockLanded c strm) s) fun t =>
      peek t.dev a bs.length = bs ∧ (∀ b, b < a ∨ a + bs.length ≤ b → peek t.dev b 1 = peek s.dev b 1) ∧
      (∃ gr', (if comp then (ctxAt t c).comp else (ctxAt t c).fill) = some gr' ∧ gr' = { gr with landed := gr'.landed } ∧
        tget 0 gr'.landed strm.toNat = tget 0 gr.landed strm.toNat + 1 ∧
        ∀ i, i ≠ strm.toNat → tget 0 gr'.landed i = tget 0 gr.landed i) ∧
      (∀ v, v ≠ ctxIdx c → seatOf t.dev v = seatOf s.dev v) ∧ t.dev.steps = s.dev.steps ∧ t.dev.xlate = s.dev.xlate) ∧
  (∀ (crew : CrewNo) (counter : BitVec 6) (s : State) (k : Nat) (st : Step) (d1 : Dev), s.dev.wlog = [] →
    let cn := cntGet s.dev crew.toNat counter.toNat
    slotStep s.dev crew.toNat cn.slot.toNat = some k → tfind s.dev.steps k = some st → cn.active = true → cn.done = false →
    canRun s.dev k = true → barrierOpen s.dev (progOf st) crew.toNat cn.jobset = true → jsWaits st cn.jobset = false →
    passSkipped s.dev st crew.toNat counter.toNat = .ok d1 →
    (cntGet d1 crew.toNat counter.toNat).fin ≤ (cntGet d1 crew.toNat counter.toNat).next →
    (cntGet d1 crew.toNat counter.toNat).regrant = [] → (cntGet d1 crew.toNat counter.toNat).out = [] →
    Completes (exec (.jobsetComplete crew counter) s) fun t =>
      (cntGet t.dev crew.toNat counter.toNat).done = true ∧ t.dev.mem = s.dev.mem ∧ t.dev.seats = s.dev.seats ∧
      t.dev.gaunts = s.dev.gaunts ∧ t.dev.queues = s.dev.queues ∧
      (cntOfJs (coxOf s.dev crew.toNat) (pSlot (progOf st)) cn.jobset = some counter.toNat →
        (∀ z, z ∈ st.crews → z ≠ crew.toNat → ∃ m, cntOfJs (coxOf s.dev z) (pSlot (progOf st)) cn.jobset = some m ∧
          (cntGet s.dev z m).done = true) →
        ∃ st', tfind t.dev.steps k = some st' ∧ cn.jobset ∈ st'.jsDone)) ∧
  ((∀ (crew : CrewNo) (conv : BitVec 4) (s : State) (k : Nat) (st : Step), tfind s.dev.steps k = some st →
    crew.toNat ∈ st.crews → canRun s.dev k = true → Completes (exec (.haloRowPublish crew conv) s) fun t =>
      t.dev = { s.dev with steps := t.dev.steps, wlog := [] } ∧
      ∃ st', tfind t.dev.steps k = some st' ∧ st' = { st with bands := st'.bands } ∧ st'.bands.length = st.bands.length ∧
        ∀ (i : Nat) (b b' : Band), st.bands[i]? = some b → st'.bands[i]? = some b' → b' = { b with avail := b'.avail } ∧ b.avail ≤ b'.avail ∧
          (b.conv = conv.toNat → b.prod = crew.toNat →
            readyRows (rowDone s.dev st b.prod (leAt ((progOf st).convs.getD conv.toNat []) 0 1)) b.first b.len ≤ b'.avail)) ∧
  (∀ (slot : BitVec 2) (s : State) (k i cur : Nat) (st : Step) (src : Nat × Nat × Nat) (lines : List (List Nat)) (r : Running) (d1 d2 : Dev),
    s.dev.wlog = [] → tfind s.dev.stems slot.toNat = some (k, i, cur, false, false) → tfind s.dev.steps k = some st → canRun s.dev k = true →
    let b := stemDesc (progOf st) i
    cur < smRows b →
    (stemReady st i cur = false → Completes (exec (.stemRow slot) s) fun t => t.dev = inc32 s.dev rSTEM_WAITCNT 1) ∧
    (stemReady st i cur = true → stemSource st i (cur / leAt b 0x34 2) = some src →
      stemLines st.g.toNat b src (cur % leAt b 0x34 2) (List.range (leAt b 0x2C 2 * (smFilter b).1)) s.dev = .ok (lines, d1) →
      stemChans st.g.toNat st b (recSlot (progOf st) (w64At b 0x20) (fld (smCtl b) 9 6)) lines (cur / leAt b 0x34 2) (cur % leAt b 0x34 2)
        (List.range (leAt b 0x2E 2)) Running.reset d1 = .ok (r, d2) →
      Completes (exec (.stemRow slot) s) fun t => tfind t.dev.stems slot.toNat = some (k, i, cur + 1, false, false) ∧
        reg t.dev rSTEM_ROWCNT = (reg s.dev rSTEM_ROWCNT + 1) % 2 ^ 64 ∧ t.dev.seats = s.dev.seats ∧ t.dev.coxes = s.dev.coxes ∧
        t.dev.xlate = s.dev.xlate ∧ (w64At b 0x20 = 0 → t.dev.mem = d2.mem))))

/-! ### Embedding and dispatch engines -/

/-- An embedding job starts once PJS is complete and every earlier job has landed; a work unit moves its cursor by its 64 bags, 4,096
positions or 64 rows, and the job has landed with its last. -/
def Obligations.EmbeddingJobsAdvance : Prop :=
  ∀ (n : StepName) (job : BitVec 3) (s : State) (k : Nat) (st : Step) (b : Bytes), liveStep s.dev n = some (k, st) →
    (progOf st).embs[job.toNat]? = some b →
    (tfind st.embs job.toNat = none → (leAt b 6 1 = 0xFF ∨ leAt b 6 1 ∈ st.jsDone) →
      (∀ j, j < job.toNat → ∃ e, tfind st.embs j = some e ∧ e.landed = true) → Completes (exec (.embJobStart n job) s) fun t =>
        t.dev = { s.dev with steps := t.dev.steps, wlog := [] } ∧ tfind t.dev.steps k = some { st with embs := (tput st.embs job.toNat
          { started := true, cursor := 0, grouping := leAt b 0 1 == 1, rows := [], landed := false }) } ∧
        ∀ j, j ≠ k → tfind t.dev.steps j = tfind s.dev.steps j) ∧
    (∀ (e : EmbJob) (o : Bytes) (r : Running) (d1 : Dev), tfind st.embs job.toNat = some e → e.landed = false → leAt b 0 1 = 0 →
      s.dev.wlog = [] →
      let d0 := account (freeCycles s.dev).2 st.g.toNat fun x => { x with embcyc := x.embcyc + BitVec.ofNat 64 (freeCycles s.dev).1 }
      vaRead s.dev st.g.toNat ((w64At b 0x28 + 4 * ebNbag b) % 2 ^ 64) 4 = .ok o →
      gatherBags k st b (leNat o) (recSlot (progOf st) (w64At b 0x40) (ebFmt b)) (recSlot (progOf st) (w64At b 0x48) (ebFmt2 b))
        ((List.range (min 64 (ebNbag b - e.cursor))).map (e.cursor + ·)) Running.reset d0 = ((r, d1), none) →
      Completes (exec (.embWorkUnit n job) s) fun t => (∃ st', tfind t.dev.steps k = some st' ∧ tfind st'.embs job.toNat = some
          { e with cursor := e.cursor + min 64 (ebNbag b - e.cursor)
                   landed := decide (ebNbag b ≤ e.cursor + min 64 (ebNbag b - e.cursor)) }) ∧
        t.dev.seats = s.dev.seats ∧ t.dev.coxes = s.dev.coxes ∧ t.dev.xlate = s.dev.xlate) ∧
    (∀ (e : EmbJob) (l : List (Nat × List Nat)) (d1 : Dev), tfind st.embs job.toNat = some e → e.landed = false → leAt b 0 1 ≠ 0 →
      e.grouping = true →
      let d0 := account (freeCycles s.dev).2 st.g.toNat fun x => { x with embcyc := x.embcyc + BitVec.ofNat 64 (freeCycles s.dev).1 }
      s.dev.wlog = [] → groupRows k st.g.toNat b (min 4096 (ebNbag b - e.cursor)) e.cursor e.rows d0 = .ok (l, d1) →
      Completes (exec (.embWorkUnit n job) s) fun t => (∃ st' e', tfind t.dev.steps k = some st' ∧ tfind st'.embs job.toNat = some e' ∧
        e'.rows = l ∧ (ebNbag b ≤ e.cursor + min 4096 (ebNbag b - e.cursor) → e'.grouping = false ∧ e'.cursor = 0) ∧
        (e.cursor + min 4096 (ebNbag b - e.cursor) < ebNbag b → e'.grouping = true ∧ e'.landed = false ∧
          e'.cursor = e.cursor + min 4096 (ebNbag b - e.cursor))) ∧
        t.dev.mem = s.dev.mem ∧ t.dev.seats = s.dev.seats ∧ t.dev.xlate = s.dev.xlate)

/-- The phases of a dispatch round follow each other: count, offset, send, compute, return and combine each take the round to its next
phase when what they wait for is there; an abort from a member fails the step of that round. -/
def Obligations.ExpertRoundAdvances : Prop :=
  (∀ (n : StepName) (s : State) (k : Nat) (st : Step) (r : Round) (ph : Nat), atPhase s.dev n ph = some (k, st, r) → s.dev.wlog = [] →
    let b := dispDesc st
    let g := st.g.toNat
    let reaches (o : Host.Outcome State Fault Refusal) (q : Round → Prop) : Prop := Completes o fun t =>
      (∃ st' r', tfind t.dev.steps k = some st' ∧ st'.round = some r' ∧ r'.phase = ph + 1 ∧ r'.ranks = r.ranks ∧ q r') ∧
      t.dev.seats = s.dev.seats ∧ t.dev.coxes = s.dev.coxes ∧ t.dev.xlate = s.dev.xlate
    let routed : Prop := ∃ rt, vaRead s.dev g (w64At b 0x18) (8 * xdTopk b * xdNtok b) = .ok rt
    (ph = 0 → leAt b 0x44 1 ∈ st.jsDone → routed → ∀ em, vaRead s.dev g (w64At b 0x20) 16384 = .ok em →
      reaches (exec (.expertCount n) s) fun r' => r'.emap = (List.range 4096).map fun i => BitVec.ofNat 32 (w32At em (4 * i))) ∧
    (ph = 1 → (∀ i, i < r.ranks.length → (tfind r.counts i).isSome = true) →
      (∃ l, transRange s.dev g (w64At b 0x48) (64 * xdNloc b) true = .ok l) →
      (∃ l, transRange s.dev g ((w64At b 0x60 + 64) % 2 ^ 64) (8 * xdNloc b) true = .ok l) →
      reaches (exec (.expertOffset n) s) fun _ => True) ∧
    (ph = 2 → (∀ i, i < r.ranks.length → (tfind r.offs i).isSome = true) →
      ∀ rt, vaRead s.dev g (w64At b 0x18) (8 * xdTopk b * xdNtok b) = .ok rt →
      let all := placeAll r (choicesOf b r.emap r.ranks rt) []
      let kept := all.filter fun c => decide (c.2.2.2.2 < xdCap b)
      reaches (exec (.expertSend n) s) fun r' => r'.placed = kept ∧ r'.sent = kept.length ∧ r'.dropped = all.length - kept.length) ∧
    (ph = 3 → (∀ i, i < r.ranks.length → (r.origin.filter fun o => o.2.2.1 == i).length = keptFrom b r i) →
      reaches (exec (.expertCompute n) s) fun r' => r'.origin = r.origin ∧ r'.placed = r.placed) ∧
    (ph = 4 → (leAt b 0x45 1 = 0xFF ∨ leAt b 0x45 1 ∈ st.jsDone) → reaches (exec (.expertReturn n) s) fun r' => r'.placed = r.placed) ∧
    (ph = 5 → (∀ c, c ∈ r.placed → (tfind r.results (8 * c.1 + c.2.1)).isSome = true) →
      (∃ rt d1, vaGet s.dev g (w64At b 0x18) (8 * xdTopk b * xdNtok b) = .ok (rt, d1) ∧ ∃ run d2,
        combineAll k st b r rt (recSlot (progOf st) (w64At b 0x50) (fld (xdCtl b) 15 12)) (List.range (xdNtok b)) Running.reset d1 = .ok (run, d2)) →
      (∃ l, transRange s.dev g (w64At b 0x60) 64 true = .ok l) →
      reaches (exec (.expertCombine n) s) fun r' => r'.results = r.results)) ∧
  (∀ (g : Gnt) (round : W32) (s : State) (k : Nat) (st : Step) (r : Round), tfind s.dev.steps k = some st → st.g = g →
    (st.st = .admitted ∨ st.st = .suspended) → st.round = some r → w32At (dispDesc st) 0 = round.toNat →
    Completes (exec (.expertAbortReceived g round) s) fun t =>
      (∃ st', tfind t.dev.steps k = some st' ∧ st'.failing.isSome = true ∧ st'.round = st.round) ∧
      (∀ a, a < hostBase → peek t.dev a 1 = peek s.dev a 1) ∧ t.dev.seats = s.dev.seats ∧ t.dev.coxes = s.dev.coxes ∧ t.dev.xlate = s.dev.xlate)

/-! ### Keys and values -/

/-- An edit goes into the table's other copy and is published by the swap: GEN rises, LIVE moves to the earlier generation, a truncation
cuts LEN, and a pin or unpin sets or clears bit 5 of its entry and leaves every other entry. A spilled page that has landed stands in
its LPDDR5X frame and waits as an edit; a landed fetch stands in its staging frame, and the peer's request is answered with the page's
data. A summary item writes its record and counts itself; a selector block writes its selection list and counts itself; a walk block of
a page of this module stands in its slots with its key positions in its tile register. -/
def Obligations.KvEngineRows : Prop :=
  (∀ (tab : TabNo) (s : State) (kind : Nat) (v : W64) (f : Nat) (rest : List (Nat × W64 × Nat)),
    let r := kvOf s.dev tab.toNat
    let old (i : Nat) : Nat := peekN s.dev (stackBase + kvEntryAddr r r.gen.toNat 0 + 8 * i) 8
    let new (t : State) (i : Nat) : Nat := peekN t.dev (stackBase + kvEntryAddr r (r.gen + 1).toNat 0 + 8 * i) 8
    Memory.wf s.dev.mem = true → r.edits = (kind, v, f) :: rest → r.livePrev = 0 →
    Completes (exec (.kvEditApply tab) s) fun t =>
      (kvOf t.dev tab.toNat).gen = r.gen + 1 ∧ (kvOf t.dev tab.toNat).edits = rest ∧ (kvOf t.dev tab.toNat).live = 0 ∧
      (kvOf t.dev tab.toNat).livePrev = r.live ∧
      (kind = 0 → (kvOf t.dev tab.toNat).len = BitVec.ofNat 32 (min r.len.toNat v.toNat)) ∧ (kind ≠ 0 → (kvOf t.dev tab.toNat).len = r.len) ∧
      (kind = 1 → v.toNat < kvEntries r → (old v.toNat).testBit 0 = true → new t v.toNat = old v.toNat ||| 32) ∧
      (kind = 2 → v.toNat < kvEntries r → (old v.toNat).testBit 0 = true → new t v.toNat = old v.toNat &&& (2 ^ 64 - 1 - 32)) ∧
      (kind = 1 ∨ kind = 2 → ∀ i, i < kvEntries r → i ≠ v.toNat → new t i = old i) ∧
      (∀ x, x ≠ tab.toNat → kvOf t.dev x = kvOf s.dev x) ∧
      t.dev = { s.dev with mem := t.dev.mem, kv := t.dev.kv, regs := t.dev.regs, gaunts := t.dev.gaunts, wlog := [] }) ∧
  ((∀ (tab : TabNo) (entry : W32) (s : State) (f : Nat),
    let r := kvOf s.dev tab.toNat
    let e := kvEntry s.dev r r.gen.toNat entry.toNat
    Memory.wf s.dev.mem = true → (r.spills.find? fun x => x.1 == entry.toNat) = some (entry.toNat, f) →
    Completes (exec (.kvSpillLanded tab entry) s) fun t =>
      (e.testBit 0 = true → peek t.dev (lpBase + f * 65536) 65536 = peek s.dev (kvFrame e) 65536) ∧
      (∀ a, a < lpBase + f * 65536 ∨ lpBase + f * 65536 + 65536 ≤ a → peek t.dev a 1 = peek s.dev a 1) ∧
      (kvOf t.dev tab.toNat).edits = r.edits ++ [(4, BitVec.ofNat 64 entry.toNat, f)] ∧
      (kvOf t.dev tab.toNat).spills = r.spills.filter (fun x => x.1 != entry.toNat) ∧
      reg t.dev rKVM_SPILLCNT = min (2 ^ 32 - 1) (reg s.dev rKVM_SPILLCNT + 1) ∧
      t.dev = { s.dev with mem := t.dev.mem, kv := t.dev.kv, regs := t.dev.regs, gaunts := t.dev.gaunts, wlog := [] }) ∧
  (∀ (g : Gnt) (src : Mid) (tab : TabNo) (page : BitVec 24) (group : BitVec 4) (limit : W32) (frame : Byte) (s : State),
    let r := kvOf s.dev tab.toNat
    let e := kvEntry s.dev r r.gen.toNat (page.toNat * kvHg r + group.toNat)
    let es := fmtBits r.fmt.toNat / 8
    r.cap ≠ 0 → r.gnt = g → page.toNat < (r.len.toNat + 63) / 64 → group.toNat < kvHg r → kvEntryOk e g.toNat r.gtag.toNat = true →
    Completes (exec (.kvFetchReq g src tab page group limit frame) s) fun t =>
      let sent := sendMsg s.dev g.toNat src.toNat 5 1 (leBytes 2 tab.toNat ++ leBytes 2 0 ++ leBytes 3 page.toNat ++ leBytes 1 group.toNat ++
        leBytes 4 limit.toNat ++ leBytes 1 frame.toNat) (pageData (peek s.dev (kvFrame e) (32768 * es)) (kvDim r) es limit.toNat page.toNat)
      reg t.dev rKVM_FETCHCNT = (reg s.dev rKVM_FETCHCNT + 1) % 2 ^ 64 ∧ t.dev.txFrames = sent.txFrames ∧ t.dev.mem = s.dev.mem ∧
      t.dev.kv = s.dev.kv ∧ t.dev.seats = s.dev.seats ∧ t.dev.steps = s.dev.steps) ∧
  (∀ (n : StepName) (tab : TabNo) (page : BitVec 24) (group : BitVec 4) (frame : Byte) (data : Bytes) (s : State) (k wi j mid len : Nat)
      (st : Step) (m : Option (List Seg)), findStep s.dev n = some k → tfind s.dev.steps k = some st →
    tfind st.asked frame.toNat = some (wi, group.toNat, j, tab.toNat) → segMap s.dev st.g.toNat (walkOf (progOf st) wi) = .ok m →
    (∃ tb, pageAt s.dev st.g.toNat m j = some (.peer mid tb page.toNat len)) → frame.toNat ∉ st.landed →
    let r := kvOf s.dev (wkTab (walkOf (progOf st) wi))
    let es := fmtBits r.fmt.toNat / 8
    let fr := frameAt (st.staging.getD frame.toNat 0)
    2 * (kvDim r * 64 * es) ≤ data.length → kvDim r ≤ 256 →
    Completes (exec (.kvFetchResp n tab page group frame data) s) fun t =>
      peek t.dev fr (kvDim r * 64 * es) = data.take (kvDim r * 64 * es) ∧
      peek t.dev (fr + 16384 * es) (kvDim r * 64 * es) = (data.drop (kvDim r * 64 * es)).take (kvDim r * 64 * es) ∧
      (∀ a, a < fr ∨ fr + 32768 * es ≤ a → peek t.dev a 1 = peek s.dev a 1) ∧
      tfind t.dev.steps k = some { st with landed := st.landed ++ [frame.toNat] } ∧
      t.dev = { s.dev with mem := t.dev.mem, steps := t.dev.steps, wlog := [] })) ∧
  ((∀ (n : StepName) (tab : TabNo) (entry : W32) (s : State) (k x wi : Nat) (st : Step) (d1 : Dev), findStep s.dev n = some k →
    tfind s.dev.steps k = some st → canRun s.dev k = true → s.dev.wlog = [] → (appends (progOf st)).find? (fun x => x.1 == tab.toNat) = some (x, wi) →
    let p := progOf st
    let r := kvOf s.dev tab.toNat
    let e := kvEntry s.dev r (captGen p wi) entry.toNat
    let len := captLen p wi + wkNapp (walkOf p wi)
    (∀ w, w ∈ p.walks → wkMode w = 2 → wkTab w = tab.toNat → wkJs w ∈ st.jsDone) → (tab.toNat * 2 ^ 22 + entry.toNat) ∉ st.sums →
    (sumSpan r (captLen p wi) (wkNapp (walkOf p wi))).1 ≤ entry.toNat → entry.toNat < (sumSpan r (captLen p wi) (wkNapp (walkOf p wi))).2 →
    kvEntryOk e st.g.toNat r.gtag.toNat = true →
    vaWrite s.dev st.g.toNat (r.sum.toNat + entry.toNat * (2 * kvDim r + 64))
      (summaryRec s.dev (kvFrame e) r.fmt.toNat (kvDim r) (min 64 (len - entry.toNat / kvHg r * 64))) = .ok d1 →
    Completes (exec (.kvSummaryItem n tab entry) s) fun t => t.dev.mem = d1.mem ∧
      tfind t.dev.steps k = some { st with sums := st.sums ++ [tab.toNat * 2 ^ 22 + entry.toNat] } ∧
      reg t.dev rKVM_SUMCNT = (reg s.dev rKVM_SUMCNT + 1) % 2 ^ 64 ∧
      t.dev = { s.dev with mem := t.dev.mem, steps := t.dev.steps, regs := t.dev.regs, gaunts := t.dev.gaunts, wlog := [] }) ∧
  (∀ (n : StepName) (walk : BitVec 4) (q : W32) (s : State) (k : Nat) (st : Step) (m : Option (List Seg)) (q0 : Int) (bs : Bytes) (d1 d2 : Dev),
    findStep s.dev n = some k → tfind s.dev.steps k = some st → canRun s.dev k = true → s.dev.wlog = [] →
    let p := progOf st
    let w := walkOf p walk.toNat
    let g := st.g.toNat
    let nextQ := (st.sels.filter fun x => x / 2 ^ 32 == walk.toNat).length
    walk.toNat < p.walks.length → wkMode w = 1 → leAt w 0xB 1 ∈ st.jsDone → q.toNat = nextQ →
    nextQ < jsNt (jsOf p (wkJs w)) (fld (wkStrm w) 25 24) → segMap s.dev g w = .ok m → q0Of s.dev g w nextQ = .ok q0 →
    vaGet s.dev g ((w64At w 0x20 + 4 * w32At w 0x28 * nextQ) % 2 ^ 64) (4 * w32At w 0x2C) = .ok (bs, d1) →
    let wl := wlOf q0 (seqLen p walk.toNat m)
    let wf := wfOf w q0 wl
    let cands := ((List.range (min wf.toNat (w32At w 0x2C))).map fun j => (j, w32At bs (4 * j))).filter fun c => c.2 != 0xFF800000
    let nans := (cands.filter fun c => isNan32 c.2).length
    let pick := ((sortBy scoreBefore cands).take (wkNsel w)).map (·.1)
    vaWrite d1 g ((w64At w 0x30 + 2112 * nextQ) % 2 ^ 64) (padTo 64 (leBytes 4 pick.length ++ leBytes 4 nans ++
      leBytes 4 (wrapZ 32 wf) ++ leBytes 4 (wrapZ 32 wl)) ++ (risingNats pick).flatMap (leBytes 4)) = .ok d2 →
    Completes (exec (.kvSelectorBlock n walk q) s) fun t => t.dev.mem = d2.mem ∧
      (∃ st', tfind t.dev.steps k = some st' ∧ st'.sels = st.sels ++ [walk.toNat * 2 ^ 32 + nextQ] ∧
        (nans ≠ 0 → st'.fl.nonfinite = true) ∧ (nans = 0 → st'.fl = st.fl)) ∧
      t.dev = { s.dev with mem := t.dev.mem, steps := t.dev.steps, regs := t.dev.regs, gaunts := t.dev.gaunts, wlog := [] }) ∧
  (∀ (c : CtxAt) (walk : BitVec 4) (s : State) (k j page : Nat) (st : Step) (gr : Grant) (cur : WalkCur) (m : Option (List Seg)) (ent : Bytes)
      (pages0 : List Nat), c.wf = true → (ctxAt s c).step = some k → (ctxAt s c).comp = some gr → tfind s.dev.steps k = some st →
    (seatAt s c).fenced = false → (ctxAt s c).failed = false → canRun s.dev k = true →
    let p := progOf st
    let g := st.g.toNat
    let w := walkOf p walk.toNat
    let kd := sdOf p (fld (wkStrm w) 9 0)
    let vd := sdOf p (fld (wkStrm w) 19 10)
    let m' := if wkMode w = 0 then none else m
    walkFor p gr.jobset = some walk.toNat → segMap s.dev g w = .ok m → segOk (m'.getD []) = true →
    plEntry s.dev g p gr.jobset gr.i2 = .ok ent → walkPages s.dev g st walk.toNat (qOf w [gr.i0, gr.i1, gr.i2]) = .ok (some pages0) →
    cur = (ctxAt s c).walk.getD { walk := walk.toNat, next := 0, pages := pages0 } → cur.pages[cur.next]? = some j →
    wkGroup w ent < kvHg (kvOf s.dev (wkTab w)) →
    slotFree (seatAt s c) c.ctx.toNat p gr walk.toNat cur.next [(sdSoff kd, sdBlk kd), (sdSoff vd, sdBlk vd)] = true →
    (∀ x, x ∈ cur.pages → ∃ y, pageAt s.dev g m' x = some (.here y)) → pageAt s.dev g m' j = some (.here page) →
    let r := kvOf s.dev (wkTab w)
    let e := kvEntry s.dev r (captGen p walk.toNat) (page * kvHg r + wkGroup w ent)
    kvEntryOk e g r.gtag.toNat = true →
    let bs := peek s.dev (kvFrame e) (32768 * (fmtBits r.fmt.toNat / 8))
    let valid := seqLen p walk.toNat m' - 64 * j
    let base := halfBase (ctxIdx c) (ctxAt s c).half + (regionOf (seatAt s c) c.ctx.toNat).1
    let kb := pagePart bs 0 (sdElems kd) (fmtBits (sdFmt kd)) (w32At kd 0xC) (fun l => l % 64) valid
    let vb := pagePart bs 16384 (sdElems vd) (fmtBits (sdFmt vd)) (w32At vd 0xC) (fun l => l / 64 % 64) valid
    let ka := base + sdSoff kd + cur.next % wkNslot w * sdBlk kd
    let va := base + sdSoff vd + cur.next % wkNslot w * sdBlk vd
    let ta := tregBase (ctxIdx c) (fld (wkStrm w) 23 20) + cur.next % 64 * 256
    (ka + kb.length ≤ va ∨ va + vb.length ≤ ka) → ka + kb.length ≤ ta → va + vb.length ≤ ta →
    Completes (exec (.kvWalkBlock c walk) s) fun t => (ctxAt t c).walk = some { cur with next := cur.next + 1 } ∧
      peek t.dev ka kb.length = kb ∧ peek t.dev va vb.length = vb ∧
      (∀ q, q < 64 → peekN t.dev (ta + 4 * q) 4 = if q < valid then (64 * j + q) % 2 ^ 32 else 0xFFFFFFFF) ∧
      (∀ a, (a < ka ∨ ka + kb.length ≤ a) → (a < va ∨ va + vb.length ≤ a) → (a < ta ∨ ta + 256 ≤ a) → peek t.dev a 1 = peek s.dev a 1) ∧
      (∀ v, v ≠ ctxIdx c → seatOf t.dev v = seatOf s.dev v)))

/-! ### Supply, temperatures, power domains -/

/-- What the supply and the coolant do: a reading is shown; above 64.0 V the module is held in reset until 60.0 V; below 47.0 V, or at
a thermal cause, it enters brace; 2 ms above 48.0 V end it; below 43.0 V, and at 110 °C, the module is reset; the rest warns or qualifies. -/
def Obligations.SupplyAndThermalRows : Prop :=
  (∀ (v : W16) (s : State),
    let w (f : Supply → Supply) : Dev := setReg { s.dev with sup := f { s.dev.sup with vin := v } } rPWR_VIN v.toNat
    let plain (f : Supply → Supply) (t : State) : Prop := t.dev = { w f with wlog := [] }
    (Completes (exec (.overvoltageCutoff v) s) fun t => if v.toNat ≤ 6400 then plain id t else ResetLeaves s t ∧ t.dev.pst = s.dev.pst ∧
      t.dev.sup = { Supply.reset with vin := v, vinOk := s.dev.sup.vinOk, enClosed := s.dev.sup.enClosed, flowOk := s.dev.sup.flowOk, ovHold := true }) ∧
    (Completes (exec (.overvoltageRelease v) s) (plain fun u => if v.toNat < 6000 then { u with ovHold := false } else u)) ∧
    (Completes (exec (.overvoltageWarning v) s) fun t => if v.toNat ≤ 6100 then plain id t else
      Reports (setReg (w id) rPWR_STATUS (reg s.dev rPWR_STATUS ||| 4)) t ∧
      t.dev.evlog = (logPush s.dev (eventBody 2 0xFF 0 s.dev.strk.count.toNat (timeNow s.dev).1 0 [v.toNat, 2])).evlog) ∧
    (Completes (exec (.underrangeWarning v) s) fun t => if v.toNat < 4700 ∨ 5000 ≤ v.toNat then plain id t else
      Reports (setReg (w id) rPWR_STATUS (reg s.dev rPWR_STATUS ||| 2)) t ∧
      t.dev.evlog = (logPush s.dev (eventBody 2 0xFF 0 s.dev.strk.count.toNat (timeNow s.dev).1 0 [v.toNat, 3])).evlog) ∧
    (4700 ≤ v.toNat → Completes (exec (.braceEntry v) s) (plain id)) ∧
    (v.toNat < 4700 → s.dev.sup.brace = true → Completes (exec (.braceEntry v) s) (plain fun u =>
      { u with minVin := lowVin u.minVin v, resumeRun := false, resumeDue := false, supplyCause := true })) ∧
    (v.toNat < 4700 → s.dev.sup.brace = false → s.dev.pwait.active = false → Completes (exec (.braceEntry v) s) (Reports
      (inc32 (w fun u => { u with brace := true, minVin := v, braceAt := (timeNow s.dev).1, resumeRun := false, resumeDue := false
                                  inInterval := true, supplyCause := true }) rPWR_BRACECNT 1))) ∧
    (Completes (exec (.vinRecovery v) s) (plain fun u => if u.brace = false then u
      else if 4800 < v.toNat then { u with resumeRun := true, resumeDue := false }
      else { u with resumeRun := false, resumeDue := false, minVin := lowVin u.minVin v })) ∧
    (Completes (exec (.supplyReset v) s) fun t => if 4300 ≤ v.toNat then plain id t else ResetLeaves s t ∧
      (t.dev.pst.journal.getLast?.map fun r => (r.kind.toNat, r.step.toNat)) = some (6, 0xFF) ∧ t.dev.pst.jseq = s.dev.pst.jseq + 1 ∧
      t.dev.sup = { Supply.reset with vin := v, vinOk := false, enClosed := s.dev.sup.enClosed, flowOk := s.dev.sup.flowOk, ovHold := s.dev.sup.ovHold }) ∧
    (Completes (exec (.powerOnStart v) s) fun t => if 4800 < v.toNat ∧ s.dev.sup.vinOk = false then
      t.dev = { w (fun u => { u with vinOk := true }) with strk := { s.dev.strk with time := 0 }, wlog := [] } else plain id t)) ∧
  (∀ s : State,
    (Completes (exec .resumeCountExpiry s) fun t => t.dev = { s.dev with wlog := [], sup := t.dev.sup } ∧ t.dev.sup =
    if s.dev.sup.brace = false ∨ (s.dev.sup.supplyCause = true ∧ s.dev.sup.resumeRun = false) then s.dev.sup
      else { s.dev.sup with resumeRun := false, resumeDue := true, supplyCause := false, junction := false, flow := false, inlet := false }) ∧
    (Completes (exec .enClose s) fun t => t.dev = { s.dev with wlog := [], sup := { s.dev.sup with enClosed := true } }) ∧
    (Completes (exec .enOpen s) fun t => ResetLeaves s t ∧ t.dev.sup.enClosed = false ∧ t.dev.pst = s.dev.pst)) ∧
  (∀ (f : W16) (s : State), Completes (exec (.flowQualified f) s) fun t =>
    t.dev = { setReg s.dev rPWR_COOL (reg s.dev rPWR_COOL % 2 ^ 16 + f.toNat * 2 ^ 16) with
      wlog := [], sup := if 400 ≤ f.toNat then { s.dev.sup with flowOk := true } else s.dev.sup }) ∧
  (∀ (c : ThermalCause) (r : W16) (s : State),
    let met : Prop := match c with
      | .junction _ => 100 ≤ sext 8 r.toNat
      | .flow => r.toNat < 300
      | .inlet => 45 < sext 8 r.toNat
    let by' (u : Supply) : Supply := match c with
      | .junction _ => { u with junction := true }
      | .flow => { u with flow := true }
      | .inlet => { u with inlet := true }
    let d := thermalShow s.dev c r.toNat
    (¬met → Completes (exec (.thermalBraceEntry c r) s) fun t => t.dev = { d with wlog := [] }) ∧
    (met → s.dev.sup.brace = false → s.dev.pwait.active = false → Completes (exec (.thermalBraceEntry c r) s) (Reports
      (inc32 (inc32 { d with sup := by' { s.dev.sup with
        brace := true, minVin := s.dev.sup.vin, braceAt := (timeNow s.dev).1, resumeRun := false, resumeDue := false, inInterval := true } }
        rPWR_BRACECNT 1) rPWR_THMCNT 1)))) ∧
  (∀ (die : BitVec 5) (c : Byte) (s : State),
    (sext 8 c.toNat < 110 → Completes (exec (.thermalTrip die c) s) fun t => t.dev = { setTj s.dev die.toNat c.toNat with wlog := [] }) ∧
    (110 ≤ sext 8 c.toNat → Completes (exec (.thermalTrip die c) s) fun t => ResetLeaves s t ∧ t.dev.sup.lastTrip = true ∧
      (t.dev.pst.journal.getLast?.map fun r => (r.kind.toNat, r.detail.toNat)) = some (12, die.toNat)))

/-- A return of a domain that has ended is marked for the next boundary; an auto-mode domain idle for PWR_AUTOIDLE boundaries that may
leave its on state enters retention; each wake source ends PWAIT with its code in PWR_LASTWAKE, or, in brace, is kept for the wake. A
module that does not run counts no stroke; in PWAIT the stroke count and the count of strokes in PWAIT rise and no action is performed;
a running module takes the boundary sequence. -/
def Obligations.DomainsWakeAndBoundary : Prop :=
  ((∀ (n : DomNo) (s : State), domWf n = true →
    (Completes (exec (.domainReturnDone n) s) fun t => t.dev = { (if (domOf s.dev n.toNat).state = 3 then
      modDom s.dev n.toNat fun x => { x with returned := true } else s.dev) with wlog := [] }) ∧
    (Completes (exec (.autoIdleRetention n) s) fun t => t.dev = { (if (domOf s.dev n.toNat).mode = 3 ∧ (domOf s.dev n.toNat).state = 0 ∧
      max 1 (fld (reg s.dev rPWR_AUTOIDLE) 7 0) ≤ (domOf s.dev n.toNat).idle ∧ mayLeave s.dev n.toNat 1 = true ∧ s.dev.sup.brace = false then
      inc64 (modDom s.dev n.toNat fun x => { x with state := 1, idle := 0, returned := false }) rPWR_CHGCNT 1 else s.dev) with wlog := [] })) ∧
  (∀ (s : State) (i : Instr) (code : Nat),
    ((∃ a : BitVec 7, i = .smbusWakeMatch a ∧ (reg s.dev rPWR_WAKEADDR).testBit 7 = true ∧ fld (reg s.dev rPWR_WAKEADDR) 6 0 = a.toNat ∧ code = 1) ∨
      (i = .mcWakeRequest ∧ code = 3) ∨
      (i = .wakeTimerExpiry ∧ reg s.dev rPWR_WTIMER ≠ 0 ∧ reg s.dev rPWR_WTIMER ≤ s.dev.pwait.strokes ∧ code = 4)) →
    (s.dev.pwait.active = false → Completes (exec i s) fun t => t.dev = { s.dev with wlog := [] }) ∧
    (s.dev.pwait.active = true → s.dev.sup.brace = true → Completes (exec i s) fun t => t.dev = { s.dev with wlog := [], pwait := t.dev.pwait } ∧ t.dev.pwait =
    if s.dev.pwait.wake = 0 then { s.dev.pwait with wake := code } else s.dev.pwait) ∧
    (s.dev.pwait.active = true → s.dev.sup.brace = false → Completes (exec i s) fun t =>
      t.dev.pwait = { s.dev.pwait with active := false, deep := false, dramoff := false, strokes := 0, late := [], braced := false, wake := 0 } ∧
      (domOf t.dev 88).state = 0 ∧ (domOf t.dev 112).state = 0 ∧ t.dev.seats = s.dev.seats ∧ t.dev.coxes = s.dev.coxes ∧
      t.dev.steps = s.dev.steps ∧ t.dev.xlate = s.dev.xlate ∧ t.dev.strk.count = s.dev.strk.count)) ∧
  (∀ (a : BitVec 7) (s : State), ¬((reg s.dev rPWR_WAKEADDR).testBit 7 = true ∧ fld (reg s.dev rPWR_WAKEADDR) 6 0 = a.toNat) →
    Completes (exec (.smbusWakeMatch a) s) fun t => t.dev = { s.dev with wlog := [] })) ∧
  (∀ s : State,
    (fld (reg s.dev rBOOT_STATUS) 1 0 ≠ 1 → Completes (exec .strokeBoundary s) fun t => t.dev = { s.dev with wlog := [] }) ∧
    (fld (reg s.dev rBOOT_STATUS) 1 0 = 1 → s.dev.pwait.active = true → s.dev.sup.brace = false → Completes (exec .strokeBoundary s) fun t =>
      t.dev.strk.count = s.dev.strk.count + 1 ∧ t.dev.pwait.strokes = s.dev.pwait.strokes + 1 ∧
      t.dev = { s.dev with strk := t.dev.strk, pwait := t.dev.pwait, wlog := [] }) ∧
    (fld (reg s.dev rBOOT_STATUS) 1 0 = 1 → s.dev.pwait.active = false → Completes (exec .strokeBoundary s) fun t =>
      t.dev = after boundary s))

/-! ### The host link, boot, registers -/

/-- What the link does to the module: training, link down and up, resets, function-level resets, power states of functions, poisoned
requests, the number of virtual functions. -/
def Obligations.LinkAndResetRows : Prop :=
  (∀ (r : LinkRate) (w : LinkWidth) (s : State), Completes (exec (.linkTrained r w) s) fun t => t.dev = { s.dev with wlog := [], ident := t.dev.ident } ∧ t.dev.ident =
    if domOn s.dev 89 = false then s.dev.ident
    else { s.dev.ident with rate := rateCode r, width := widthOf w, lowrate := slowRate r, l0p := false, up := true }) ∧
  (∀ s : State,
    (Completes (exec .perstAssert s) fun t => ResetLeaves s t ∧ t.dev.pst = s.dev.pst) ∧
    (Completes (exec .hotReset s) fun t => ResetLeaves s t ∧ t.dev.pst = s.dev.pst) ∧
    (Completes (exec .linkDown s) fun t => t.dev = { s.dev with wlog := [], ident := { s.dev.ident with up := false, l0p := false } }) ∧
    (Completes (exec .linkUp s) fun t => t.dev = { s.dev with wlog := [], ident := t.dev.ident } ∧ t.dev.ident =
    if domOn s.dev 89 = true ∧ s.dev.ident.width ≠ 0 then { s.dev.ident with up := true } else s.dev.ident) ∧
    (Completes (exec .flrPf s) fun t => t.dev.ident.numvf = 0)) ∧
  (∀ (f : Fn) (s : State),
    (f = 0 ∨ fnOn s.dev f.toNat = false → Completes (exec (.flrVf f) s) fun t => t.dev = { s.dev with wlog := [] }) ∧
    (f ≠ 0 → fnOn s.dev f.toNat = true → Completes (exec (.flrVf f) s) fun t => (func t.dev f.toNat).openF = false ∧
      (func t.dev f.toNat).feat = 0 ∧ (func t.dev f.toNat).sess = none ∧ (func t.dev f.toNat).kem = none) ∧
    (Completes (exec (.d3hotEntry f) s) fun t => t.dev =
      { (if fnOn s.dev f.toNat = true then modF s.dev f.toNat fun x => { x with d3 := true } else s.dev) with wlog := [] }) ∧
    (Completes (exec (.d0Return f) s) fun t => t.dev = { modF s.dev f.toNat (fun x => { x with d3 := false }) with wlog := [] }) ∧
    (Completes (exec (.poisonedRequest f) s) fun t => t.dev =
      { setReg s.dev rHIF_BADTLP (min (2 ^ 32 - 1) (reg s.dev rHIF_BADTLP + 1)) with wlog := [] })) ∧
  (∀ (n : BitVec 5) (s : State), Completes (exec (.numvfsWrite n) s) fun t => t.dev.ident.numvf = BitVec.ofNat 5 (min n.toNat 15) ∧
    (s.dev.ident.numvf.toNat ≤ min n.toNat 15 →
      t.dev = { s.dev with wlog := [], ident := { s.dev.ident with numvf := BitVec.ofNat 5 (min n.toNat 15) } }))

/-- A start of a module whose levels are all normal: it passes B25 and runs with the stroke count at zero and G0 in being; a step that
fails restarts the package with STEPFAIL in the journal; an image that is not valid leads to RECOVERY. -/
def Obligations.BootStarts : Prop :=
  (∀ (r : BootReport) (s : State), mayBoot s.dev = false → Completes (exec (.bootStart r) s) fun t => t.dev = { s.dev with wlog := [] }) ∧
  (∀ (r : BootReport) (s : State), mayBoot s.dev = true → (∀ n, levelOf s.dev n = 0) → stepCut s.dev = none → r.failStep = none →
    (imgOk s.dev = true → Completes (exec (.bootStart r) s) fun t => reg t.dev rBOOT_STATUS = 1 + 25 * 256 ∧
      (t.dev.pst.journal.getLast?.map (·.kind.toNat)) = some 5 ∧ t.dev.strk.count = 0 ∧ (gaunt t.dev 0).present = true ∧ (gaunt t.dev 0).inst = 1) ∧
    (imgOk s.dev = false → Completes (exec (.bootStart r) s) fun t => reg t.dev rBOOT_STATUS = 2 + 2 * 256 + 4 * 65536)) ∧
  (∀ (n : BitVec 5) (code : Byte) (detail : W64) (s : State), mayBoot s.dev = true → (∀ n, levelOf s.dev n = 0) → stepCut s.dev = none →
    imgOk s.dev = true → n.toNat < 26 → n ≠ 2 → (n = 19 → s.dev.pst.opt.getLsbD 0 = true) →
    Completes (exec (.bootStepFail n code detail) s) fun t => reg t.dev rBOOT_STATUS = 0 ∧ t.dev.steps = [] ∧ t.dev.seats = [] ∧
      (t.dev.pst.journal.getLast?.map fun r => (r.kind.toNat, r.step.toNat, r.level.toNat, r.reason, r.detail)) = some (3, n.toNat, 0, code, detail)) ∧
  (∀ (n : BitVec 5) (code : Byte) (detail : W64) (s : State), mayBoot s.dev = false →
    Completes (exec (.bootStepFail n code detail) s) fun t => t.dev = { s.dev with wlog := [] })

/-- BOOT_RECCTL starts the read in RECOVERY and clears ERR; an image that fails its check, or that the link does not bring, sets ERR;
BOOT_RETRY and BOOT_OPT go to flash; a scan that finds nothing changes nothing, and a find adds a PENDING entry. -/
def Obligations.BootRegistersAndRepair : Prop :=
  (∀ (v : W32) (s : State),
    (Completes (exec (.recoveryGo v) s) fun t =>
      let o := reg s.dev rBOOT_RECCTL
      let b1 : Bool := o.testBit 1 || (v.toNat.testBit 0 && fld (reg s.dev rBOOT_STATUS) 1 0 == 2)
      let b2 : Bool := o.testBit 2 && !v.toNat.testBit 2
      t.dev = { setReg s.dev rBOOT_RECCTL ((if b1 = true then 2 else 0) + (if b2 = true then 4 else 0)) with wlog := [] }) ∧
    (Completes (exec (.bootRetryWrite v) s) fun t => t.dev.pst.retry = s.dev.pst.retry ||| v ∧
      t.dev.pst.jseq = s.dev.pst.jseq + BitVec.ofNat 32 (setBits 32 v.toNat).length ∧
      t.dev = { s.dev with pst := { s.dev.pst with retry := t.dev.pst.retry, journal := t.dev.pst.journal, jseq := t.dev.pst.jseq }
                           free := t.dev.free, wlog := [] }) ∧
    (Completes (exec (.bootOptWrite v) s) fun t => t.dev = { s.dev with wlog := [], pst := { s.dev.pst with opt := BitVec.ofNat 2 v.toNat } })) ∧
  (∀ s : State,
    let quiet : Prop := fld (reg s.dev rBOOT_STATUS) 1 0 ≠ 2 ∨ (reg s.dev rBOOT_RECCTL).testBit 1 = false
    (quiet → Completes (exec .recoveryImageChecked s) fun t => t.dev = { s.dev with wlog := [] }) ∧
    (¬quiet → 2 ^ 25 < reg s.dev rBOOT_RECLEN ∨ s.dev.ident.up = false →
      Completes (exec .recoveryImageChecked s) fun t => t.dev = { setReg s.dev rBOOT_RECCTL 4 with wlog := [] }) ∧
    (¬quiet → reg s.dev rBOOT_RECLEN ≤ 2 ^ 25 → s.dev.ident.up = true →
      Completes (exec .recoveryImageChecked s) fun t =>
        imageOf s.dev (peek s.dev (hostBase + reg s.dev rBOOT_RECADDR) (reg s.dev rBOOT_RECLEN)) = none →
        reg t.dev rBOOT_RECCTL = 4 ∧ t.dev.mem = s.dev.mem ∧ t.dev.pst = s.dev.pst ∧
        t.dev.ident = s.dev.ident ∧ reg t.dev rBOOT_STATUS = reg s.dev rBOOT_STATUS)) ∧
  (∀ s : State, qDead s.dev = [] → Completes (exec (.repairScan []) s) fun t => t.dev = { s.dev with wlog := [] }) ∧
  (∀ (n : Nat) (l : List RepairFind) (s : State), n ∈ qDead s.dev → s.dev.pst.repairs.length + (qDead s.dev).length ≤ 65536 →
    Completes (exec (.repairScan l) s) fun t => ∃ r, r ∈ t.dev.pst.repairs ∧ r.kind = 10 ∧ r.state = 1 ∧ r.unit = BitVec.ofNat 64 n) ∧
  (∀ (f : RepairFind) (s : State), qDead s.dev = [] → f.kind.toNat ∈ [1, 2, 3, 4, 5, 6, 10] → s.dev.pst.repairs.length < 65536 →
    (∀ x, x ∈ s.dev.pst.repairs → ¬(x.kind.toNat = f.kind.toNat ∧ x.unit.toNat = f.unit.toNat ∧ x.state = 1)) →
    Completes (exec (.repairScan [f]) s) fun t => Reports { s.dev with pst := { s.dev.pst with repairs := s.dev.pst.repairs ++
      [{ kind := BitVec.ofNat 8 f.kind.toNat, state := 1, trigger := BitVec.ofNat 8 f.trigger.toNat, unit := BitVec.ofNat 64 f.unit.toNat
         spare := 0xFFFFFFFF }] } } t)

/-- STRK_CFG.K is held while a step is admitted and ignored by a member of an aligned fabric; cache sizes that sum above 16 are ignored;
the read count of the event log moves within its range. A 4-byte read of an RC register returns its value and clears it, and clears no
other; a read of a register that is not RC changes nothing but what the bus returned; a 4-byte write to a W1C register clears the bits
written 1 and leaves the rest; an access that is not 4 or 8 bytes wide and aligned reads zero and writes nothing. -/
def Obligations.RegisterWritesAndReads : Prop :=
  ((∀ (v : W32) (s : State),
    let k := BitVec.ofNat 4 (min 9 (fld v.toNat 3 0))
    let busy : Prop := ∃ p, p ∈ s.dev.steps ∧ p.2.st = .admitted
    (s.dev.strk.aligned = true → Completes (exec (.strkCfgWrite v) s) fun t => t.dev = { s.dev with wlog := [] }) ∧
    (s.dev.strk.aligned = false → busy → Completes (exec (.strkCfgWrite v) s) fun t =>
      t.dev = { s.dev with wlog := [], strk := { s.dev.strk with kHeld := some k } }) ∧
    (s.dev.strk.aligned = false → ¬busy → Completes (exec (.strkCfgWrite v) s) fun t =>
      t.dev = { s.dev with wlog := [], strk := { s.dev.strk with k := k, kHeld := none, period := BitVec.ofNat 32 (200000 * 2 ^ k.toNat) } })) ∧
  (∀ (v : W64) (s : State), Completes (exec (.embRcpartWrite v) s) fun t =>
    t.dev = { (if 16 < ((List.range 16).map fun i => v.toNat / 16 ^ i % 16).foldl (· + ·) 0 then s.dev else setReg s.dev rEMB_RCPART v.toNat) with wlog := [] }) ∧
  (∀ (v : W32) (s : State), qOk s.dev.evlog = true → qOk (setRp s.dev.evlog v) = true → (v - s.dev.evlog.rp).toNat ≤ occ s.dev.evlog →
    Completes (exec (.telLogrpWrite v) s) fun t => t.dev = { s.dev with wlog := [], evlog := setRp s.dev.evlog v }) ∧
  (∀ (v : W32) (s : State), qOk s.dev.evlog = false ∨ qOk (setRp s.dev.evlog v) = false ∨ occ s.dev.evlog < (v - s.dev.evlog.rp).toNat →
    Completes (exec (.telLogrpWrite v) s) fun t => t.dev = { s.dev with wlog := [], evlog := t.dev.evlog, free := s.dev.free + 1 } ∧
      t.dev.evlog.resets = BitVec.ofNat 32 (min (2 ^ 32 - 1) (s.dev.evlog.resets.toNat + 1)))) ∧
  ((∀ (a : BusAddr) (v : W64) (s : State), accessOk a = false →
    (Completes (exec (.registerWrite a v) s) fun t => t.dev = { s.dev with wlog := [] }) ∧
    Completes (exec (.rcRegisterRead a) s) fun t => t.dev = { s.dev with wlog := [], busData := t.dev.busData } ∧
      (windowOf s.dev a ≠ none → t.dev.busData = 0)) ∧
  (∀ (off : BitVec 32) (r : RegRow) (s : State),
    let a : BusAddr := { fn := 0, bar := 0, off := off, size := 4 }
    rowAt blockRows off.toNat = some r → off.toNat < 0x11000 → r.off = off.toNat → r.size = 4 → served s.dev none off.toNat = true →
    (r.acc = .rc → Completes (exec (.rcRegisterRead a) s) fun t => t.dev.busData.toNat = reg s.dev off.toNat % 2 ^ 32 ∧
      reg t.dev off.toNat = 0 ∧ (∀ o, o ≠ off.toNat → reg t.dev o = reg s.dev o) ∧
      t.dev = { s.dev with regs := t.dev.regs, busData := t.dev.busData, free := t.dev.free, wlog := [] }) ∧
    (r.acc ≠ .rc → Completes (exec (.rcRegisterRead a) s) fun t =>
      t.dev = { s.dev with busData := t.dev.busData, free := t.dev.free, wlog := [] }) ∧
    (r.acc = .w1c → ∀ v : W64, Completes (exec (.registerWrite a v) s) fun t =>
      (∀ i, (reg t.dev off.toNat).testBit i = ((reg s.dev off.toNat).testBit i && !(decide (i < 32) && v.toNat.testBit i))) ∧
      t.dev = { s.dev with regs := t.dev.regs, wlog := [] } ∧ ∀ o, o ≠ off.toNat → reg t.dev o = reg s.dev o)))

/-! ### Hatbox and identity -/

/-- The hatbox: a closed interval waits for its frame; the frame of the interval that waits longest is entered in the chained log, or
refused when the log is full; messages are answered from the entries held; signing, release, certificates, firmware, loss of power, the
seal and the self-check have the effects of their rules. -/
def Obligations.HatboxRows : Prop :=
  (∀ (ein : W64) (s : State), s.dev.hat.waiting.length < 65536 →
    (s.dev.hat.fwPend = none → Completes (exec (.hatboxIntervalTick ein) s) fun t => t.dev = { s.dev with wlog := [], hat := t.dev.hat } ∧
      t.dev.hat = { s.dev.hat with
        waiting := s.dev.hat.waiting ++ [(ein, s.dev.hat.measerr, s.dev.hat.wasLow || !s.dev.hat.ready)], measerr := false, wasLow := false
        ready := true, full := hatAtCap s.dev.hat }) ∧
    (s.dev.hat.fwPend ≠ none → Completes (exec (.hatboxIntervalTick ein) s) fun t =>
      t.dev.hat.sealcnt = s.dev.hat.sealcnt + 1 ∧ t.dev.hat.fwPend = none ∧ t.dev.hat.ready = true)) ∧
  (∀ (b : Bytes) (s : State),
    let sound : Prop := b.length = 1316 ∧ leAt b 0x520 4 = crc32c (b.take 0x520)
    (¬sound → Completes (exec (.hatboxActivityFrame b) s) fun t => t.dev = { s.dev with wlog := [] }) ∧
    (sound → ∀ (ein : W64) (meas low : Bool) (rest : List (W64 × Bool × Bool)), s.dev.hat.waiting = (ein, meas, low) :: rest →
      leAt b 0 4 = s.dev.hat.bootnum.toNat → leAt b 8 8 = s.dev.hat.nextIv.toNat →
      Completes (exec (.hatboxActivityFrame b) s) fun t => t.dev = { s.dev with wlog := [], hat := t.dev.hat, free := s.dev.free + 1 } ∧
        t.dev.hat.waiting = rest ∧ t.dev.hat.nextIv = s.dev.hat.nextIv + 1 ∧
        (hatCap ≤ s.dev.hat.log.length → t.dev.hat.log = s.dev.hat.log ∧ t.dev.hat.lseq = s.dev.hat.lseq ∧
          t.dev.hat.refused = s.dev.hat.refused ++ [(s.dev.hat.nextIv, s.dev.hat.bootnum, ein)]) ∧
        (s.dev.hat.log.length < hatCap → ∃ e, t.dev.hat.log = s.dev.hat.log ++ [e] ∧ t.dev.hat.lseq = s.dev.hat.lseq + 1 ∧
          t.dev.hat.prev = Config.sha3 e ∧ t.dev.hat.refused = s.dev.hat.refused ∧
          e.take 24 = leBytes 8 s.dev.hat.lseq.toNat ++ leBytes 8 s.dev.hat.nextIv.toNat ++ leBytes 8 ein.toNat))) ∧
  (∀ s : State,
    let only (f : Hat → Hat) (t : State) : Prop := t.dev = { s.dev with wlog := [], hat := f s.dev.hat }
    (Completes (exec .hatboxStatus s) fun t => ∃ b, only (fun h => { h with resp := some (leBytes 8 s.dev.hat.serial.toNat ++ leBytes 8 s.dev.pst.serial.toNat ++ b) }) t) ∧
    (∀ (first : W64) (count : Byte), Completes (exec (.hatboxRead first count) s) (only fun h => { h with
      resp := if count = 0 ∨ 64 < count.toNat ∨ hatHeld h first.toNat = none then none
        else some ((List.range count.toNat).filterMap fun i => hatHeld h (first.toNat + i)).flatten })) ∧
    (∀ (first last : W64) (nonce : Bytes),
      (∀ e, hatHeld s.dev.hat first.toNat ≠ none → hatHeld s.dev.hat last.toNat = some e → first.toNat ≤ last.toNat →
        let b := hatHeader s.dev first.toNat last.toNat e nonce
        Completes (exec (.hatboxSign first last nonce) s) fun t => t.dev = { s.dev with wlog := [], free := s.dev.free + 1, hat := { s.dev.hat with
          resp := some (b ++ Config.sign (leNat hatSeed) (leBytes 32 (Config.sha3 b).toNat) (Config.free s.dev.free).toNat)
          signed := t.dev.hat.signed } } ∧ (∃ n, t.dev.hat.signed = some n ∧ last.toNat ≤ n.toNat)) ∧
      (hatHeld s.dev.hat first.toNat = none ∨ hatHeld s.dev.hat last.toNat = none ∨ last.toNat < first.toNat →
        Completes (exec (.hatboxSign first last nonce) s) (only fun h => { h with resp := none }))) ∧
    (∀ last : W64,
      (∀ n, s.dev.hat.signed = some n → last.toNat ≤ n.toNat → s.dev.hat.gapDue = false →
        let k := min s.dev.hat.log.length (last.toNat + 1 - s.dev.hat.oldest.toNat)
        Completes (exec (.hatboxRelease last) s) (only fun h => { h with
          resp := some [], log := h.log.drop k, oldest := h.oldest + BitVec.ofNat 64 k })) ∧
      ((∀ n, s.dev.hat.signed = some n → n.toNat < last.toNat) →
        Completes (exec (.hatboxRelease last) s) (only fun h => { h with resp := none }))) ∧
    (∀ i : Byte,
      (i.toNat < 2 → Completes (exec (.hatboxGetcert i) s) (only fun h => { h with resp := some (Config.certificate (4 + i.toNat) []) })) ∧
      (i = 2 → Completes (exec (.hatboxGetcert i) s) fun t => ∃ b, only (fun h => { h with resp := some (Config.certificate 6 b) }) t) ∧
      (2 < i.toNat → Completes (exec (.hatboxGetcert i) s) (only fun h => { h with resp := none }))) ∧
    (∀ (image pkg sig : Bytes) (ver sec len : Nat), Config.fwImage image = ((ver, sec, len), pkg, sig) →
      let held : Prop := s.dev.pst.lcstate ≠ 0 ∧ s.dev.hat.rma = false
      let ok : Prop := len = pkg.length ∧ s.dev.hat.secver ≤ sec ∧
        Config.verify (Config.fusedKey 2) (leBytes 32 (Config.sha3 pkg).toNat) sig = true
      (held → Completes (exec (.hatboxUpdate image) s) (only fun h => { h with resp := none })) ∧
      (¬held → Completes (exec (.hatboxUpdate image) s) fun t =>
        (ok → only (fun h => { h with resp := some [], fwPend := some image, ready := false, wasLow := true }) t) ∧
        (¬ok → only (fun h => { h with resp := none }) t))) ∧
    (∀ energy : W64,
      (s.dev.hat.log.length < hatCap → Completes (exec (.hatboxPowerloss energy) s) fun t => only (fun _ => t.dev.hat) t ∧
        (∃ e, t.dev.hat.log = s.dev.hat.log ++ [e]) ∧ t.dev.hat.lseq = s.dev.hat.lseq + 1) ∧
      (hatCap ≤ s.dev.hat.log.length → Completes (exec (.hatboxPowerloss energy) s) (only fun h => { h with
        deferred := h.deferred ++ [(4, energy, leBytes 8 energy.toNat)] }))) ∧
    (∀ ms : W64,
      (s.dev.hat.meshBroken = true → Completes (exec (.hatboxSealbreak ms) s) (only id)) ∧
      (s.dev.hat.meshBroken = false → Completes (exec (.hatboxSealbreak ms) s) fun t =>
        t.dev.hat.meshBroken = true ∧ t.dev.hat.sealcnt = s.dev.hat.sealcnt + 1 ∧
        t.dev = { s.dev with wlog := [], hat := t.dev.hat, ident := { s.dev.ident with meas := t.dev.ident.meas } })) ∧
    (Completes (exec .hatboxSelfcheckFail s) (only fun h => { h with measerr := true, ready := false, wasLow := true })))

/-- The requests that need no session: a function that exists, with the link up, is answered, unless the module is scrapped or in
PWAIT; a key exchange opens a session, FINISH completes it. -/
def Obligations.MessagesWithoutSession : Prop :=
  ∀ (fn : Fn) (s : State),
    let f := fn.toNat
    let v (i : Nat) : Nat := (Config.free (s.dev.free + i)).toNat
    let open' : Prop := fnOn s.dev f = true ∧ s.dev.ident.up = true ∧ s.dev.pst.lcstate ≠ 4 ∧ s.dev.pwait.active = false
    let ok (code : Nat) (body : Bytes) (t : State) : Prop := t.dev = { modF s.dev f (fun x => { x with
      resp := some (Config.spdmBody code (v 0) ++ body) }) with free := s.dev.free + 1, wlog := [] }
    let chain := (certChain s.dev).flatten
    (¬open' → ∀ i : Instr, (i = .msgGetVersion fn ∨ i = .msgGetCapabilities fn ∨ i = .msgGetDigests fn ∨ i = .msgEndSession fn ∨
        i = .msgStopInterface fn ∨ i = .msgGetKemkey fn ∨ (∃ a, i = .msgNegotiateAlgorithms fn a) ∨ (∃ a b c, i = .msgGetCertificate fn a b c) ∨
        (∃ a b, i = .msgChallenge fn a b) ∨ (∃ a, i = .msgGetMeasurements fn a) ∨ (∃ a, i = .msgKeyExchange fn a) ∨ (∃ a, i = .msgFinish fn a) ∨
        (∃ a, i = .msgIdeKm fn a) ∨ (∃ a, i = .msgTdisp fn a) ∨ (∃ a b c, i = .msgTkStage fn a b c) ∨ (∃ a, i = .msgTkActivate fn a)) →
      Completes (exec i s) fun t => t.dev = { s.dev with wlog := [] }) ∧
    (open' →
      (Completes (exec (.msgGetVersion fn) s) (ok 0x04 [])) ∧ (Completes (exec (.msgGetCapabilities fn) s) (ok 0x61 [])) ∧
      (∀ a : AlgSet, a.other = false → Completes (exec (.msgNegotiateAlgorithms fn a) s) (ok 0x63 [])) ∧
      (Completes (exec (.msgGetDigests fn) s) (ok 0x01 (leBytes 32 (Config.sha3 chain).toNat))) ∧
      (∀ off len : W16, off.toNat < chain.length →
        Completes (exec (.msgGetCertificate fn 0 off len) s) (ok 0x02 ((chain.drop off.toNat).take len.toNat))) ∧
      (∀ nonce : Bytes, Completes (exec (.msgChallenge fn 0 nonce) s) fun t => reg t.dev rIDN_SIGCNT = (reg s.dev rIDN_SIGCNT + 1) % 2 ^ 64 ∧
        func t.dev f = { func s.dev f with resp := some (Config.spdmBody 0x03 (v 2) ++
          Config.sign (leNat (akSeed s.dev)) (leBytes 32 (Config.sha3 (Config.spdmBody 0x101 (v 0) ++ nonce)).toNat) (v 1)) } ∧
        t.dev = { s.dev with regs := t.dev.regs, funcs := t.dev.funcs, free := s.dev.free + 3, wlog := [] }) ∧
      (∀ nonce : Bytes, Completes (exec (.msgGetMeasurements fn nonce) s) fun t =>
        let r := ((List.range 7).flatMap fun i => leBytes 32 (measOf s.dev i).toNat) ++ leBytes 32 (gaunt s.dev f).m7.toNat
        reg t.dev rIDN_SIGCNT = (reg s.dev rIDN_SIGCNT + 1) % 2 ^ 64 ∧
        func t.dev f = { func s.dev f with resp := some (Config.spdmBody 0x60 (v 1) ++ (r ++
          Config.sign (leNat (akSeed s.dev)) (leBytes 32 (Config.sha3 (r ++ nonce)).toNat) (v 0))) } ∧
        t.dev = { s.dev with regs := t.dev.regs, funcs := t.dev.funcs, free := s.dev.free + 2, wlog := [] }) ∧
      (∀ ek : Bytes, ek.length = 1184 → Completes (exec (.msgKeyExchange fn ek) s) fun t =>
        func t.dev f = { func s.dev f with sess := some (s.dev.free, false), kem := none, resp := (func t.dev f).resp } ∧
        (∃ sg, (func t.dev f).resp = some (Config.spdmBody 0x64 (v 2) ++ ((Config.encaps ek s.dev.free).1 ++ sg))) ∧
        reg t.dev rIDN_SIGCNT = (reg s.dev rIDN_SIGCNT + 1) % 2 ^ 64 ∧
        t.dev = { s.dev with regs := t.dev.regs, funcs := t.dev.funcs, free := s.dev.free + 3, wlog := [] }) ∧
      (∀ (n : Nat) (verify : Bytes), (func s.dev f).sess = some (n, false) → verify = Config.spdmBody 0xE5 n →
        Completes (exec (.msgFinish fn verify) s) fun t => t.dev = { modF s.dev f (fun x => { x with
          sess := some (n, true), resp := some (Config.spdmBody 0x65 (v 0) ++ []) }) with free := s.dev.free + 1, wlog := [] }) ∧
      (∀ verify : Bytes, (∀ n, (func s.dev f).sess = some (n, false) → verify ≠ Config.spdmBody 0xE5 n) →
        Completes (exec (.msgFinish fn verify) s) fun t => func t.dev f = { func s.dev f with resp := some (Config.spdmBody 0x7F (v 0)) } ∧
          t.dev = { s.dev with regs := t.dev.regs, funcs := t.dev.funcs, free := s.dev.free + 1, wlog := [] }))

/-- The requests of a session: outside one they are answered in error and change nothing; inside one they end it, key and unkey the
stream, move the interface, draw a pair, stage and activate tenancy keys. A loss of a stream's integrity makes it insecure, and the
interface of a virtual function enters ERROR; the reset that ends a lifecycle transition takes place when it is due. -/
def Obligations.MessagesOfSessionAndResets : Prop :=
  (∀ (fn : Fn) (s : State),
    let f := fn.toNat
    let v := (Config.free s.dev.free).toNat
    fnOn s.dev f = true → s.dev.ident.up = true → s.dev.pst.lcstate ≠ 4 → s.dev.pwait.active = false →
    (inSession s.dev f = false → ∀ i : Instr, (i = .msgEndSession fn ∨ i = .msgStopInterface fn ∨ i = .msgGetKemkey fn ∨
        (∃ a, i = .msgIdeKm fn a) ∨ (∃ a, i = .msgTdisp fn a) ∨ (∃ a b c, i = .msgTkStage fn a b c) ∨ (∃ a, i = .msgTkActivate fn a)) →
      Completes (exec i s) fun t => func t.dev f = { func s.dev f with resp := some (Config.spdmBody 0x7F v) } ∧
        (reg t.dev rIDN_ERR).testBit 2 = true ∧ t.dev = { s.dev with regs := t.dev.regs, funcs := t.dev.funcs, free := s.dev.free + 1, wlog := [] }) ∧
    (inSession s.dev f = true →
      let ok (code : Nat) (g : Func → Func) (t : State) : Prop :=
        t.dev = { modF s.dev f (fun x => { g x with resp := some (Config.spdmBody code v ++ []) }) with free := s.dev.free + 1, wlog := [] }
      let okNote (on : Byte) (g : Func → Func) (t : State) : Prop := func t.dev f = { g (func s.dev f) with resp := some (Config.spdmBody 0x6C v ++ []) } ∧
        gaunt t.dev f = { gaunt s.dev f with m7due := (gaunt s.dev f).m7due ++ [[0xF0, on]] } ∧
        t.dev = { s.dev with funcs := t.dev.funcs, gaunts := t.dev.gaunts, free := s.dev.free + 1, wlog := [] }
      (Completes (exec (.msgEndSession fn) s) (ok 0x6B fun x => { x with sess := none, kem := none })) ∧
      (Completes (exec (.msgIdeKm fn .keyProg) s) (ok 0x6A fun x => { x with ideKeys := true })) ∧
      ((func s.dev f).ideKeys = true → Completes (exec (.msgIdeKm fn .setGo) s) (ok 0x6A fun x => { x with ide := true })) ∧
      (Completes (exec (.msgIdeKm fn .setStop) s) (ok 0x6A fun x => { x with ide := false, ideKeys := false })) ∧
      (f ≠ 0 → (func s.dev f).tdi = 0 → Completes (exec (.msgTdisp fn .lock) s) (okNote 1 fun x => { x with tdi := 1 })) ∧
      (f ≠ 0 → (func s.dev f).tdi = 1 → Completes (exec (.msgTdisp fn .start) s) (ok 0x6C fun x => { x with tdi := 2 })) ∧
      (∀ i : Instr, i = .msgTdisp fn .stop ∨ i = .msgStopInterface fn → f ≠ 0 →
        ((func s.dev f).tdi = 1 ∨ (func s.dev f).tdi = 2 → Completes (exec i s) (okNote 0 fun x => { x with tdi := 0 })) ∧
        ((func s.dev f).tdi = 0 → Completes (exec i s) (ok 0x6C id))) ∧
      (Completes (exec (.msgGetKemkey fn) s) fun t => (func t.dev f).kem = some s.dev.free ∧ (func t.dev f).sess = (func s.dev f).sess ∧
        reg t.dev rIDN_SIGCNT = (reg s.dev rIDN_SIGCNT + 1) % 2 ^ 64 ∧
        t.dev = { s.dev with regs := t.dev.regs, funcs := t.dev.funcs, free := s.dev.free + 3, wlog := [] }) ∧
      (∀ (keygen : BitVec 4) (ct wrapped : Bytes),
        let x := gaunt s.dev f
        (∀ kem : Nat, (func s.dev f).kem = some kem → x.present = true → x.ftag ≠ 0 → ct.length = 1088 → wrapped.length = 48 →
          x.actPend = false → x.keyStaged = none → keygen = nextGen x →
          let opened := Config.gcmOpen (leBytes 32 (Config.sha3 ([0x52, 0x4B, 0x2D, 0x54, 0x4B] ++ Config.decaps kem ct ++ transcript s.dev f)).toNat)
            (List.replicate 12 0) (leBytes 2 x.ftag.toNat ++ leBytes 1 keygen.toNat ++ leBytes 1 f) (wrapped.take 32) (wrapped.drop 32)
          Completes (exec (.msgTkStage fn keygen ct wrapped) s) fun t => (func t.dev f).kem = none ∧
            (∀ k, opened = some k → gaunt t.dev f = { x with keyStaged := some { gen := keygen, key := k, ctr := 0 } } ∧
              t.dev = { s.dev with gaunts := t.dev.gaunts, funcs := t.dev.funcs, free := s.dev.free + 1, wlog := [] }) ∧
            (opened = none → t.dev.gaunts = s.dev.gaunts ∧ (func t.dev f).resp = some (Config.spdmBody 0x7F v))) ∧
        ((func s.dev f).kem = none ∨ x.present = false ∨ x.ftag = 0 ∨ ct.length ≠ 1088 ∨ wrapped.length ≠ 48 ∨ x.actPend = true ∨
            x.keyStaged ≠ none ∨ keygen ≠ nextGen x →
          Completes (exec (.msgTkStage fn keygen ct wrapped) s) fun t => t.dev.gaunts = s.dev.gaunts ∧ (func t.dev f).kem = none ∧
            (func t.dev f).resp = some (Config.spdmBody 0x7F v)) ∧
        ((∃ k, x.keyStaged = some k ∧ k.gen = keygen) → Completes (exec (.msgTkActivate fn keygen) s) fun t =>
          gaunt t.dev f = { x with actAt := some keygen, actPend := false } ∧
          t.dev = { s.dev with gaunts := t.dev.gaunts, funcs := t.dev.funcs, free := s.dev.free + 1, wlog := [] })))) ∧
  ((∀ s : State, Completes (exec (.ideIntegrityFail 0) s) fun t => t.dev = { modF s.dev 0 (fun x => { x with ide := false, ideKeys := false }) with wlog := [] }) ∧
  (∀ (fn : Fn) (s : State), fn ≠ 0 → (∀ p, p ∈ s.dev.steps → p.2.g ≠ fn) → (func s.dev fn.toNat).cur = none → tfind s.dev.ckpts fn.toNat = none →
    (∀ w, w ∈ s.dev.waits → w.cmd.fn ≠ fn) → Completes (exec (.ideIntegrityFail fn) s) fun t =>
      (func t.dev fn.toNat).tdi = 3 ∧ (func t.dev fn.toNat).ide = false ∧ (func t.dev fn.toNat).ideKeys = false ∧
      (func t.dev fn.toNat).err.getLsbD 3 = true ∧ t.dev.steps = s.dev.steps ∧ t.dev.seats = s.dev.seats) ∧
  (∀ s : State,
    (s.dev.ident.resetDue = true → Completes (exec .lifecycleReset s) fun t => ResetLeaves s t ∧ t.dev.pst = s.dev.pst) ∧
    (s.dev.ident.resetDue = false → Completes (exec .lifecycleReset s) fun t => t.dev = { s.dev with wlog := [] })))

/-! ### Host interface -/

/-- The rings of a function: ENABLE makes and removes them, doorbells move their positions, a fetch takes the oldest command with a
completion credit and answers a reserved opcode at once; a chunk moves its bytes and ends the command with its last; vectors fire after
their hold-off and when they are unmasked; a core that takes over is counted. -/
def Obligations.HostRings : Prop :=
  (∀ (fn : Fn) (v : W32) (s : State),
    let f := fn.toNat
    let x := func s.dev f
    let same (i : Instr) : Prop := Completes (exec i s) fun t => t.dev = { s.dev with wlog := [] }
    (fnOn s.dev f = false → same (.fnRingcfgWrite fn v) ∧ same (.fnSqtailWrite fn v) ∧ same (.fnCqheadWrite fn v)) ∧
    (fnOn s.dev f = true →
      (x.enable = true → v.toNat.testBit 8 = true → same (.fnRingcfgWrite fn v)) ∧
      (x.enable = true → v.toNat.testBit 8 = false → Completes (exec (.fnRingcfgWrite fn v) s) fun t =>
        func t.dev f = { x with enable := false, cqHeld := 0 } ∧ tfind t.dev.queues (4 * f) = none ∧ tfind t.dev.queues (4 * f + 1) = none) ∧
      (x.enable = false → v.toNat.testBit 8 = true → 5 ≤ fld v.toNat 4 0 → fld v.toNat 4 0 ≤ 16 →
        Completes (exec (.fnRingcfgWrite fn v) s) fun t => func t.dev f = { x with nlog := BitVec.ofNat 5 (fld v.toNat 4 0), enable := true } ∧
          (queue t.dev (4 * f)).enable = true ∧ occ (queue t.dev (4 * f)) = 0 ∧ (queue t.dev (4 * f)).rp = 0 ∧
          (queue t.dev (4 * f + 1)).enable = true ∧ occ (queue t.dev (4 * f + 1)) = 0 ∧ (queue t.dev (4 * f + 1)).rp = 0) ∧
      (x.enable = false → v.toNat.testBit 8 = false ∨ fld v.toNat 4 0 < 5 ∨ 16 < fld v.toNat 4 0 →
        Completes (exec (.fnRingcfgWrite fn v) s) fun t => (func t.dev f).enable = false ∧ t.dev.queues = s.dev.queues) ∧
      (s.dev.pwait.active = false → (queue s.dev (4 * f)).enable = true → qOk (queue s.dev (4 * f)) = true → qOk (setWp (queue s.dev (4 * f)) v) = true →
        Completes (exec (.fnSqtailWrite fn v) s) fun t => t.dev = { modQ s.dev (4 * f) (fun q => setWp q v) with wlog := [] }) ∧
      (s.dev.pwait.active = false → (queue s.dev (4 * f + 1)).enable = true → qOk (queue s.dev (4 * f + 1)) = true →
        qOk (setRp (queue s.dev (4 * f + 1)) v) = true →
        Completes (exec (.fnCqheadWrite fn v) s) fun t => t.dev = { modQ s.dev (4 * f + 1) (fun q => setRp q v) with wlog := [] }))) ∧
  (∀ (fn : Fn) (s : State),
    let f := fn.toNat
    let x := func s.dev f
    let sq := queue s.dev (4 * f)
    let cq := queue s.dev (4 * f + 1)
    let (op, rsv, h) := packetAt s.dev f (x.sqbase.toNat + 64 * slotOf sq sq.rp)
    let goes : Prop := x.enable = true ∧ sq.enable = true ∧ cq.enable = true ∧ x.cur = none ∧ s.dev.ident.up = true ∧ x.d3 = false ∧
      cpRuns s.dev = true ∧ fnOn s.dev f = true ∧ qOk sq = true ∧ qOk cq = true
    (goes → occ sq = 0 ∨ 2 ^ cq.nlog.toNat ≤ occ cq + x.cqHeld → Completes (exec (.commandFetch fn) s) fun t => t.dev = { s.dev with wlog := [] }) ∧
    (goes → occ sq ≠ 0 → occ cq + x.cqHeld < 2 ^ cq.nlog.toNat → op ∈ opcodes → rsv = 0 → op ≠ 0x33 →
      Completes (exec (.commandFetch fn) s) fun t => queue t.dev (4 * f) = setRp sq (sq.rp + 1) ∧
        func t.dev f = { x with cqHeld := x.cqHeld + 1, cur := some { op := BitVec.ofNat 8 op, cmd := h, off := 0, tries := 0, started := false } } ∧
        t.dev = { s.dev with queues := t.dev.queues, funcs := t.dev.funcs, regs := t.dev.regs, gaunts := t.dev.gaunts, wlog := [] }) ∧
    (goes → occ sq ≠ 0 → occ cq + x.cqHeld < 2 ^ cq.nlog.toNat → op ∉ opcodes ∨ rsv ≠ 0 →
      Completes (exec (.commandFetch fn) s) fun t => Replied s t h op 1 0x58 0 0)) ∧
  (∀ (fn : Fn) (s : State),
    let f := fn.toNat
    ((func s.dev f).cur = none → Completes (exec (.memoryChunk fn) s) fun t => t.dev = { s.dev with wlog := [] }) ∧
    (∀ (c : Cur) (d1 : Dev), (func s.dev f).cur = some c → c.cmd.fn = fn → c.started = true → s.dev.pwait.active = false → s.dev.wlog = [] →
      let total := c.cmd.p2.toNat
      let n := min (chunkBytes s.dev) (total - c.off)
      moveChunk s.dev c.op.toNat c.cmd c.off n = .ok d1 →
      (c.off + n < total → Completes (exec (.memoryChunk fn) s) fun t => t.dev.mem = d1.mem ∧
        (func t.dev f).cur = some { c with off := c.off + n, tries := 0 } ∧ t.dev.steps = s.dev.steps ∧ t.dev.seats = s.dev.seats) ∧
      (total ≤ c.off + n → Completes (exec (.memoryChunk fn) s) fun t =>
        Replied s t c.cmd c.op.toNat 0 0 (if c.op.toNat = 10 then 0 else total) 0 ∧
        (∀ a, a < hostBase → peek t.dev a 1 = peek d1 a 1) ∧ t.dev.steps = s.dev.steps ∧ t.dev.seats = s.dev.seats))) ∧
  (∀ (core : BitVec 2) (s : State), Completes (exec (.controlCoreTakeover core) s) fun t => t.dev = { (if core.toNat <
      ((List.range 16).filter fun f => (func s.dev f).cur.isSome).length then setReg s.dev rHIF_REEXEC (min (2 ^ 32 - 1) (reg s.dev rHIF_REEXEC + 1))
      else s.dev) with wlog := [] }) ∧
  (∀ (fn : Fn) (s : State),
    let x := func s.dev fn.toNat
    (x.holdRun = false ∨ x.unsig = 0 → Completes (exec (.msixHoldoffExpiry fn) s) fun t => t.dev = { s.dev with wlog := [] }) ∧
    (x.holdRun = true → x.unsig ≠ 0 → Completes (exec (.msixHoldoffExpiry fn) s) fun t => Reports s.dev t ∧
      (func t.dev fn.toNat).unsig = 0 ∧ (func t.dev fn.toNat).holdRun = false)) ∧
  (∀ (fn : Fn) (vec : BitVec 2) (s : State),
    let x := func s.dev fn.toNat
    let e := tget (0, 0, false) x.msix vec.toNat
    (x.pba.getLsbD vec.toNat = false → Completes (exec (.msixUnmask fn vec) s) fun t =>
      t.dev = { modF s.dev fn.toNat (fun y => { y with msix := tput y.msix vec.toNat (e.1, e.2.1, false) }) with wlog := [] }) ∧
    (x.pba.getLsbD vec.toNat = true → Completes (exec (.msixUnmask fn vec) s) fun t => Reports s.dev t ∧
      (func t.dev fn.toNat).pba.getLsbD vec.toNat = false ∧ tfind (func t.dev fn.toNat).msix vec.toNat = some (e.1, e.2.1, false) ∧
      (s.dev.ident.up = true → x.d3 = false → peek t.dev (hostBase + e.1.toNat) 4 = leBytes 4 e.2.1.toNat)))

/-- A command that a shared check refuses is answered REJECTED with its reason and has no other effect; one that may not start, or that
meets a halted command processor, changes nothing. -/
def Obligations.RefusedCommandIsRejected : Prop :=
  (∀ (i : Instr) (op code : Nat) (h : HostCmd) (s : State), Refused s i op h code → i ≠ .cmdLifecycle h →
    Completes (exec i s) fun t => Reports s.dev t ∧ Replied s t h op 1 code 0 0) ∧
  (∀ (i : Instr) (op rsv : Nat) (masks : List Nat) (h : HostCmd) (s : State), hostRow i = some (op, masks, rsv, h) →
    mayStart s.dev op h = false ∨ s.dev.pwait.active = true → Completes (exec i s) fun t => t.dev = { s.dev with wlog := [] })

/-- Commands that only answer: NOP echoes, OPEN agrees on features, IDENT, QSTAT, KVROOT and EXTLIST write their buffers. -/
def Obligations.AnsweringCommands : Prop :=
  ∀ (h : HostCmd) (s : State),
    let f := h.fn.toNat
    let x := func s.dev f
    (Accepted s (.cmdNop h) → Completes (exec (.cmdNop h) s) fun t => Replied s t h 0 0 0 h.p0.toNat 0 ∧ Reports s.dev t) ∧
    (Accepted s (.cmdOpen h) →
      let w := h.p0.toNat &&& featOff s.dev
      let mayOpen : Prop := x.openF = false ∧ (gaunt s.dev f).present = true ∧ (gaunt s.dev f).tearing = 0 ∧ s.dev.ident.up = true ∧
        s.dev.ident.lowrate = false ∧ cpRuns s.dev = true
      (mayOpen → w.testBit 0 = true → Completes (exec (.cmdOpen h) s) fun t => Replied s t h 1 0 0 w 0 ∧
        Reports (modF s.dev f fun y => { y with openF := true, feat := BitVec.ofNat 128 w }) t) ∧
      (mayOpen → w.testBit 0 = false → Completes (exec (.cmdOpen h) s) fun t => Replied s t h 1 1 0x5B 0 0 ∧ Reports s.dev t) ∧
      (¬mayOpen → Completes (exec (.cmdOpen h) s) fun t => Replied s t h 1 1 0x5A 0 0 ∧ Reports s.dev t)) ∧
    (s.dev.ident.up = true →
      (Accepted s (.cmdIdent h) → Completes (exec (.cmdIdent h) s) fun t => Replied s t h 3 0 0 0 0 ∧ Reports s.dev t ∧
        (x.enable = false → peek t.dev (hostBase + h.p0.toNat) (identRecord s.dev).length = identRecord s.dev)) ∧
      (Accepted s (.cmdExtlist h) → Completes (exec (.cmdExtlist h) s) fun t => Reports s.dev t ∧
        Replied s t h 0x13 0 0 (((List.range 240).filter fun e => extState s.dev (false, e) == 1 && extOwner s.dev (false, e) == f).length +
          ((List.range 2048).filter fun e => extState s.dev (true, e) == 1 && extOwner s.dev (true, e) == f).length) 0) ∧
      (∀ n, Accepted s (.cmdQstat h) → qidOf s.dev f h.p0.toNat = some n → Completes (exec (.cmdQstat h) s) fun t =>
        Replied s t h 0x32 0 0 0 0 ∧ Reports s.dev t ∧
        (x.enable = false → peek t.dev (hostBase + h.p1.toNat) (padTo 64 (queue s.dev n).snapImg).length = padTo 64 (queue s.dev n).snapImg)) ∧
      (Accepted s (.cmdKvroot h) → h.p0.toNat < 1024 → ownTable s.dev f h.p0.toNat = true → Completes (exec (.cmdKvroot h) s) fun t =>
        let b := rootBytes h.p0.toNat (kvOf s.dev h.p0.toNat)
        Replied s t h 0x3B 0 0 0 0 ∧ Reports s.dev t ∧ (x.enable = false → peek t.dev (hostBase + h.p1.toNat) b.length = b))) ∧
    (Accepted s (.cmdQstat h) → qidOf s.dev f h.p0.toNat = none → Completes (exec (.cmdQstat h) s) fun t => Replied s t h 0x32 1 0x51 0 0 ∧ Reports s.dev t)

/-- STEPSTAT and ACCT report steps and records; QCREATE makes the queue of lowest number and descriptor, QDESTROY removes one that QCREATE
made; TELCFG sets the entries wanted, or reads a queue of module storage and moves its read position. -/
def Obligations.ReportingCommands : Prop :=
  ∀ (h : HostCmd) (s : State),
    let f := h.fn.toNat
    let x := gaunt s.dev f
    (Accepted s (.cmdStepstat h) →
      (h.p0 = 0 ∨ x.adm.toNat < h.p0.toNat → Completes (exec (.cmdStepstat h) s) fun t => Replied s t h 0x2C 1 0x58 0 0 ∧ Reports s.dev t) ∧
      (h.p0 ≠ 0 → h.p0.toNat ≤ x.adm.toNat → (∀ p, p ∈ s.dev.steps → ¬(p.2.g = h.fn ∧ p.2.adm = h.p0)) →
        Completes (exec (.cmdStepstat h) s) fun t => Reports s.dev t ∧
          Replied s t h 0x2C 0 0 4 (((x.kept.find? fun y => y.1 == h.p0).map fun y => y.2.toNat).getD 0)) ∧
      (∀ (k : Nat) (st : Step) (state hold : Byte) (r : Nat × Nat), h.p0 ≠ 0 → h.p0.toNat ≤ x.adm.toNat →
        (s.dev.steps.find? fun p => p.2.g == h.fn && p.2.adm == h.p0) = some (k, st) →
        (s.dev.snap.steps.find? fun y => y.1 == h.fn && y.2.1 == h.p0) = some (h.fn, h.p0, state, hold) →
        r = (state.toNat + 256 * hold.toNat, (slowWord s.dev st).1) →
        Completes (exec (.cmdStepstat h) s) fun t => Replied s t h 0x2C 0 0 r.1 r.2 ∧ Reports s.dev t)) ∧
    (Accepted s (.cmdAcct h) → s.dev.ident.up = true →
      let g := if h.fn = 0 then fld h.p2.toNat 3 0 else f
      let l := (recordsOf s.dev g).filter fun a => h.fn == 0 || peekN s.dev (a + 0x18) 4 == (gaunt s.dev g).inst.toNat
      let out := (l.filter fun a => decide (h.p1.toNat ≤ peekN s.dev a 8)).take 32
      (l = [] → Completes (exec (.cmdAcct h) s) fun t => Replied s t h 0x50 0 0 0 (Config.free s.dev.free).toNat ∧ Reports s.dev t) ∧
      (∀ a rest, l = a :: rest → Completes (exec (.cmdAcct h) s) fun t => Replied s t h 0x50 0 0 out.length (peekN s.dev a 8) ∧ Reports s.dev t)) ∧
    (Accepted s (.cmdQcreate h) →
      let esz := fld h.p0.toNat 5 2
      let nlog := fld h.p0.toNat 10 6
      let used := (s.dev.queues.filter fun y => y.2.gnt.toNat == f && y.2.nlog != 0).map fun y => y.2.qid.toNat
      (∀ n q, 4 ≤ esz → esz ≤ 9 → 5 ≤ nlog → nlog ≤ 16 → qbaseOk s.dev f h.p1.toNat (2 ^ (esz + nlog)) = true →
        (((List.range 1664).map (128 + ·)).find? fun n => (tfind s.dev.queues n).isNone) = some n →
        (((List.range 4092).map (4 + ·)).find? fun q => !used.contains q) = some q →
        Completes (exec (.cmdQcreate h) s) fun t => Replied s t h 0x30 0 0 q 0 ∧ Reports s.dev t ∧
          tfind t.dev.queues n = some (mkQueue (fld h.p0.toNat 1 0) f esz nlog q false h.p1.toNat)) ∧
      (esz < 4 ∨ 9 < esz ∨ nlog < 5 ∨ 16 < nlog → Completes (exec (.cmdQcreate h) s) fun t => Replied s t h 0x30 1 0x51 0 0 ∧ Reports s.dev t)) ∧
    (Accepted s (.cmdQdestroy h) →
      (∀ n, qidOf s.dev f h.p0.toNat = some n → 128 ≤ n → Completes (exec (.cmdQdestroy h) s) fun t => Replied s t h 0x31 0 0 0 0 ∧
        Reports s.dev t ∧ tfind t.dev.queues n = none) ∧
      (qidOf s.dev f h.p0.toNat = none ∨ (∃ n, qidOf s.dev f h.p0.toNat = some n ∧ n < 128) →
        Completes (exec (.cmdQdestroy h) s) fun t => Replied s t h 0x31 1 0x51 0 0 ∧ Reports s.dev t)) ∧
    (∀ i : Instr, i = .cmdTelcfgConfigure h ∨ i = .cmdTelcfgReadEvents h ∨ i = .cmdTelcfgReadTelemetry h → Accepted s i →
      (h.p0 = 0 → Completes (exec i s) fun t => Replied s t h 0x51 0 0 0 0 ∧ Reports (modG s.dev f fun y => { y with
        telCfg := BitVec.ofNat 8 h.p1.toNat, telFresh := (gaunt t.dev f).telFresh }) t ∧
        (x.telFresh = true → (gaunt t.dev f).telFresh = true)) ∧
      (h.p0 = 3 ∨ (h.p0 ≠ 0 ∧ (h.p2 = 0 ∨ 64 < h.p2.toNat)) → Completes (exec i s) fun t => Replied s t h 0x51 1 0x58 0 0 ∧ Reports s.dev t) ∧
      (∀ q, (h.p0 = 1 ∧ q = evQ f) ∨ (h.p0 = 2 ∧ q = tnQ f) → 1 ≤ h.p2.toNat → h.p2.toNat ≤ 64 → s.dev.ident.up = true →
        qOk (queue s.dev q) = true → qOk (queue s.dev (4 * f + 1)) = true →
        Completes (exec i s) fun t => Reports s.dev t ∧ Replied s t h 0x51 0 0 (min (occ (queue s.dev q)) h.p2.toNat) (queue s.dev q).lost.toNat ∧
          (queue t.dev q).rp = (queue s.dev q).rp + BitVec.ofNat 32 (min (occ (queue s.dev q)) h.p2.toNat)))

/-- Commands over memory: READ, WRITE, FILL, MAP, UNMAP, PROTECT and RECLAIM that are in form wait for their boundary; what is wrong at once
rejects them; ASSIGN gives free extents to their gauntlet. -/
def Obligations.MemoryCommands : Prop :=
  ∀ (h : HostCmd) (s : State),
    let f := h.fn.toNat
    (∀ (i : Instr) (op : Nat), (i = .cmdRead h ∧ op = 8) ∨ (i = .cmdWrite h ∧ op = 9) ∨ (i = .cmdFill h ∧ op = 10) → Accepted s i →
      let a := h.p0.toNat
      let n := h.p2.toNat
      let shape : Prop := if op = 10 then n % 8 = 0 else 4 ≤ n ∧ n ≤ 2 ^ 32 ∧ n % 4 = 0 ∧ a % 4 = 0 ∧ h.p1.toNat % 4 = 0
      let tier4 : Prop := a < 0x810000000000 ∧ 0x800000000000 < a + n
      (shape → ¬tier4 → Completes (exec i s) fun t => WaitsBoundary s.dev t op f 0 h) ∧
      (¬shape → Completes (exec i s) fun t => Replied s t h op 1 0x58 0 0 ∧ Reports s.dev t) ∧
      (shape → tier4 → Completes (exec i s) fun t => Replied s t h op 1 0x1A 0 0 ∧ Reports s.dev t)) ∧
    (∀ (i : Instr) (op : Nat), (i = .cmdMap h ∧ op = 0x10) ∨ (i = .cmdUnmap h ∧ op = 0x11) ∨ (i = .cmdProtect h ∧ op = 0x12) → Accepted s i →
      (slotAt h.p0.toNat = none → Completes (exec i s) fun t => Replied s t h op 1 0x58 0 0 ∧ Reports s.dev t) ∧
      (∀ tier e, slotAt h.p0.toNat = some (tier, e) →
        let code : Option Nat := if op = 0x10 then mapBad s.dev f tier h.p1.toNat
          else if op = 0x12 ∧ (xentry s.dev f e).testBit 0 = false then some 0x58 else none
        (code = none → Completes (exec i s) fun t => WaitsBoundary s.dev t op f 0 h) ∧
        (∀ c, code = some c → Completes (exec i s) fun t => Replied s t h op 1 c 0 0 ∧ Reports s.dev t))) ∧
    (Accepted s (.cmdAssign h) →
      let g := fld h.p0.toNat 3 0
      (extsOf s.dev h = none → Completes (exec (.cmdAssign h) s) fun t => Replied s t h 0x18 1 0x58 0 0 ∧ Reports s.dev t) ∧
      (∀ l, extsOf s.dev h = some l → (gaunt s.dev g).present = true → (gaunt s.dev g).tearing = 0 →
        (∀ e, e ∈ l → extState s.dev e = 0 ∧ (e.1 = false → withdrawn s.dev (e.2 / 60) (e.2 % 60 / 12) = false)) → s.dev.waits = [] →
        Completes (exec (.cmdAssign h) s) fun t => Replied s t h 0x18 0 0 0 0 ∧
          (∀ e, e ∈ l → extState t.dev e = 1 ∧ extOwner t.dev e = g) ∧ (∀ e, e ∉ l → extByte t.dev e = extByte s.dev e) ∧
          t.dev.waits = [] ∧ t.dev.steps = s.dev.steps ∧ t.dev.xlate = s.dev.xlate ∧ (∀ a, a < hostBase → peek t.dev a 1 = peek s.dev a 1)) ∧
      (∀ l, extsOf s.dev h = some l → (gaunt s.dev g).present = true → (gaunt s.dev g).tearing = 0 → (∃ e, e ∈ l ∧ extState s.dev e = 1) →
        Completes (exec (.cmdAssign h) s) fun t => Replied s t h 0x18 1 0x58 0 0 ∧ Reports s.dev t)) ∧
    (Accepted s (.cmdReclaim h) →
      let g := fld h.p0.toNat 3 0
      ((gaunt s.dev g).present = true → (gaunt s.dev g).tearing = 0 → reclaimBad s.dev g h = none →
        Completes (exec (.cmdReclaim h) s) fun t => WaitsBoundary s.dev t 0x19 g 0 h) ∧
      (∀ c, (gaunt s.dev g).present = true → (gaunt s.dev g).tearing = 0 → reclaimBad s.dev g h = some c →
        Completes (exec (.cmdReclaim h) s) fun t => Replied s t h 0x19 1 c 0 0 ∧ Reports s.dev t))

/-! ### Gauntlets and steps by command -/

/-- GCREATE waits for its boundary; GSET is noted for the next; GDESTROY and CLOSE end the session at once and wait for their end; a
field out of its range, or a gauntlet in the wrong state, rejects. -/
def Obligations.GauntletCommands : Prop :=
  ∀ (h : HostCmd) (s : State),
    let g := fld h.p0.toNat 3 0
    let f := h.fn.toNat
    let lives : Prop := (gaunt s.dev g).present = true ∧ (gaunt s.dev g).tearing = 0
    (Accepted s (.cmdGcreate h) →
      (gcreateOk h = false → Completes (exec (.cmdGcreate h) s) fun t => Replied s t h 0x20 1 0x68 0 0 ∧ Reports s.dev t) ∧
      (∀ c, gcreateOk h = true → gcreateBad s.dev h = some c → Completes (exec (.cmdGcreate h) s) fun t =>
        Replied s t h 0x20 1 c 0 0 ∧ Reports s.dev t) ∧
      (gcreateOk h = true → gcreateBad s.dev h = none → Completes (exec (.cmdGcreate h) s) fun t => WaitsBoundary s.dev t 0x20 g 0 h)) ∧
    (Accepted s (.cmdGset h) →
      (gsetOk s.dev h = false → Completes (exec (.cmdGset h) s) fun t => Replied s t h 0x22 1 0x68 0 0 ∧ Reports s.dev t) ∧
      (gsetOk s.dev h = true → ¬lives ∨ (h.p1.toNat.testBit 4 = true ∧ liveSteps s.dev g ≠ []) →
        Completes (exec (.cmdGset h) s) fun t => Replied s t h 0x22 1 0x5A 0 0 ∧ Reports s.dev t) ∧
      (gsetOk s.dev h = true → lives → h.p1.toNat.testBit 4 = false ∨ liveSteps s.dev g = [] →
        Completes (exec (.cmdGset h) s) fun t => Replied s t h 0x22 0 0 0 0 ∧ Reports (modG s.dev g fun x => { x with gset := x.gset ++ [h] }) t)) ∧
    (Accepted s (.cmdGdestroy h) →
      (g = 0 ∨ ¬lives → Completes (exec (.cmdGdestroy h) s) fun t => Replied s t h 0x21 1 0x5A 0 0 ∧ Reports s.dev t) ∧
      (g ≠ 0 → lives → Completes (exec (.cmdGdestroy h) s) fun t => (func t.dev g).openF = false ∧ (func t.dev g).feat = 0 ∧
        (func t.dev g).sess = none ∧ (func t.dev g).kem = none ∧
        t.dev.waits.getLast? = some { op := 0x21, cmd := h, g := BitVec.ofNat 4 g, key := 0 }) ∧
      (g ≠ 0 → lives → (∀ q, tget [] (gaunt s.dev g).queues q = []) → tfind s.dev.ckpts g = none → (func s.dev g).cur = none →
        (∀ w, w ∈ s.dev.waits ∨ w ∈ s.dev.bnds → w.cmd.fn.toNat ≠ g) → Completes (exec (.cmdGdestroy h) s) (Reports
        (modF (modG { s.dev with waits := s.dev.waits ++ [{ op := 0x21, cmd := h, g := BitVec.ofNat 4 g, key := 0 }] } g
          fun x => { x with tearing := 1 }) g fun x => { x with
            openF := false, feat := 0, sess := none, kem := none, tdi := if locked s.dev g = true then 3 else x.tdi })))) ∧
    (Accepted s (.cmdClose h) →
      (Completes (exec (.cmdClose h) s) fun t => (func t.dev f).openF = false ∧ (func t.dev f).feat = 0) ∧
      ((∀ q, tget [] (gaunt s.dev f).queues q = []) → s.dev.waits = [] →
        let shut (d : Dev) : Dev := modF d f fun x => { x with openF := false, feat := 0 }
        (liveSteps s.dev f = [] → Completes (exec (.cmdClose h) s) fun t => Replied s t h 2 0 0 0 0 ∧ Reports (shut s.dev) t) ∧
        ((∃ p, p ∈ liveSteps s.dev f ∧ p.2.adm.toNat ≤ (gaunt s.dev f).adm.toNat) → Completes (exec (.cmdClose h) s) (Reports
          (shut { s.dev with waits := [{ op := 2, cmd := h, g := h.fn, key := (gaunt s.dev f).adm.toNat }] })))))

/-- SUBMIT places its step at the tail of its queue, or waits for room; CANCEL marks admitted steps and ends queued ones; PREEMPT marks
the admitted steps that it names, to be ended where P2 [0] is set, to be suspended else. -/
def Obligations.StepCommands : Prop :=
  ∀ (h : HostCmd) (s : State),
    let f := h.fn.toNat
    let q := fld h.p3.toNat 1 0
    let l := tget [] (gaunt s.dev f).queues q
    (Accepted s (.cmdSubmit h) →
      (h.p1 = 0 → Completes (exec (.cmdSubmit h) s) fun t => Replied s t h 0x28 1 0x58 0 0 ∧ Reports s.dev t) ∧
      (h.p1 ≠ 0 → l.length < 1024 → Completes (exec (.cmdSubmit h) s) fun t => (func t.dev f).cur = none ∧ Reports
        (modG { s.dev with steps := tput s.dev.steps s.dev.nextStep (newStep s.dev h), nextStep := s.dev.nextStep + 1 } f
          fun x => { x with queues := tput x.queues q (l ++ [s.dev.nextStep]) }) t) ∧
      (h.p1 ≠ 0 → 1024 ≤ l.length → (∀ w, w ∈ s.dev.bnds → ¬(w.op = 0x28 ∧ w.cmd = h)) →
        Completes (exec (.cmdSubmit h) s) fun t => WaitsBoundary s.dev t 0x28 f 0 h)) ∧
    (Accepted s (.cmdCancel h) → s.dev.waits = [] → (∀ w, w ∈ s.dev.bnds → w.op ≠ 0x28) → tfind s.dev.ckpts f = none →
      let mine := s.dev.steps.filter fun p => p.2.g == h.fn &&
        (if h.p0 ≠ 0 then p.2.adm == h.p0 else p.2.fn == h.fn && p.2.tag.toNat == h.p1.toNat)
      ((∀ p, p ∈ mine → p.2.st = .admitted ∧ tfind s.dev.steps p.1 = some p.2) → Completes (exec (.cmdCancel h) s) fun t =>
        Replied s t h 0x29 0 0 mine.length 0 ∧ Reports { s.dev with steps := t.dev.steps } t ∧
        (∀ p, p ∈ mine → tfind t.dev.steps p.1 = some { p.2 with kill := true }) ∧
        (∀ k, (∀ p, p ∈ mine → p.1 ≠ k) → tfind t.dev.steps k = tfind s.dev.steps k)) ∧
      (∀ k st, mine = [(k, st)] → tfind s.dev.steps k = some st → st.st = .queued → Completes (exec (.cmdCancel h) s) fun t =>
        Replied s t h 0x29 0 0 1 0 ∧ t.dev.steps = tdel s.dev.steps k ∧
        tget [] (gaunt t.dev f).queues st.queueNo.toNat = (tget [] (gaunt s.dev f).queues st.queueNo.toNat).filter (· != k) ∧
        t.dev.seats = s.dev.seats ∧ t.dev.coxes = s.dev.coxes ∧ (∀ a, a < hostBase → peek t.dev a 1 = peek s.dev a 1))) ∧
    (∀ i : Instr, i = .cmdPreempt h ∨ i = .cmdPreemptForce h → Accepted s i →
      let g := fld h.p0.toNat 3 0
      ((gaunt s.dev g).present = false → Completes (exec i s) fun t => Replied s t h 0x23 1 0x5A 0 0 ∧ Reports s.dev t) ∧
      ((gaunt s.dev g).present = true → Completes (exec i s) fun t => Replied s t h 0x23 0 0 0 0 ∧ Reports
        { s.dev with steps := tmap (fun _ st => if st.g.toNat = g ∧ st.st = .admitted ∧ (h.p1 = 0 ∨ st.adm = h.p1) then
          (if h.p2.toNat.testBit 0 = true then { st with kill := true } else { st with evict := true }) else st) s.dev.steps } t))

/-- KVPOOL adds an extent to its gauntlet's pool or takes it out; KVCREATE makes the table of lowest number; KVDESTROY waits until no
walker lives; an edit is queued, and its ring waits for the swap that publishes it. -/
def Obligations.KvCommands : Prop :=
  ∀ (h : HostCmd) (s : State),
    let f := h.fn.toNat
    let r := kvOf s.dev h.p0.toNat
    (∀ i : Instr, i = .cmdKvpoolAdd h ∨ i = .cmdKvpoolRemove h → Accepted s i →
      let own := (frameExts h.p1.toNat).filter fun e => extState s.dev e == 1 && extOwner s.dev e == f
      let pool (k : List Nat → List Nat) (lp : Bool) : Dev :=
        modG s.dev f fun x => if lp = true then { x with poolL := k x.poolL } else { x with poolS := k x.poolS }
      (frameExts h.p1.toNat = [] → Completes (exec i s) fun t => Replied s t h 0x38 1 0x58 0 0 ∧ Reports s.dev t) ∧
      (∀ e, h.p0 = 0 → own.find? (fun e => !inPool s.dev f e && !extMapped s.dev f e) = some e → Completes (exec i s) fun t =>
        Replied s t h 0x38 0 0 0 0 ∧ Reports (pool (· ++ [e.2]) e.1) t) ∧
      (∀ e, h.p0 = 1 → own.find? (inPool s.dev f) = some e → poolBusy s.dev f e = false → Completes (exec i s) fun t =>
        Replied s t h 0x38 0 0 0 0 ∧ Reports (pool (·.filter (· != e.2)) e.1) t) ∧
      (frameExts h.p1.toNat ≠ [] → (h.p0 = 0 ∧ own.find? (fun e => !inPool s.dev f e && !extMapped s.dev f e) = none) ∨
        (h.p0 = 1 ∧ ∀ e, own.find? (inPool s.dev f) = some e → poolBusy s.dev f e = true) →
        Completes (exec i s) fun t => KvRefused s t h 0x38 cKVLIMIT 0)) ∧
    (Accepted s (.cmdKvcreate h) →
      let ctl := fld h.p0.toNat 31 16
      let cap := fld h.p0.toNat 63 32
      let hg := fld ctl 7 4 + 1
      let n := (cap * hg * 8 + 65535) / 65536
      (2 ^ 14 ≤ ctl → Completes (exec (.cmdKvcreate h) s) fun t => Replied s t h 0x39 1 0x58 0 0 ∧ Reports s.dev t) ∧
      (ctl < 2 ^ 14 → kvcreateOk h = false → Completes (exec (.cmdKvcreate h) s) fun t => KvRefused s t h 0x39 cKVLIMIT 0) ∧
      (∀ t0 a b d1 d2, ctl < 2 ^ 14 → kvcreateOk h = true → ((List.range 1024).find? fun k => (tfind s.dev.kv k).isNone) = some t0 →
        allocRun s.dev f n = some (a, d1) → allocRun d1 f n = some (b, d2) → Completes (exec (.cmdKvcreate h) s) fun t =>
        Replied s t h 0x39 0 0 t0 0 ∧ tfind t.dev.kv t0 = some { KvRoot.reset with
          gnt := h.fn, hg := hg, fmt := BitVec.ofNat 4 (fld ctl 11 8), dimc := BitVec.ofNat 2 (fld ctl 13 12), gtag := (kvOf t.dev t0).gtag
          cap := BitVec.ofNat 32 cap, segbase := BitVec.ofNat 32 h.p1.toNat, tab0 := BitVec.ofNat 64 (a * 65536)
          tab1 := BitVec.ofNat 64 (b * 65536), sum := h.p2 } ∧
        (∀ k, k ≠ t0 → tfind t.dev.kv k = tfind s.dev.kv k) ∧ (gaunt t.dev f).framesS = (gaunt d2 f).framesS)) ∧
    (Accepted s (.cmdKvdestroy h) → s.dev.waits = [] →
      (1024 ≤ h.p0.toNat ∨ ownTable s.dev f h.p0.toNat = false → Completes (exec (.cmdKvdestroy h) s) fun t =>
        KvRefused s t h 0x3A 0x29 h.p0.toNat) ∧
      (h.p0.toNat < 1024 → ownTable s.dev f h.p0.toNat = true → r.live + r.livePrev = 0 → Completes (exec (.cmdKvdestroy h) s) fun t =>
        Replied s t h 0x3A 0 0 0 0 ∧ tfind t.dev.kv h.p0.toNat = none) ∧
      (h.p0.toNat < 1024 → ownTable s.dev f h.p0.toNat = true → r.live + r.livePrev ≠ 0 → Completes (exec (.cmdKvdestroy h) s) (Reports
        { s.dev with waits := [{ op := 0x3A, cmd := h, g := h.fn, key := h.p0.toNat }] }))) ∧
    (∀ i : Instr, i = .cmdKveditTruncate h ∨ i = .cmdKveditPin h ∨ i = .cmdKveditUnpin h ∨ i = .cmdKveditBringBack h → Accepted s i →
      let kind := fld h.p1.toNat 1 0
      let v := h.p2.toNat
      let key := h.p0.toNat + 1024 * (r.gen + BitVec.ofNat 32 (r.edits.length + 1)).toNat
      let noted (d : Dev) (fr : Nat) : Dev := modKv d h.p0.toNat fun r => { r with edits := r.edits ++ [(kind, h.p2, fr)] }
      let mine : Prop := h.p0.toNat < 1024 ∧ ownTable s.dev f h.p0.toNat = true
      let e := kvEntry s.dev r r.gen.toNat v
      (¬mine → Completes (exec i s) fun t => KvRefused s t h 0x3C 0x29 h.p0.toNat) ∧
      (mine → (kind = 0 ∧ r.len.toNat < v) ∨ (kind ≠ 0 ∧ kvEntries r ≤ v) → Completes (exec i s) fun t =>
        KvRefused s t h 0x3C cKVLIMIT h.p0.toNat) ∧
      (mine → (kind = 0 ∧ v ≤ r.len.toNat) ∨ ((kind = 1 ∨ kind = 2) ∧ v < kvEntries r) → Completes (exec i s) fun t =>
        WaitsBoundary (noted s.dev 0) t 0x3C f key h) ∧
      (mine → kind = 3 → v < kvEntries r → ¬(e.testBit 0 = true ∧ fld e 4 2 = 3) → Completes (exec i s) fun t =>
        WaitsBoundary s.dev t 0x3C f (h.p0.toNat + 1024 * r.gen.toNat) h) ∧
      (mine → kind = 3 → v < kvEntries r → e.testBit 0 = true → fld e 4 2 = 3 →
        (∀ fr d1, allocS s.dev f 1 = some ([fr], d1) → Completes (exec i s) fun t => WaitsBoundary (noted d1 fr) t 0x3C f key h) ∧
        (allocS s.dev f 1 = none → Completes (exec i s) fun t => KvRefused s t h 0x3C 0x28 h.p0.toNat)))

/-! ### Fabric, engine and system commands -/

/-- FABCFG holds a configuration until its boundary; FTAGBIND binds a tag and destroys the tenancy keys; PEERSET writes peer-table
entries; RGCREATE makes a group and waits for its members, RGDESTROY removes it. -/
def Obligations.FabricCommands : Prop :=
  ∀ (h : HostCmd) (s : State),
    let f := h.fn.toNat
    (Accepted s (.cmdFabcfg h) →
      let n := h.p1.toNat
      let d := hostRdCount s.dev 0 n
      let c := fabImage (hostPeek s.dev h.p0.toNat n)
      let bad : Prop := 9 < c.k.toNat ∨ (s.dev.fab.isSome = true ∧ c.apply.toNat ≤ s.dev.strk.count.toNat)
      (s.dev.ident.up = false → Completes (exec (.cmdFabcfg h) s) fun t => Replied s t h 0x40 2 0x61 0 0 ∧ Reports s.dev t) ∧
      (s.dev.ident.up = true → Completes (exec (.cmdFabcfg h) s) fun t =>
        (bad → Replied s t h 0x40 1 0x3A 0 0 ∧ Reports (fabErr d 2 0 0 0x3A 0) t) ∧
        (¬bad → WaitsBoundary { d with fabPend := some c } t 0x40 0 0 h))) ∧
    (Accepted s (.cmdFtagbind h) →
      let g := fld h.p0.toNat 3 0
      let tag := BitVec.ofNat 16 h.p1.toNat
      let lives : Prop := (gaunt s.dev g).present = true ∧ (gaunt s.dev g).tearing = 0
      let taken : Prop := tag ≠ 0 ∧ ∃ o, o ∈ allG s.dev ∧ o ≠ g ∧ (gaunt s.dev o).ftag = tag
      (¬lives → Completes (exec (.cmdFtagbind h) s) fun t => Replied s t h 0x41 1 0x5A 0 0 ∧ Reports s.dev t) ∧
      (lives → taken → Completes (exec (.cmdFtagbind h) s) fun t => Replied s t h 0x41 1 0x58 0 0 ∧ Reports s.dev t) ∧
      (lives → ¬taken → Completes (exec (.cmdFtagbind h) s) fun t => Replied s t h 0x41 0 0 0 0 ∧ Reports (modG s.dev g fun x => { x with
        ftag := tag, keyCur := none, keyPrev := none, keyStaged := none, sendGen := none, actPend := false, actAt := none
        m7due := x.m7due ++ [m7Item 0x41 h] }) t)) ∧
    (Accepted s (.cmdPeerset h) →
      let a := h.p0.toNat
      let n := h.p2.toNat
      (64 < a + n → Completes (exec (.cmdPeerset h) s) fun t => Replied s t h 0x42 1 0x58 0 0 ∧ Reports s.dev t) ∧
      (a + n ≤ 64 → memFree s.dev f h.p1.toNat (4 * n) = false → Completes (exec (.cmdPeerset h) s) fun t => WaitsBoundary s.dev t 0x42 f 0 h) ∧
      (∀ b d1, a + n ≤ 64 → memFree s.dev f h.p1.toNat (4 * n) = true → vaGet s.dev f h.p1.toNat (4 * n) = .ok (b, d1) →
        let es := (List.range n).map fun i => w32At b (4 * i)
        ((∃ e, e ∈ es ∧ 2 ^ 13 ≤ e) → Completes (exec (.cmdPeerset h) s) fun t => Replied s t h 0x42 1 0x58 0 0 ∧ Reports d1 t) ∧
        ((∀ e, e ∈ es → e < 2 ^ 13) → Completes (exec (.cmdPeerset h) s) fun t => Replied s t h 0x42 0 0 0 0 ∧
          Reports (modG d1 f fun x => { x with peers := (gaunt t.dev f).peers }) t ∧
          (∀ i, i < n → tfind (gaunt t.dev f).peers (a + i) = some (BitVec.ofNat 32 (w32At b (4 * i)))) ∧
          ∀ k, (k < a ∨ a + n ≤ k) → tfind (gaunt t.dev f).peers k = tfind (gaunt s.dev f).peers k)) ∧
      (∀ e, a + n ≤ 64 → memFree s.dev f h.p1.toNat (4 * n) = true → vaGet s.dev f h.p1.toNat (4 * n) = .error e →
        Completes (exec (.cmdPeerset h) s) fun t => Replied s t h 0x42 1 e.code 0 0 ∧ Reports s.dev t)) ∧
    (Accepted s (.cmdRgcreate h) →
      let k := h.p0.toNat
      let cnt := h.p2.toNat
      let lim := h.p4.toNat
      let shape : Prop := cnt ≠ 0 ∧ cnt ≤ 4096 ∧ lim ≠ 0 ∧ h.p3.toNat + lim * 196608 ≤ 2 ^ 36
      ((tfind (gaunt s.dev f).groups k).isSome = true → Completes (exec (.cmdRgcreate h) s) fun t => Replied s t h 0x43 1 0x5A 0 0 ∧ Reports s.dev t) ∧
      (tfind (gaunt s.dev f).groups k = none → ¬shape → Completes (exec (.cmdRgcreate h) s) fun t =>
        Replied s t h 0x43 1 0x3A 0 0 ∧ Reports (fabErr s.dev 2 f 0 0x3A 0) t) ∧
      (tfind (gaunt s.dev f).groups k = none → shape → memFree s.dev f h.p1.toNat (4 * cnt) = false →
        Completes (exec (.cmdRgcreate h) s) fun t => WaitsBoundary s.dev t 0x43 f 0 h) ∧
      (∀ b d1 tr, tfind (gaunt s.dev f).groups k = none → shape → memFree s.dev f h.p1.toNat (4 * cnt) = true →
        vaGet s.dev f h.p1.toNat (4 * cnt) = .ok (b, d1) → transRange s.dev f h.p3.toNat (lim * 196608) true = .ok tr →
        let l := (List.range cnt).map fun i => w32At b (4 * i)
        (memListOk s.dev l = false → Completes (exec (.cmdRgcreate h) s) fun t => Replied s t h 0x43 1 0x3A 0 0 ∧ Reports (fabErr d1 2 f 0 0x3A 0) t) ∧
        (memListOk s.dev l = true → (∀ j, j ∈ (gaunt s.dev f).earlyJ → j.1 ≠ k) → rgWait s.dev f k = none →
          Completes (exec (.cmdRgcreate h) s) fun t =>
            tfind (gaunt t.dev f).groups k = some { members := l.map (BitVec.ofNat 32), work := h.p3, limit := lim, tcnt := 0, joins := [], early := [] } ∧
            ((∀ e, e ∈ l → fld e 11 0 = myMid s.dev) → Replied s t h 0x43 0 0 0 0 ∧ t.dev.waits = s.dev.waits) ∧
            ((∃ e, e ∈ l ∧ fld e 11 0 ≠ myMid s.dev) → (func t.dev f).cur = none ∧
              t.dev.waits = s.dev.waits ++ [{ op := 0x43, cmd := h, g := h.fn, key := k }])))) ∧
    (Accepted s (.cmdRgdestroy h) →
      let k := h.p0.toNat
      let used : Prop := ∃ p, p ∈ liveSteps s.dev f ∧ (progOf p.2).group = some k
      (tfind (gaunt s.dev f).groups k = none ∨ used → Completes (exec (.cmdRgdestroy h) s) fun t => Replied s t h 0x44 1 0x5A 0 0 ∧ Reports s.dev t) ∧
      ((tfind (gaunt s.dev f).groups k).isSome = true → ¬used →
        (Completes (exec (.cmdRgdestroy h) s) fun t => Replied s t h 0x44 0 0 0 0 ∧ tfind (gaunt t.dev f).groups k = none) ∧
        (rgWait s.dev f k = none → Completes (exec (.cmdRgdestroy h) s) (Reports (modG s.dev f fun x => { x with groups := tdel x.groups k })))))

/-- TOKLOAD loads a tokeniser table into its partition, VSOPEN opens the free session of lowest number, VSCLOSE closes one at once or
marks one whose frame a pipe holds. -/
def Obligations.EngineCommands : Prop :=
  ∀ (h : HostCmd) (s : State),
    let f := h.fn.toNat
    (Accepted s (.cmdTokload h) →
      let n := h.p2.toNat
      let k := h.p0.toNat
      let size : Prop := 1284 ≤ n ∧ n ≤ 1284 + 16 * 261888
      let vocab (d : Dev) : Dev := recordErr d rING_ERR rING_ERRINFO 2 (f + 256 * 0x42)
      (tokUsed s.dev f k = true → Completes (exec (.cmdTokload h) s) fun t => Replied s t h 0x48 1 0x5A 0 0 ∧ Reports s.dev t) ∧
      (tokUsed s.dev f k = false → ¬size → Completes (exec (.cmdTokload h) s) fun t => Replied s t h 0x48 1 0x42 0 0 ∧ Reports (vocab s.dev) t) ∧
      (tokUsed s.dev f k = false → size → (memFree s.dev f h.p1.toNat n && domOn s.dev 105) = false → Completes (exec (.cmdTokload h) s) fun t =>
        WaitsBoundary s.dev t 0x48 f 0 h) ∧
      (∀ b d1, tokUsed s.dev f k = false → size → memFree s.dev f h.p1.toNat n = true → domOn s.dev 105 = true → vaGet s.dev f h.p1.toNat n = .ok (b, d1) →
        (vocabOk b = false → Completes (exec (.cmdTokload h) s) fun t => Replied s t h 0x48 1 0x42 0 0 ∧ Reports (vocab d1) t) ∧
        (vocabOk b = true → (gaunt s.dev f).msram.toNat * 2 ^ 22 < mediaTaken s.dev f k + n → Completes (exec (.cmdTokload h) s) fun t =>
          Replied s t h 0x48 1 0x5D 0 0 ∧ Reports d1 t) ∧
        (vocabOk b = true → mediaTaken s.dev f k + n ≤ (gaunt s.dev f).msram.toNat * 2 ^ 22 → Completes (exec (.cmdTokload h) s) fun t =>
          Replied s t h 0x48 0 0 0 0 ∧ Reports (modG d1 f fun x => { x with toks := tput x.toks k b }) t))) ∧
    (Accepted s (.cmdVsopen h) →
      let no (d : Dev) (bit code : Nat) : Dev := recordErr d rVID_ERR rVID_ERRINFO bit (f + code * 65536)
      (memFree s.dev f h.p0.toNat 128 = false → Completes (exec (.cmdVsopen h) s) fun t => WaitsBoundary s.dev t 0x49 f 0 h) ∧
      (∀ b d1, memFree s.dev f h.p0.toNat 128 = true → vaGet s.dev f h.p0.toNat 128 = .ok (b, d1) →
        (vidDescOk s.dev f b = false → Completes (exec (.cmdVsopen h) s) fun t => Replied s t h 0x49 1 0x48 0 0 ∧ Reports (no d1 0 0x48) t) ∧
        (∀ pb d2, vidDescOk s.dev f b = true → memFree s.dev f (w64At b 8) (64 * leAt b 3 1) = true →
          domOn s.dev (102 + leAt b 0 1) = true → vaGet d1 f (w64At b 8) (64 * leAt b 3 1) = .ok (pb, d2) →
          let pool := (List.range (leAt b 3 1)).map fun i => slice pb (64 * i) 64
          (pool.all frameBufOk = false → Completes (exec (.cmdVsopen h) s) fun t => Replied s t h 0x49 1 0x48 0 0 ∧ Reports (no d2 0 0x48) t) ∧
          (pool.all frameBufOk = true → freeSess s.dev (leAt b 0 1 == 1) = none → Completes (exec (.cmdVsopen h) s) fun t =>
            Replied s t h 0x49 1 0x4A 0 0 ∧ Reports (no d2 2 0x4A) t) ∧
          (∀ n, pool.all frameBufOk = true → freeSess s.dev (leAt b 0 1 == 1) = some n → Completes (exec (.cmdVsopen h) s) fun t =>
            let x := sessOf t.dev n
            Replied s t h 0x49 0 0 n 0 ∧ x.isOpen = true ∧ x.enc = (leAt b 0 1 == 1) ∧ x.g = h.fn ∧ x.desc = b ∧ x.pool = pool)))) ∧
    (Accepted s (.cmdVsclose h) →
      let n := h.p0.toNat
      let x := sessOf s.dev n
      let mine : Prop := n < 80 ∧ x.isOpen = true ∧ x.g = h.fn ∧ x.closing = false
      (¬mine → Completes (exec (.cmdVsclose h) s) fun t => Replied s t h 0x4A 1 0x4A 0 0 ∧ Reports (recordErr s.dev rVID_ERR rVID_ERRINFO 2
        (f + n % 64 * 16 + (if 64 ≤ n ∧ n < 80 then 1024 else 0) + 0x4A * 65536)) t) ∧
      (mine → x.busy = false → s.dev.waits = [] → Completes (exec (.cmdVsclose h) s) fun t => Replied s t h 0x4A 0 0 0 0 ∧
        Reports { s.dev with sess := t.dev.sess } t ∧ tfind t.dev.sess n = none ∧ ∀ k, k ≠ n → tfind t.dev.sess k = tfind s.dev.sess k) ∧
      (mine → x.busy = true → Completes (exec (.cmdVsclose h) s) (Reports (modSess { s.dev with
        waits := s.dev.waits ++ [{ op := 0x4A, cmd := h, g := h.fn, key := n }] } n fun x => { x with closing := true, readyAt := 0 }))))

/-- PWRSET waits for its boundary unless a domain does not allow the mode; FWSTAGE checks an image and, with P2 = 1, writes it; SECMSG
answers a secure message; LIFECYCLE begins a transition, and every request of the physical function draws a new nonce. -/
def Obligations.SystemCommands : Prop :=
  ∀ (h : HostCmd) (s : State),
    let f := h.fn.toNat
    (Accepted s (.cmdPwrset h) →
      ((∃ n, n ∈ pwrDoms h ∧ modeOk n h.p2.toNat = false) → Completes (exec (.cmdPwrset h) s) fun t =>
        Replied s t h 0x58 1 0x78 0 0 ∧ Reports s.dev t) ∧
      ((∀ n, n ∈ pwrDoms h → modeOk n h.p2.toNat = true) → Completes (exec (.cmdPwrset h) s) fun t => WaitsBoundary s.dev t 0x58 0 0 h)) ∧
    (∀ i : Instr, i = .cmdFwstageCheck h ∨ i = .cmdFwstageWrite h → Accepted s i →
      let n := h.p1.toNat
      let stat (d : Dev) (v : Nat) : Dev := setReg d rBOOT_FWSTAT v
      (2 ^ 25 < n → Completes (exec i s) fun t => Replied s t h 0x59 1 0x80 0 0 ∧ Reports (stat s.dev 2) t) ∧
      (n ≤ 2 ^ 25 → s.dev.sup.brace = true → Completes (exec i s) fun t => WaitsBoundary s.dev t 0x59 0 0 h) ∧
      (n ≤ 2 ^ 25 → s.dev.sup.brace = false → s.dev.ident.up = false → Completes (exec i s) fun t =>
        Replied s t h 0x59 2 0x61 0 0 ∧ Reports (stat s.dev 2) t) ∧
      (n ≤ 2 ^ 25 → s.dev.sup.brace = false → s.dev.ident.up = true → Completes (exec i s) fun t =>
        match imageOf s.dev (hostPeek s.dev h.p0.toNat n) with
        | none => Replied s t h 0x59 1 0x80 0 0 ∧ Reports (stat (hostRdCount s.dev 0 n) 2) t
        | some (ver, sec, dg) => Replied s t h 0x59 0 0 0 0 ∧
          Reports { stat (hostRdCount s.dev 0 n) 0 with pst := t.dev.pst } t ∧ t.dev.pst = (if h.p2 = 0 then s.dev.pst else
            { s.dev.pst with fwver := BitVec.ofNat 32 ver, imgSec := BitVec.ofNat 6 sec, imgDigest := dg, imgValid := true
                             journal := t.dev.pst.journal, jseq := s.dev.pst.jseq + 2 }) ∧
          (h.p2 = 1 → (t.dev.pst.journal.getLast?.map (·.kind)) = some 11))) ∧
    (Accepted s (.cmdSecmsg h) →
      let n := h.p1.toNat
      (4096 < n → Completes (exec (.cmdSecmsg h) s) fun t => Replied s t h 0x60 1 0x72 0 0 ∧ Reports s.dev t) ∧
      (n ≤ 4096 → s.dev.ident.up = false → Completes (exec (.cmdSecmsg h) s) fun t => Replied s t h 0x60 2 0x61 0 0 ∧ Reports s.dev t) ∧
      (n ≤ 4096 → s.dev.ident.up = true → Completes (exec (.cmdSecmsg h) s) fun t =>
        match Config.spdmRequest (hostPeek s.dev h.p0.toNat n) with
        | none => Replied s t h 0x60 1 0x72 0 0 ∧ Reports (hostRdCount s.dev f n) t
        | some q =>
          let a := answer (hostRdCount (startCmd { s.dev with wlog := [] } 0x60 h) f n) f q
          (func t.dev f).resp = some a.resp ∧
          (a.err ≠ 0 → Replied s t h 0x60 2 a.err 0 0) ∧ (a.err = 0 → Replied s t h 0x60 0 0 (min a.resp.length 4096) 0))) ∧
    (let drawn (d : Dev) (t : State) : Prop := Reports { d with ident := t.dev.ident } t ∧
       t.dev.ident = { s.dev.ident with nonce := t.dev.ident.nonce } ∧ t.dev.free = t.dev.ident.nonce + 4
     let cur := s.dev.pst.lcstate.toNat
     let tgt := h.p0.toNat
     let move := lcMove cur tgt s.dev.pst.rma.toNat
     let idle : Prop := s.dev.ident.resetDue = false ∧ s.dev.pst.lcPend = none
     let token := hostPeek s.dev h.p1.toNat 2484
     let begun (t : State) : Prop := t.dev.bnds.getLast? = some { op := 0x61, cmd := h, g := 0, key := 0 } ∧
       (∀ k : Fn, (func t.dev k.toNat).sess = none ∧ (func t.dev k.toNat).kem = none) ∧
       (gaunt t.dev 0).keyCur = none ∧ (gaunt t.dev 0).keyPrev = none ∧ (gaunt t.dev 0).keyStaged = none ∧ (gaunt t.dev 0).sendGen = none ∧
       t.dev.free = t.dev.ident.nonce + 4
     (∀ c, Refused s (.cmdLifecycle h) 0x61 h c → h.fn = 0 → Completes (exec (.cmdLifecycle h) s) fun t => Replied s t h 0x61 1 c 0 0 ∧ drawn s.dev t) ∧
     (∀ c, Refused s (.cmdLifecycle h) 0x61 h c → h.fn ≠ 0 → Completes (exec (.cmdLifecycle h) s) fun t => Replied s t h 0x61 1 c 0 0 ∧ Reports s.dev t) ∧
     (Accepted s (.cmdLifecycle h) →
       (¬idle ∨ move = none → Completes (exec (.cmdLifecycle h) s) fun t => Replied s t h 0x61 1 0x70 0 0 ∧ drawn s.dev t) ∧
       (idle → (move = some false ∧ h.p2 ≠ 0) ∨ (move = some true ∧ h.p2 ≠ 2484) → Completes (exec (.cmdLifecycle h) s) fun t =>
         Replied s t h 0x61 1 0x71 0 0 ∧ drawn s.dev t) ∧
       (idle → move = some true → h.p2 = 2484 → s.dev.ident.up = true → Completes (exec (.cmdLifecycle h) s) fun t =>
         (tokenOk s.dev tgt token = false → Replied s t h 0x61 1 0x71 0 0 ∧ drawn (hostRdCount s.dev 0 2484) t) ∧
         (tokenOk s.dev tgt token = true → begun t)) ∧
       (idle → move = some false → h.p2 = 0 → Completes (exec (.cmdLifecycle h) s) begun)))

/-! ### Checkpoints, crew blocks, memory -/

/-- CHECKPOINT and RESTORE wait for their end, one for each gauntlet; an item of the copy moves a piece of at most 4 MiB; the last one
ends the command with the bytes copied and CKSTROKE. -/
def Obligations.CheckpointRows : Prop :=
  (∀ (h : HostCmd) (s : State),
    let f := h.fn.toNat
    let c (restore : Bool) : Ckpt :=
      { cmd := h, restore := restore, phase := 0, stroke := 0, shard := 0, off := 0, copied := 0, ranges := [], blks := [] }
    let waits (restore hold : Bool) (op : Byte) : Dev := modG { s.dev with
      ckpts := tput s.dev.ckpts f (c restore), waits := s.dev.waits ++ [{ op := op, cmd := h, g := h.fn, key := 0 }] } f
      fun x => { x with drainHold := x.drainHold || hold }
    (∀ i : Instr, i = .cmdCheckpointDrain h ∨ i = .cmdCheckpointSuspend h → Accepted s i →
      ((tfind s.dev.ckpts f).isSome = true → Completes (exec i s) fun t => Replied s t h 0x2A 1 0x8B 0 0 ∧ Reports s.dev t) ∧
      (tfind s.dev.ckpts f = none → Completes (exec i s) (Reports (waits false (h.p0 == 0) 0x2A)))) ∧
    (Accepted s (.cmdRestore h) →
      let free : Prop := tfind s.dev.ckpts f = none ∧ ∀ p, p ∈ s.dev.steps → p.2.g.toNat ≠ f
      (¬free → Completes (exec (.cmdRestore h) s) fun t => Replied s t h 0x2B 1 0x8B 0 0 ∧ Reports s.dev t) ∧
      (free → Completes (exec (.cmdRestore h) s) (Reports (waits true true 0x2B))))) ∧
  (∀ (g : Gnt) (s : State), tfind s.dev.ckpts g.toNat = none → Completes (exec (.checkpointCopyItem g) s) fun t => t.dev = { s.dev with wlog := [] }) ∧
  (∀ (g : Gnt) (c : Ckpt) (s : State), tfind s.dev.ckpts g.toNat = some c → s.dev.wlog = [] →
    let area := ckArea s.dev g.toNat c.cmd.p1.toNat
    let set (d : Dev) (c : Ckpt) : Dev := { d with ckpts := tput d.ckpts g.toNat c }
    (c.restore = false → c.phase = 0 → Completes (exec (.checkpointCopyItem g) s) fun t => t.dev = { s.dev with wlog := [] }) ∧
    (∀ a d1, area = some a → c.restore = false → c.phase ≠ 0 → c.blks.length ≤ c.shard → c.shard < ckShards a + c.blks.length →
      let i := c.shard - c.blks.length
      let n := min ckItem (ckBytes a i - c.off)
      c.off + n < ckBytes a i → ckCopy s.dev g.toNat (ckSrc a i + c.off) (a.va + ckCopyOff a i + c.off) n = .ok d1 →
      Completes (exec (.checkpointCopyItem g) s) fun t =>
        t.dev = { set (inc64 d1 rTEL_HASHBYTES n) { c with off := c.off + n, copied := c.copied + n } with wlog := [] }) ∧
    (∀ a qs ss, area = some a → c.restore = false → c.phase ≠ 0 → ckShards a + c.blks.length ≤ c.shard → rsSections s.dev g.toNat a = some (qs, ss) →
      Completes (exec (.checkpointCopyItem g) s) fun t => tfind t.dev.ckpts g.toNat = none ∧ (func t.dev g.toNat).reply = some
        { tag := c.cmd.tag, status := 0, reason := 0, opcode := 0x2A, res0 := BitVec.ofNat 64 c.copied, res1 := 0, stroke := c.stroke } ∧
        t.dev.steps = s.dev.steps ∧ t.dev.seats = s.dev.seats) ∧
    (∀ a qs ss, area = some a → c.restore = true → c.phase = 0 → rsAreaOk a = true → ckFormOk s.dev g.toNat a = true →
      rsSections s.dev g.toNat a = some (qs, ss) →
      Completes (exec (.checkpointCopyItem g) s) fun t =>
      (rsDigests a qs ss = true → t.dev = { set s.dev { c with
        phase := if ckShards a = 0 then 3 else 1, stroke := BitVec.ofNat 64 (w64At a.hdr 0x10), ranges := ckRanges a true } with wlog := [] }) ∧
      (rsDigests a qs ss = false → c.cmd.fn = g → tfind t.dev.ckpts g.toNat = none ∧
        ((func t.dev g.toNat).reply.map fun r => (r.tag, r.status, r.reason, r.opcode)) = some (c.cmd.tag, 2, 0x89, 0x2B))) ∧
    (∀ a, area = some a → c.restore = true → c.phase = 1 →
      let n := min ckItem (ckBytes a c.shard - c.off)
      c.off + n < ckBytes a c.shard → Completes (exec (.checkpointCopyItem g) s) fun t =>
        t.dev = { set (inc64 s.dev rTEL_HASHBYTES n) { c with off := c.off + n } with wlog := [] }) ∧
    (∀ a d1, area = some a → c.restore = true → c.phase = 2 →
      let n := min ckItem (ckBytes a c.shard - c.off)
      c.off + n < ckBytes a c.shard → ckCopy s.dev g.toNat (a.va + ckCopyOff a c.shard + c.off) (ckSrc a c.shard + c.off) n = .ok d1 →
      Completes (exec (.checkpointCopyItem g) s) fun t =>
        t.dev = { set d1 { c with off := c.off + n, copied := c.copied + n } with wlog := [] }))

/-- A save that ends puts the crew block into its slot and the crew is free of the steps; one that cannot be written wipes the crew. A
restore that ends frees the slot, and the crew holds the steps of the block. -/
def Obligations.CrewBlocksMove : Prop :=
  (∀ (crew : CrewNo) (s : State),
    let c := crew.toNat
    let x := coxOf s.dev c
    (x.saving = false → Completes (exec (.crewSaveDone crew) s) fun t => t.dev = { s.dev with wlog := [] }) ∧
    (x.saving = true → savingSlot s.dev c = none → Completes (exec (.crewSaveDone crew) s) fun t =>
      t.dev = { modCox s.dev c (fun y => { y with saving := false }) with wlog := [] }) ∧
    (∀ key, x.saving = true → savingSlot s.dev c = some key → s.dev.wlog = [] →
      let n := s.dev.blocks.length
      let ks := tvals x.slots
      (∀ d1, writeAll s.dev (key / 64) (saveWrites s.dev (key / 64) (key % 64) c n s.dev.strk.count.toNat) = .ok d1 →
        Completes (exec (.crewSaveDone crew) s) fun t => t.dev.mem = d1.mem ∧ (coxOf t.dev c).saving = false ∧
          tfind t.dev.saves key = some (c, some n) ∧ tfind t.dev.blocks n = some
            { crew := c, stroke := s.dev.strk.count, cox := x, seats := (List.range 9).map fun i => (i, seatOf s.dev (16 * c + i))
              steps := s.dev.steps.filter fun p => ks.contains p.1 } ∧
          t.dev.steps = s.dev.steps ∧ ∀ o, o ≠ c → coxOf t.dev o = coxOf s.dev o) ∧
      (∀ e, writeAll s.dev (key / 64) (saveWrites s.dev (key / 64) (key % 64) c n s.dev.strk.count.toNat) = .error e →
        Completes (exec (.crewSaveDone crew) s) fun t => tfind t.dev.saves key = none ∧ (coxOf t.dev c).saving = false ∧
          (∀ i, i < 9 → (seatOf t.dev (16 * c + i)).wiping = true ∧ (seatOf t.dev (16 * c + i)).ctxs = []) ∧ ∀ v, v / 16 ≠ c →
          seatOf t.dev v = seatOf s.dev v))) ∧
  (∀ (crew : CrewNo) (bad : List CtxAt) (s : State), bad.all CtxAt.wf = true →
    let c := crew.toNat
    let wiping : Prop := ∃ i, i < 9 ∧ (seatOf s.dev (16 * c + i)).wiping = true
    let block := s.dev.saves.findSome? fun p => match p.2.2 with
      | some n => match tfind s.dev.blocks n with
        | some b => if b.crew = c ∧ b.cox.slots.any (fun q => (tfind s.dev.steps q.2).any fun st => st.st == .admitted) then some (p.1, b) else none
        | none => none
      | none => none
    ((coxOf s.dev c).restoring = false ∨ wiping → Completes (exec (.crewRestoreDone crew bad) s) fun t => t.dev = { s.dev with wlog := [] }) ∧
    ((coxOf s.dev c).restoring = true → ¬wiping → block = none → Completes (exec (.crewRestoreDone crew bad) s) fun t =>
      t.dev = { modCox s.dev c (fun y => { y with restoring := false }) with wlog := [] }) ∧
    (∀ key b, (coxOf s.dev c).restoring = true → ¬wiping → block = some (key, b) → Completes (exec (.crewRestoreDone crew bad) s) fun t =>
      (coxOf t.dev c).restoring = false ∧ tfind t.dev.saves key = none ∧ (∀ k, k ≠ key → tfind t.dev.saves k = tfind s.dev.saves k) ∧
      ((∀ q, q ∈ b.cox.slots → (tfind s.dev.steps q.2).isSome = true) → (coxOf t.dev c).slots = b.cox.slots)))

/-- Accesses of units and errors found: an access moves its bytes or fails its step; an uncorrectable error is recorded, reported to its
owner, and fails the command or the step that read the word. -/
def Obligations.MemoryAccessAndErrors : Prop :=
  (∀ (n : StepName) (unit : W16) (va : W64) (write : Bool) (data : Bytes) (len : W16) (s : State),
    let i : Instr := .memAccess n unit va write data len
    (findStep s.dev n = none ∨ (∃ k, findStep s.dev n = some k ∧ canRun s.dev k = false) →
      Completes (exec i s) fun t => t.dev = { s.dev with wlog := [] }) ∧
    (∀ k d1, findStep s.dev n = some k → canRun s.dev k = true → s.dev.wlog = [] → write = true → vaWrite s.dev n.g.toNat va.toNat data = .ok d1 →
      Completes (exec i s) fun t => t.dev = { d1 with wlog := [] }) ∧
    (∀ k b d1, findStep s.dev n = some k → canRun s.dev k = true → s.dev.wlog = [] → write = false →
      vaGet s.dev n.g.toNat va.toNat len.toNat = .ok (b, d1) → Completes (exec i s) fun t => t.dev = d1) ∧
    (∀ k st e, findStep s.dev n = some k → canRun s.dev k = true → tfind s.dev.steps k = some st →
      (write = true ∧ vaWrite s.dev n.g.toNat va.toNat data = .error e) ∨
        (write = false ∧ vaGet s.dev n.g.toNat va.toNat len.toNat = .error e) →
      Completes (exec i s) (Reports { s.dev with steps := tput s.dev.steps k { st with failing := some (BitVec.ofNat 8 e.code, false) } }))) ∧
  (∀ s : State, Completes (exec (.patrolScrub .clean) s) fun t => t.dev = { s.dev with wlog := [] }) ∧
  (∀ (dram : Bool) (s : State), Completes (exec (.patrolScrub (.corrected dram)) s) fun t =>
    t.dev = { inc32 s.dev (if dram = true then rMEM_CECNT_DRAM else rMEM_CECNT_SRAM) 1 with wlog := [] }) ∧
  (∀ (x : ErrSite) (s : State), Completes (exec (.patrolScrub (.uncorrectable x)) s) fun t => Reports (ueRecord s.dev x (ueOwner s.dev x) true) t ∧
    reg t.dev rMEM_UEADDR = x.addr.toNat ∧
    (x.tier = 2 → s.dev.pst.repairs.length < 65536 → PendingRepair t.dev 3 (x.addr.toNat / 1024 * 1024)) ∧
    (x.tier = 3 → s.dev.pst.repairs.length < 65536 → PendingRepair t.dev 4 (x.addr.toNat / 4096 * 4096))) ∧
  (∀ (x : ErrSite) (s : State),
    let noted := ueRecord s.dev x (ueOwner s.dev x) false
    let unit := x.unitCode.toNat
    let g := (ueOwner s.dev x).getD 0
    (unit / 4096 ≠ 6 → unit ≠ 0x5008 → unit ≠ 0x5009 → Completes (exec (.memUeRead x none) s) (Reports noted)) ∧
    (∀ c, unit = 0x5008 → (func s.dev g).cur = some c → c.started = true → 8 ≤ c.op.toNat → c.op.toNat ≤ 10 → c.cmd.fn.toNat = g →
      Completes (exec (.memUeRead x none) s) fun t => Reports noted t ∧
        Replied s t c.cmd c.op.toNat (if c.off = 0 then 1 else 2) 6 (if c.op = 10 then 0 else c.off) 0) ∧
    (∀ c st, unit = 0x5009 → tfind s.dev.ckpts g = some c → c.cmd.fn.toNat = g → Completes (exec (.memUeRead x st) s) fun t =>
      tfind t.dev.ckpts g = none ∧ ((func t.dev g).reply.map fun r => (r.tag, r.status, r.reason)) = some (c.cmd.tag, 2, 6)) ∧
    (∀ n k st, unit / 4096 ∈ [1, 2, 3, 4] → findStep s.dev n = some k → tfind s.dev.steps k = some st → st.st ≠ .ended →
      Completes (exec (.memUeRead x (some n)) s) (Reports { noted with
        steps := tput s.dev.steps k { st with failing := st.failing <|> some (6, false) } })))

/-- The end of a wipe or of zeroing frees what it cleaned; a gauntlet whose last wipe has ended is gone. A domain that is still returning
to on is not wiped yet. -/
def Obligations.WipesEnd : Prop :=
  (∀ (w : WipeTarget) (s : State), w.wf = true → (∃ n, n ∈ wipeDom w ∧ (domOf s.dev n).state = 3) →
    Completes (exec (.wipeDone w) s) fun t => t.dev = { s.dev with wlog := [] }) ∧
  (∀ (w : WipeTarget) (s : State), w.wf = true → (∀ n, n ∈ wipeDom w → (domOf s.dev n).state ≠ 3) → s.dev.waits = [] →
    let cleaned : Dev := match w with
      | .seat u => if (seatOf s.dev (seatIdx u)).wiping = true then modSeat s.dev (seatIdx u) fun x => { x with wiping := false } else s.dev
      | .cache c => if (coxOf s.dev c.toNat).wiping = true then modCox s.dev c.toNat fun x => { x with wiping := false } else s.dev
      | .extent die e => if 60 * die.toNat + e.toNat ∈ s.dev.wipeExt then
          setExt { s.dev with wipeExt := s.dev.wipeExt.filter (· != 60 * die.toNat + e.toNat) } (false, 60 * die.toNat + e.toNat) 0 0 else s.dev
      | .media => { s.dev with wipeMedia := false }
    Completes (exec (.wipeDone w) s) fun t => t.dev = { cleaned with gaunts := t.dev.gaunts, wlog := [] } ∧
      ∀ g, g < 16 → gaunt t.dev g = if (gaunt s.dev g).tearing = 2 ∧ (∀ x, x ∈ (gaunt s.dev g).wipes → wipeOn cleaned x = false) then
        { Gaunt.reset g with
          inst := (gaunt s.dev g).inst, acct := (gaunt s.dev g).acct, charged := (gaunt s.dev g).charged
          acctBorn := (gaunt s.dev g).acctBorn, acctDied := true } else gaunt s.dev g) ∧
  (∀ (e : BitVec 11) (s : State),
    (extState s.dev (true, e.toNat) ≠ 2 → Completes (exec (.zeroingDone e) s) fun t => t.dev = { s.dev with wlog := [] }) ∧
    (extState s.dev (true, e.toNat) = 2 → s.dev.waits = [] → (∀ g, g < 16 → (gaunt s.dev g).tearing ≠ 2) → Completes (exec (.zeroingDone e) s) fun t =>
      t.dev = { account (setExt s.dev (true, e.toNat) 0 0) 0 (fun a => { a with dramb := a.dramb + BitVec.ofNat 64 (2 ^ 30) }) with wlog := [] }))

/-! ### Ingest and video -/

/-- A free decode context takes the lowest unstarted sample of the gauntlet whose turn comes first; a record parsed enters its shard's
list; decode items go to the end of their record, and a batch or a descriptor whose parts are final is complete. -/
def Obligations.IngestParsesAndCompletes : Prop :=
  (∀ (ctx : BitVec 6) (s : State),
    let c := ctx.toNat
    let fenced : Prop := ∃ r, r ∈ s.dev.pst.repairs ∧ r.kind = 9 ∧ r.state = 2 ∧ r.unit.toNat = 256 + c
    let turn (i : Nat) : Nat := (s.dev.decTurn.toNat + 1 + i) % 16
    ((decOf s.dev c).busy = true ∨ fenced ∨ (∀ i, i < 16 → unstarted s.dev (turn i) = []) →
      Completes (exec (.decodeContextTake ctx) s) fun t => t.dev = { s.dev with wlog := [] }) ∧
    (∀ i smp k de slot, (decOf s.dev c).busy = false → ¬fenced → i < 16 → (∀ j, j < i → unstarted s.dev (turn j) = []) →
      lowest (unstarted s.dev (turn i)) = some (smp, k, de, slot) → Completes (exec (.decodeContextTake ctx) s) fun t =>
        t.dev = { s.dev with decTurn := BitVec.ofNat 4 (turn i), decs := t.dev.decs, wlog := [] } ∧ decOf t.dev c = { DecCtx.reset with
          busy := true, step := k, desc := de, slot := slot, sample := BitVec.ofNat 64 smp, g := BitVec.ofNat 4 (turn i) } ∧
        ∀ o, o ≠ c → decOf t.dev o = decOf s.dev o)) ∧
  (∀ (n : StepName) (desc : BitVec 2) (shard : W32) (s : State),
    let i := desc.toNat
    let sh := shard.toNat
    (liveStep s.dev n = none ∨ (∃ k st, liveStep s.dev n = some (k, st) ∧ (tfind st.ings i = none ∨ w32At (ingDesc st i) 8 ≤ sh)) →
      Completes (exec (.recordParse n desc shard) s) fun t => t.dev = { s.dev with wlog := [] }) ∧
    (∀ k st r se pos found bs d1, liveStep s.dev n = some (k, st) → tfind st.ings i = some r → sh < w32At (ingDesc st i) 8 →
      shardEntry s.dev st.g.toNat (ingDesc st i) sh = .ok se → tfind r.parse sh = some (pos, found) → pos < 2 ^ 64 → found < w32At se 0x10 →
      (w32At se 0x14).testBit 0 = true → w64At se 0x18 = 0 →
      vaGet s.dev st.g.toNat ((w64At se 0 + pos) % 2 ^ 64) (w64At se 8 - pos) = .ok (bs, d1) → 24 + w32At bs 4 ≤ bs.length →
      recSound (bs.take 24) = true → leAt bs 2 1 ≠ 1 → leAt bs 2 1 ≠ 2 → (leAt bs 2 1 ≠ 0 ∨ w32At bs 8 = found) →
      let body := (bs.drop 24).take (w32At bs 4)
      let reason := if w32At bs 12 ≠ crc32c body then 3 else match fieldsOf (body.length + 1) body with
        | none => 5
        | some l => if tagsOk l = true then 0 else 5
      Completes (exec (.recordParse n desc shard) s) fun t =>
        (∃ st' r', tfind t.dev.steps k = some st' ∧ tfind st'.ings i = some r' ∧ tfind r'.recs (sh * 2 ^ 32 + found) = some (pos + 24, w32At bs 4, reason) ∧
          tfind r'.parse sh = some (pos + 24 + w32At bs 4, found + 1)) ∧ t.dev.mem = s.dev.mem ∧ t.dev.seats = s.dev.seats)) ∧
  (∀ (n : StepName) (desc : BitVec 2) (s : State),
    let i := desc.toNat
    (∀ k st r (batch : W16), liveStep s.dev n = some (k, st) → tfind st.ings i = some r →
      let b := ingDesc st i
      let m := batch.toNat
      let slots := (List.range (idNb b)).map fun j => (m * idNb b + j, tfind r.finals (m * idNb b + j))
      let fs := slots.filterMap fun x => x.2.map fun f => (x.1, f)
      let count (t : FinalSlot → Bool) : Nat := (fs.filter fun x => t x.2).length
      let reps := fs.filter fun x => x.2.reason != 0
      (idNbatch b ≤ m ∨ m ∈ r.batches ∨ (∃ j, j < idNb b ∧ tfind r.finals (m * idNb b + j) = none) →
        Completes (exec (.batchComplete n desc batch) s) fun t => t.dev = { s.dev with wlog := [] }) ∧
      (∀ d1, m < idNbatch b → m ∉ r.batches → (∀ j, j < idNb b → (tfind r.finals (m * idNb b + j)).isSome = true) → s.dev.wlog = [] →
        vaWrite s.dev st.g.toNat ((batchVa b m + w32At b 0x2C) % 2 ^ 64) (padTo 64 (leBytes 8 (r.first.toNat / idNb b + m) ++
          leBytes 4 (count fun f => f.flags.testBit 0) ++ leBytes 4 (count fun f => f.flags.testBit 1) ++
          leBytes 4 (count fun f => f.flags.testBit 2) ++ leBytes 4 reps.length ++ leBytes 8 ((r.first.toNat + m * idNb b) % 2 ^ 64) ++
          leBytes 8 (s.dev.strk.count + 1).toNat) ++ reps.flatMap fun x => reportRec s.dev st.g.toNat b r.first.toNat x.1 x.2) = .ok d1 →
        Completes (exec (.batchComplete n desc batch) s) fun t => t.dev = { d1 with wlog := [], steps := t.dev.steps } ∧
          tfind t.dev.steps k = some { st with ings := tput st.ings i { r with batches := r.batches ++ [m] } })) ∧
    (∀ (batch : W16), liveStep s.dev n = none → Completes (exec (.batchComplete n desc batch) s) fun t => t.dev = { s.dev with wlog := [] }) ∧
    (liveStep s.dev n = none → Completes (exec (.ingestDescriptorComplete n desc) s) fun t => t.dev = { s.dev with wlog := [] }) ∧
    (∀ k st r, liveStep s.dev n = some (k, st) → tfind st.ings i = some r →
      let all : Prop := ∀ m, m < idNbatch (ingDesc st i) → m ∈ r.batches
      (¬all → Completes (exec (.ingestDescriptorComplete n desc) s) fun t => t.dev = { s.dev with wlog := [] }) ∧
      (all → Completes (exec (.ingestDescriptorComplete n desc) s) fun t => t.dev =
        { s.dev with wlog := [], steps := tput s.dev.steps k { st with ings := tput st.ings i { r with complete := true } } })))

/-- A decode item takes the record or makes one output; a sample whose outputs are made writes its slot record, and one whose budget ends
is padded with reason 2: then the slot is final and the context free. -/
def Obligations.SamplesBecomeFinal : Prop :=
  ∀ (ctx : BitVec 6) (s : State),
    let c := ctx.toNat
    let wide (k : Nat) : Nat := (k + 1) % 2 ^ 64
    (liveSample s.dev c = none → ∀ i : Instr, i = .decodeItem ctx ∨ i = .sampleBudgetExpiry ctx ∨ i = .sampleComplete ctx →
      Completes (exec i s) fun t => t.dev = { s.dev with wlog := [] }) ∧
    (∀ x st r, liveSample s.dev c = some (x, st, r) → s.dev.wlog = [] →
      let b := ingDesc st x.desc
      let g := st.g.toNat
      let rva := (batchVa b (x.slot / idNb b) + w32At b 0x28 + 32 * (x.slot % idNb b)) % 2 ^ 64
      let (n, d0) := freeCycles s.dev
      let dc := account d0 g fun a => { a with deccyc := a.deccyc + BitVec.ofNat 64 n }
      (x.pad = true ∨ overBudget st x = true ∨ idNout b < x.item → Completes (exec (.decodeItem ctx) s) fun t => t.dev = { s.dev with wlog := [] }) ∧
      (x.pad = false → overBudget st x = false → x.item ≤ idNout b → ∀ sh idx off len reason,
        locate s.dev g b x.sample.toNat = .ok (sh, idx) → recordAt r sh idx = some (off, len, reason) →
        (x.item = 0 → Completes (exec (.decodeItem ctx) s) fun t => t.dev = { dc with decs := t.dev.decs, wlog := [] } ∧ decOf t.dev c =
          if reason = 0 then { x with item := 1 } else { x with
            item := idNout b + 1, pad := true, reason := if x.reason = 0 then reason else x.reason
            ftag := if x.reason = 0 then 0 else x.ftag, outNo := if x.reason = 0 then 255 else x.outNo }) ∧
        (∀ fs d1 res, x.item ≠ 0 → sampleFields dc g b sh off len = .ok (fs, d1) →
          outputOf d1 g (idOut b (x.item - 1)) fs (w32At b 0x40) (sampleDraw d1 g b x.sample.toNat) = .ok res →
          let o := x.item - 1
          let y : DecCtx := if res.reason ≠ 0 ∧ x.reason = 0 then { x with reason := res.reason, ftag := res.tag, outNo := o } else x
          (∀ d2, res.pad = false → vaWrite d1 g (slotVa b o x.slot) (if res.missing = true then padBytes (idOut b o) else res.data) = .ok d2 →
            Completes (exec (.decodeItem ctx) s) fun t => t.dev.mem = d2.mem ∧ decOf t.dev c = { y with
              item := x.item + 1, trunc := x.trunc || res.trunc, outv := if res.missing = true then x.outv else x.outv ||| 2 ^ o
              lens := x.lens ++ [BitVec.ofNat 32 res.len] }) ∧
          (res.pad = true → Completes (exec (.decodeItem ctx) s) fun t => t.dev.mem = s.dev.mem ∧ decOf t.dev c =
            { (if x.reason = 0 then { x with reason := res.reason, ftag := res.tag, outNo := o } else x) with pad := true, item := idNout b + 1 }))) ∧
      (overBudget st x = false → Completes (exec (.sampleBudgetExpiry ctx) s) fun t => t.dev = { s.dev with wlog := [] }) ∧
      (∀ d1 d2, overBudget st x = true → padSlot g b x.slot (List.range (idNout b)) s.dev = .ok d1 →
        vaWrite d1 g rva (sampleRecord { x with reason := 2, pad := true } 4) = .ok d2 →
        Completes (exec (.sampleBudgetExpiry ctx) s) fun t => t.dev.mem = d2.mem ∧ SlotFinal t c x 4 2 2 ∧
          reg t.dev rING_SAMPCNT = wide (reg s.dev rING_SAMPCNT) ∧ reg t.dev rING_PADCNT = satN 32 (reg s.dev rING_PADCNT + 1) ∧
          reg t.dev rING_BUDGETCNT = satN 32 (reg s.dev rING_BUDGETCNT + 1) ∧ reg t.dev rING_CONCCNT = reg s.dev rING_CONCCNT) ∧
      (overBudget st x = true ∨ x.item ≤ idNout b → Completes (exec (.sampleComplete ctx) s) fun t => t.dev = { s.dev with wlog := [] }) ∧
      (∀ d1, overBudget st x = false → idNout b < x.item → x.pad = false →
        let conc := decide (x.reason ≠ 0)
        let valid := !(conc && (idCtl b).testBit 5)
        let flags := b2n valid + 2 * b2n conc + 8 * b2n x.trunc
        vaWrite s.dev g rva (sampleRecord x flags) = .ok d1 → Completes (exec (.sampleComplete ctx) s) fun t =>
          t.dev.mem = d1.mem ∧ SlotFinal t c x flags x.reason (b2n conc) ∧ reg t.dev rING_SAMPCNT = wide (reg s.dev rING_SAMPCNT) ∧
          reg t.dev rING_CONCCNT = (if conc = true then satN 32 (reg s.dev rING_CONCCNT + 1) else reg s.dev rING_CONCCNT) ∧ reg t.dev rING_PADCNT = reg s.dev rING_PADCNT) ∧
      (∀ d1 d2, overBudget st x = false → idNout b < x.item → x.pad = true → padSlot g b x.slot (List.range (idNout b)) s.dev = .ok d1 →
        let flags := 4
        vaWrite d1 g rva (sampleRecord x flags) = .ok d2 → Completes (exec (.sampleComplete ctx) s) fun t =>
          t.dev.mem = d2.mem ∧ SlotFinal t c x flags x.reason 2 ∧ reg t.dev rING_PADCNT = satN 32 (reg s.dev rING_PADCNT + 1)))

/-- A free pipe takes the next frame of the session that is ready; block rows go to the frame's buffer; the watchdog and a row past its
buffer conceal the rest; a frame that ends frees its pipe and is counted. -/
def Obligations.CodecPipes : Prop :=
  (∀ (p : PipeNo) (s : State), pipeWf p = true →
    let x := pipeOf s.dev p.toNat
    (x.busy = true ∨ x.fenced = true → Completes (exec (.videoFrameStart p) s) fun t => t.dev = { s.dev with wlog := [] }) ∧
    (x.busy = false ∨ x.fenced = true → ∀ i : Instr, i = .videoFramePublish p ∨ i = .encodeFrameEmit p ∨ (∃ n, i = .videoBlockRowItem p n) →
      Completes (exec i s) fun t => t.dev = { s.dev with wlog := [] }) ∧
    (x.busy = false ∨ x.out = none → Completes (exec (.videoWatchdog p) s) fun t => t.dev = { s.dev with wlog := [] })) ∧
  (∀ (p : PipeNo) (s : State), pipeWf p = true → (pipeOf s.dev p.toNat).busy = false → (pipeOf s.dev p.toNat).fenced = false → s.dev.wlog = [] →
    let d := markReady s.dev
    (chooseSess d p.toNat = none → Completes (exec (.videoFrameStart p) s) fun t => t.dev = after markReady s) ∧
    (∀ n i bs, chooseSess d p.toNat = some n → p.toNat < 16 → inputBytes d (sessOf d n) = .ok bs → vsFree (sessOf d n) = some i →
      let o := Config.video (vsCodec (sessOf d n)) bs (sessOf d n).frames
      Completes (exec (.videoFrameStart p) s) fun t => let y := pipeOf t.dev p.toNat
        o.damage ≠ 2 → ((sessOf d n).discont = true → o.key = true) → (o.key = true → poolHolds (sessOf d n) o = true) →
        y.busy = true ∧ y.sess = n ∧ y.buf = i ∧ y.out = some o ∧ (sessOf t.dev n).busy = true ∧ (sessOf t.dev n).readyAt = 0 ∧
        (sessOf t.dev n).frames = (sessOf d n).frames + 1 ∧ (sessOf t.dev n).input = dropInput (sessOf d n).input (max 1 o.used)) ∧
    (∀ n i fi va pts rest, chooseSess d p.toNat = some n → 16 ≤ p.toNat → (sessOf d n).encIn = (fi, va, pts) :: rest → vsFree (sessOf d n) = some i →
      Completes (exec (.videoFrameStart p) s) fun t => let y := pipeOf t.dev p.toNat
        y.busy = true ∧ y.sess = n ∧ y.buf = i ∧ y.out = none ∧ y.enc = (fi, va) ∧ y.pts = pts ∧ (sessOf t.dev n).busy = true ∧
        (sessOf t.dev n).encIn = rest)) ∧
  (∀ (p : PipeNo) (rows : W16) (s : State), pipeWf p = true → (pipeOf s.dev p.toNat).busy = true → (pipeOf s.dev p.toNat).fenced = false →
    let x := pipeOf s.dev p.toNat
    (x.out = none → Completes (exec (.videoBlockRowItem p rows) s) fun t =>
      t.dev = { modPipe s.dev p.toNat (fun y => { y with row := y.row + rows.toNat }) with wlog := [] }) ∧
    (∀ o, x.out = some o →
      let w := o.width * vidSs o
      let sx := sessOf s.dev x.sess
      let k := min (rows.toNat * o.rowLines) (o.height - x.row * o.rowLines)
      (o.height ≤ x.row * o.rowLines → Completes (exec (.videoBlockRowItem p rows) s) fun t => t.dev = { s.dev with wlog := [] }) ∧
      (∀ d1, x.row * o.rowLines < o.height → s.dev.wlog = [] → putLines x.sess (vsBuf sx x.buf) w o.luma o.chroma k (x.row * o.rowLines) s.dev = (d1, true) →
        Completes (exec (.videoBlockRowItem p rows) s) fun t =>
          t.dev = { modPipe d1 p.toNat (fun y => { y with row := y.row + rows.toNat }) with wlog := [] }) ∧
      (∀ d1, x.row * o.rowLines < o.height → s.dev.wlog = [] → putLines x.sess (vsBuf sx x.buf) w o.luma o.chroma k (x.row * o.rowLines) s.dev = (d1, false) →
        Completes (exec (.videoBlockRowItem p rows) s) fun t => reg t.dev rVID_BOUNDCNT = satN 32 (reg s.dev rVID_BOUNDCNT + 1) ∧
          pipeOf t.dev p.toNat = { x with row := max x.row o.height, flags := x.flags ||| 17, reason := if x.reason = 0 then 9 else x.reason }) ∧
      (Completes (exec (.videoWatchdog p) s) fun t => reg t.dev rVID_WDOGCNT = satN 32 (reg s.dev rVID_WDOGCNT + 1) ∧
        pipeOf t.dev p.toNat = { x with row := max x.row o.height, flags := x.flags ||| 9, reason := if x.reason = 0 then 7 else x.reason }) ∧
      (x.row * o.rowLines < o.height → x.row < o.height → Completes (exec (.videoFramePublish p) s) fun t => t.dev = { s.dev with wlog := [] }) ∧
      (o.height ≤ x.row * o.rowLines ∨ o.height ≤ x.row → Completes (exec (.videoFramePublish p) s) fun t => (pipeOf t.dev p.toNat).busy = false ∧
        reg t.dev rVID_FRAMECNT = (reg s.dev rVID_FRAMECNT + 1) % 2 ^ 64 ∧ (sx.closing = true → tfind t.dev.sess x.sess = none)) ∧
      (Completes (exec (.encodeFrameEmit p) s) fun t => t.dev = { s.dev with wlog := [] })) ∧
    (p.toNat < 16 → Completes (exec (.encodeFrameEmit p) s) fun t => t.dev = { s.dev with wlog := [] }) ∧
    (x.out = none → 16 ≤ p.toNat → (sessOf s.dev x.sess).isOpen = true → s.dev.wlog = [] →
      let d := vidPull s.dev x.sess
      let sx := sessOf d x.sess
      (x.row * 64 < leAt sx.desc 0x2A 2 → Completes (exec (.encodeFrameEmit p) s) fun t => pipeOf t.dev p.toNat = x) ∧
      (∀ b fr q, leAt sx.desc 0x2A 2 ≤ x.row * 64 → vaRead d sx.g.toNat x.enc.2.toNat 64 = .ok b → encFrame d sx b = .ok fr → findQ d sx.g.toNat (vsQueue sx 2) = some q →
        (queue d q).enable = true → qOk (queue d q) = true → occ (queue d q) < 2 ^ (queue d q).nlog.toNat →
        Completes (exec (.encodeFrameEmit p) s) fun t =>
          ((layBits sx.bufs (Config.encode sx.desc fr sx.frames x.enc.1)).isSome = true → (pipeOf t.dev p.toNat).busy = false ∧
          reg t.dev rVID_FRAMECNT = (reg s.dev rVID_FRAMECNT + 1) % 2 ^ 64))))

/-! ### Queues -/

/-- A sound queue takes what is written: a credited entry under its credit, an uncredited one behind the marker of what was dropped, or
counted as dropped; a class E write overwrites the oldest entry of a full queue and carries its ESEQ. FLUSH empties a class U queue and
returns its credits, and DROPREST of an empty class D queue drops what arrives; of another class, or from a gauntlet that does not read
the queue, they change nothing but the status of the writer's step. -/
def Obligations.QueueRows : Prop :=
  ((∀ (n : QNo) (item : Bytes) (s : State),
    let x := queue s.dev n.toNat
    let cut := padTo (2 ^ x.esz.toNat) item
    let free := 2 ^ x.nlog.toNat - occ x
    (∀ credited, (n.toNat < 64 ∨ 1792 ≤ n.toNat ∨ x.enable = false ∨ x.cls = 1) → Completes (exec (.queueWriteL n item credited) s) fun t =>
      t.dev = { s.dev with wlog := [] }) ∧
    (64 ≤ n.toNat → n.toNat < 1792 → x.enable = true → qOk x = true → x.int = true →
      (x.cls = 0 ∨ (x.cls = 2 ∧ x.dropping = false) ∨ (x.cls = 3 ∧ s.dev.sess = []) → x.cred.avail ≠ 0 → free ≠ 0 → Completes (exec (.queueWriteL n item true) s) fun t =>
        t.dev = { s.dev with queues := t.dev.queues, wlog := [] } ∧ queue t.dev n.toNat = { x with
          ents := tput x.ents (slotOf x x.wp) cut, wp := x.wp + 1, wpx := ~~~(x.wp + 1), written := x.written + 1
          cred := { x.cred with avail := x.cred.avail - 1 } } ∧ ∀ o, o ≠ n.toNat → queue t.dev o = queue s.dev o) ∧
      (x.cls = 2 → x.dropping = true → Completes (exec (.queueWriteL n item true) s) fun t =>
        t.dev = { modQ s.dev n.toNat (fun y => { y with
          dropping := !isLast item, drops := BitVec.ofNat 32 (satN 32 (y.drops.toNat + 1)) }) with wlog := [] }) ∧
      (x.cls = 0 ∨ (x.cls = 2 ∧ x.dropping = false) → x.cred.avail = 0 ∨ free = 0 → Completes (exec (.queueWriteL n item true) s) fun t =>
        t.dev = { s.dev with wlog := [] }) ∧
      (x.cls = 0 → 2 ≤ free → x.penddrop = 0 → Completes (exec (.queueWriteL n item false) s) fun t =>
        t.dev = { s.dev with queues := t.dev.queues, wlog := [] } ∧ queue t.dev n.toNat = { x with
          ents := tput x.ents (slotOf x x.wp) cut, wp := x.wp + 1, wpx := ~~~(x.wp + 1), written := x.written + 1 }) ∧
      (x.cls = 0 → 2 ≤ free → x.penddrop ≠ 0 → Completes (exec (.queueWriteL n item false) s) fun t =>
        t.dev = { s.dev with queues := t.dev.queues, wlog := [] } ∧ queue t.dev n.toNat = { x with
          ents := tput (tput x.ents (slotOf x x.wp) (padTo (2 ^ x.esz.toNat) (gapMarker (x.gapidx + 1) x.penddrop.toNat x.gapStroke (2 ^ x.esz.toNat))))
            (slotOf x (x.wp + 1)) cut
          wp := x.wp + 2, wpx := ~~~(x.wp + 2), written := x.written + 2, gapidx := x.gapidx + 1, penddrop := 0 }) ∧
      (x.cls = 0 → free = 1 → Completes (exec (.queueWriteL n item false) s) fun t =>
        let since := if x.penddrop = 0 then s.dev.strk.count else x.gapStroke
        t.dev = { s.dev with queues := t.dev.queues, wlog := [] } ∧ queue t.dev n.toNat = { x with
          ents := tput x.ents (slotOf x x.wp) (padTo (2 ^ x.esz.toNat) (gapMarker (x.gapidx + 1) (x.penddrop.toNat + 1) since (2 ^ x.esz.toNat)))
          wp := x.wp + 1, wpx := ~~~(x.wp + 1), written := x.written + 1, gapidx := x.gapidx + 1, penddrop := 0
          gaps := BitVec.ofNat 32 (satN 32 (x.gaps.toNat + 1)) }) ∧
      (x.cls = 0 → free = 0 → Completes (exec (.queueWriteL n item false) s) fun t => t.dev = { modQ s.dev n.toNat (fun y => { y with
        penddrop := BitVec.ofNat 32 (satN 32 (y.penddrop.toNat + 1)), gapStroke := if y.penddrop = 0 then s.dev.strk.count else y.gapStroke
        gaps := BitVec.ofNat 32 (satN 32 (y.gaps.toNat + 1)) }) with wlog := [] }) ∧
      (x.cls = 2 ∨ x.cls = 3 → Completes (exec (.queueWriteL n item false) s) fun t => t.dev = { s.dev with wlog := [] })) ∧
    (∀ d1, 64 ≤ n.toNat → n.toNat < 1792 → x.enable = true → qOk x = true → x.int = false → x.cls = 0 → x.cred.avail ≠ 0 → free ≠ 0 →
      s.dev.wlog = [] → vaWrite s.dev x.gnt.toNat (x.qbase.toNat + slotOf x x.wp * 2 ^ x.esz.toNat) cut = .ok d1 →
      Completes (exec (.queueWriteL n item true) s) fun t => t.dev = { d1 with queues := t.dev.queues, wlog := [] } ∧ queue t.dev n.toNat = { x with
        wp := x.wp + 1, wpx := ~~~(x.wp + 1), written := x.written + 1, cred := { x.cred with avail := x.cred.avail - 1 } })) ∧
  (∀ (n : QNo) (body : Bytes) (s : State),
    let x := queue s.dev n.toNat
    let b := padTo (2 ^ x.esz.toNat - 4) body
    (x.enable = false ∨ x.cls ≠ 1 → Completes (exec (.queueWriteE n body) s) fun t => t.dev = { s.dev with wlog := [] }) ∧
    (x.enable = true → x.cls = 1 → x.int = true → qOk x = true → (64 ≤ n.toNat ∨ occ x ≠ 0) → Completes (exec (.queueWriteE n body) s) fun t =>
      t.dev = { s.dev with queues := t.dev.queues, wlog := [] } ∧ queue t.dev n.toNat = { x with
        rp := if occ x = 2 ^ x.nlog.toNat then x.rp + 1 else x.rp, rpx := if occ x = 2 ^ x.nlog.toNat then ~~~(x.rp + 1) else x.rpx
        lost := if occ x = 2 ^ x.nlog.toNat then BitVec.ofNat 32 (satN 32 (x.lost.toNat + 1)) else x.lost
        wp := x.wp + 1, wpx := ~~~(x.wp + 1), written := x.written + 1
        ents := tput x.ents (slotOf x x.wp) (leBytes 4 ((x.written + 1) % (2 ^ 32 - 1)) ++ b) }))) ∧
  (∀ (n : QNo) (w : QWriter) (s : State),
    let x := queue s.dev n.toNat
    let plain : Prop := ctxQueue n.toNat = none
    let may : Prop := mayCtl s.dev n.toNat w = true
    let flushed (y : Queue) : Queue := { y with
      fgen := y.fgen + 1, flushes := BitVec.ofNat 32 (satN 32 (y.flushes.toNat + 1)), cred := { y.cred with avail := y.cred.limit } }
    let status : Dev := match w with
      | .reader _ (some st) => match findStep s.dev st with
        | some k => modFl s.dev k fun f => { f with qstat := true }
        | none => s.dev
      | _ => s.dev
    (¬may → ∀ i : Instr, i = .queueFlush n w ∨ i = .queueDroprest n w → Completes (exec i s) fun t => t.dev = { s.dev with wlog := [] }) ∧
    (may → (clsOf s.dev n.toNat).1 ≠ 3 → Completes (exec (.queueFlush n w) s) fun t => t.dev = { status with wlog := [] }) ∧
    (may → (clsOf s.dev n.toNat).1 ≠ 2 → Completes (exec (.queueDroprest n w) s) fun t => t.dev = { status with wlog := [] }) ∧
    (may → plain → x.cls = 3 → qOk x = true → s.dev.sess = [] → Completes (exec (.queueFlush n w) s) fun t =>
      t.dev = { modQ s.dev n.toNat (fun y => flushed { y with rp := y.wp, rpx := ~~~y.wp }) with wlog := [] }) ∧
    (∀ u c, may → ctxQueue n.toNat = some (u, c) → s.dev.sess = [] → Completes (exec (.queueFlush n w) s) fun t =>
      let a := ctxOf (seatOf s.dev u) c
      let b := ctxOf (seatOf t.dev u) c
      b.pos = a.pos + a.queue.length ∧ b.queue ++ b.todo = a.todo ∧ (queue t.dev n.toNat).flushes = (flushed x).flushes ∧
      (∀ v, v ≠ u → seatOf t.dev v = seatOf s.dev v) ∧ ∀ k, k ≠ c → ctxOf (seatOf t.dev u) k = ctxOf (seatOf s.dev u) k) ∧
    (may → plain → x.cls = 2 → x.dropping = true → Completes (exec (.queueDroprest n w) s) fun t => t.dev = { s.dev with wlog := [] }) ∧
    (may → plain → x.cls = 2 → x.dropping = false → qOk x = true → occ x = 0 → Completes (exec (.queueDroprest n w) s) fun t =>
      t.dev = { modQ s.dev n.toNat (fun y => { y with dropping := true }) with wlog := [] }) ∧
    (may → plain → x.cls = 2 → x.dropping = false → qOk x = true → occ x ≠ 0 → isLast (getEntry s.dev n.toNat x.rp) = true →
      Completes (exec (.queueDroprest n w) s) fun t => t.dev = { modQ s.dev n.toNat (fun y => { y with
        rp := y.rp + 1, rpx := ~~~(y.rp + 1), drops := BitVec.ofNat 32 (satN 32 (y.drops.toNat + 1))
        cred := { y.cred with avail := if y.cred.limit ≤ y.cred.avail then y.cred.limit else y.cred.avail + 1 } }) with wlog := [] }))

/-! ### Ports and alignment -/

/-- Ports: training brings a port up or leaves it down where PORTMAP says otherwise, lanes that are lost make it retrain or go down, and
what the peer has not acknowledged is sent again. -/
def Obligations.PortRows : Prop :=
  (∀ (port : PortNo) (mid : Mid) (pp : BitVec 4) (lanes : BitVec 9) (s : State),
    let p := port.toNat
    let x := portOf s.dev p
    let row := s.dev.fab.bind fun f => f.portmap[p]?
    (row = none ∨ (∃ m q, row = some (false, m, q)) ∨ x.state = 5 → Completes (exec (.portTrained port mid pp lanes) s) fun t =>
      t.dev = { s.dev with wlog := [] }) ∧
    (∀ m q, row = some (true, m, q) → x.state ≠ 5 →
      (m ≠ mid ∨ q ≠ pp → Completes (exec (.portTrained port mid pp lanes) s) (Reports
        (fabErr (modPort s.dev p fun y => { y with peermid := mid, peerport := pp, state := 0 }) 9 0 p 0 mid.toNat))) ∧
      (m = mid → q = pp → laneCount lanes < 4 → Completes (exec (.portTrained port mid pp lanes) s) fun t => (portOf t.dev p).state = 0) ∧
      (m = mid → q = pp → 4 ≤ laneCount lanes → x.state ≠ 1 → x.waitq = [] → Completes (exec (.portTrained port mid pp lanes) s) fun t =>
        t.dev = { s.dev with ports := t.dev.ports, wlog := [] } ∧ portOf t.dev p = { x with
          peermid := mid, peerport := pp, state := portStateOf (laneCount lanes), lanes := lanes, retrains := 0, txSeq := 0, rxSeq := 0
          replay := [], replays := 0, creds := limitsOf s.dev p, bufgnt := BitVec.ofNat 12 ((tvals (limitsOf s.dev p)).foldl (· + ·) 0) } ∧
        ∀ o, o ≠ p → portOf t.dev o = portOf s.dev o))) ∧
  (∀ (port : PortNo) (ok : Bool) (s : State),
    let p := port.toNat
    let x := portOf s.dev p
    (x.state ≠ 1 → Completes (exec (.portRetrain port ok) s) fun t => t.dev = { s.dev with wlog := [] }) ∧
    (x.state = 1 → ok = false → x.retrains < 2 → Completes (exec (.portRetrain port ok) s) fun t =>
      t.dev = { modPort s.dev p (fun y => { y with retrains := y.retrains + 1 }) with wlog := [] }) ∧
    (x.state = 1 → (ok = false ∧ 2 ≤ x.retrains) ∨ (ok = true ∧ laneCount x.lanes < 4) → Completes (exec (.portRetrain port ok) s) fun t =>
      (portOf t.dev p).state = 0) ∧
    (x.state = 1 → ok = true → 4 ≤ laneCount x.lanes → x.replay = [] → x.waitq = [] → Completes (exec (.portRetrain port ok) s) fun t =>
      portOf t.dev p = { x with state := portStateOf (laneCount x.lanes), retrains := 0, replays := (portOf t.dev p).replays })) ∧
  (∀ (port : PortNo) (lane : BitVec 4) (s : State), portLaneWf lane = true →
    let p := port.toNat
    let x := portOf s.dev p
    let left := x.lanes &&& ~~~(BitVec.ofNat 9 (2 ^ lane.toNat))
    (x.lanes.toNat.testBit lane.toNat = false → Completes (exec (.laneDrop port lane) s) fun t => t.dev = { s.dev with wlog := [] }) ∧
    (x.lanes.toNat.testBit lane.toNat = true → laneCount left < 4 → Completes (exec (.laneDrop port lane) s) fun t => (portOf t.dev p).state = 0) ∧
    (x.lanes.toNat.testBit lane.toNat = true → 4 ≤ laneCount left → Completes (exec (.laneDrop port lane) s) fun t =>
      Reports { modPort s.dev p (fun y => { y with lanes := left, droppend := true, state := if portUp x = true then 1 else y.state }) with
        pst := { s.dev.pst with repairs := t.dev.pst.repairs } } t ∧
      (s.dev.pst.repairs.length < 65536 → PendingRepair t.dev 5 (16 * p + lane.toNat)))) ∧
  (∀ (e : BitVec 2) (laser : BitVec 4) (s : State), portLaneWf laser = true →
    (∀ i, i < 4 → (portOf s.dev (4 * e.toNat + i)).lanes.toNat.testBit laser.toNat = false) →
    let off := rFAB_LASER + 4 * e.toNat
    Completes (exec (.laserFail e laser) s) fun t => Reports { setReg s.dev off
      ((if (reg s.dev off).testBit laser.toNat = true then reg s.dev off - 2 ^ laser.toNat else reg s.dev off) ||| 2 ^ (11 + laser.toNat)) with
        pst := { s.dev.pst with repairs := t.dev.pst.repairs } } t ∧
      (s.dev.pst.repairs.length < 65536 → PendingRepair t.dev 6 (16 * e.toNat + laser.toNat))) ∧
  (∀ (e : BitVec 2) (laser : BitVec 4) (s : State), portLaneWf laser = true → Completes (exec (.laserFail e laser) s) fun t =>
    (reg t.dev (rFAB_LASER + 4 * e.toNat)).testBit (11 + laser.toNat) = true ∧
    (reg t.dev (rFAB_LASER + 4 * e.toNat)).testBit laser.toNat = false) ∧
  (∀ (port : PortNo) (seq : W32) (i : Instr) (s : State), i = .nakReceived port seq ∨ i = .replayTimeout port →
    let x := portOf s.dev port.toNat
    (portUp x = false → Completes (exec i s) fun t => t.dev = { s.dev with wlog := [] }) ∧
    (portUp x = true →
      let y := if i = .replayTimeout port then x else ackTo x (seq - 1)
      (y.replay = [] → Completes (exec i s) fun t => t.dev = { s.dev with ports := t.dev.ports, wlog := [] } ∧ portOf t.dev port.toNat = y) ∧
      (y.replay ≠ [] → 8 ≤ y.replays → Completes (exec i s) fun t => t.dev = { s.dev with ports := t.dev.ports, wlog := [] } ∧
        portOf t.dev port.toNat = { y with state := 1, replays := 0 }) ∧
      (y.replay ≠ [] → y.replays < 8 → Completes (exec i s) fun t => portOf t.dev port.toNat = { y with replays := y.replays + 1 } ∧
        t.dev.txFrames = s.dev.txFrames ++ y.replay.map (fun f =>
          let f := { f with mark := markOf s.dev, ack := y.rxSeq - 1 }
          (port.toNat, { f with lcrc := lcrcOf f })) ∧
        reg t.dev rFAB_REPLAYCNT = satN 32 (reg s.dev rFAB_REPLAYCNT + 1))))

/-- Frames: a port takes the next frame in order, answers with NAK a frame that is damaged or out of order, and refuses one that its
gauntlet's key does not open; a REJECT fails the step that sent the message. -/
def Obligations.FrameRows : Prop :=
  (∀ (port : PortNo) (fr : Frame) (s : State),
    let p := port.toNat
    let x := portOf s.dev p
    let still : Prop := ¬(s.dev.strk.aligned = true ∧ markNewer fr.mark (markOf s.dev) = true ∧ s.dev.snap.early = false)
    let sound : Prop := fr.fec = true ∧ fr.lcrc = lcrcOf fr
    (portUp x = false → Completes (exec (.frameReceived port fr) s) fun t => t.dev = { s.dev with wlog := [] }) ∧
    (portUp x = true → still → ¬sound → Completes (exec (.frameReceived port fr) s) fun t =>
      (∃ f, t.dev.txFrames = s.dev.txFrames ++ [(p, f)] ∧ f.cls = 0 ∧ f.ftype = 1 ∧ f.ack = x.rxSeq - 1) ∧
      reg t.dev rFAB_FECUNC = (if fr.fec = true then reg s.dev rFAB_FECUNC else satN 32 (reg s.dev rFAB_FECUNC + 1)) ∧ portOf t.dev p = x) ∧
    (portUp x = true → still → sound → fr.cls ≠ 0 → seqAfter fr.seq x.rxSeq = true → Completes (exec (.frameReceived port fr) s) fun t =>
      (∃ f, t.dev.txFrames = s.dev.txFrames ++ [(p, f)] ∧ f.cls = 0 ∧ f.ftype = 1 ∧ f.ack = x.rxSeq - 1) ∧
      t.dev = { s.dev with txFrames := t.dev.txFrames, wlog := [] }) ∧
    (portUp x = true → still → sound → fr.cls ≠ 0 → seqAfter fr.seq x.rxSeq = false → fr.seq ≠ x.rxSeq →
      Completes (exec (.frameReceived port fr) s) fun t =>
      (∃ f, t.dev.txFrames = s.dev.txFrames ++ [(p, f)] ∧ f.cls = 0 ∧ f.ftype = 0 ∧ f.ack = x.rxSeq - 1) ∧
      t.dev = { s.dev with txFrames := t.dev.txFrames, wlog := [] }) ∧
    (portUp x = true → still → sound → fr.cls ≠ 0 → fr.seq = x.rxSeq → Completes (exec (.frameReceived port fr) s) fun t =>
      (portOf t.dev p).rxSeq = x.rxSeq + 1 ∧ (∃ f, t.dev.txFrames.getLast? = some (p, f) ∧ f.cls = 0 ∧ f.ftype = 0 ∧ f.ack = x.rxSeq ∧
        f.crdt = BitVec.ofNat 12 (bufsOf fr) ∧ f.crdtCls = fr.cls)) ∧
    (portUp x = true → still → sound → frameDefined fr = true → 3 ≤ fr.cls.toNat → fr.seq = x.rxSeq → fr.dst.toNat = myMid s.dev →
      (gauntOfTag s.dev fr.ftag = none ∨ fr.enc = false) → Completes (exec (.frameReceived port fr) s) fun t =>
      (reg t.dev rFAB_ERR).testBit 1 = true ∧ reg t.dev rFAB_ISOCNT = satN 32 (reg s.dev rFAB_ISOCNT + 1) ∧
      t.dev.mem = s.dev.mem ∧ t.dev.steps = s.dev.steps)) ∧
  (∀ (n : StepName) (cls : RejectClass) (status : RejectStatus) (s : State),
    (findStep s.dev n = none → Completes (exec (.rejectReceived n cls status) s) fun t => t.dev = { s.dev with wlog := [] }) ∧
    (∀ k st, findStep s.dev n = some k → tfind s.dev.steps k = some st → st.st ≠ .ended →
      (cls = .expert → Completes (exec (.rejectReceived n cls status) s) fun t =>
        Fails (recordErr s.dev rEXD_ERR rEXD_ERRINFO 2 (n.g.toNat + 0x34 * 2 ^ 16)) t k st 0x34) ∧
      (cls = .kvfetch → status = .kvstale → Completes (exec (.rejectReceived n cls status) s) fun t =>
        Fails (recordErr s.dev rKVM_ERR rKVM_ERRINFO 2 (n.g.toNat + 0x2A * 2 ^ 16)) t k st 0x2A) ∧
      ((cls = .kvfetch ∧ status ≠ .kvstale) ∨ cls = .bucket ∨ cls = .peer → Completes (exec (.rejectReceived n cls status) s) fun t =>
        ∃ st', tfind t.dev.steps k = some st' ∧ st'.failing = (st.failing <|> some (BitVec.ofNat 8 (match status with
          | .linkdown => 0x38
          | .fabiso => 0x39
          | .remote => 0x3D
          | .redseq => 0x3B
          | .kvstale => 0x2A), false)))))

/-- A SYNC of the upstream port gives the offset from the boundary above: past 200 ns an error, past 10 µs, or of another configuration, the module leaves the
aligned set; sixteen delays measured, an equal configuration and no fabric step let it join with the reference's count. -/
def Obligations.AlignmentRows : Prop :=
  (∀ (port : PortNo) (count time : W64) (k : BitVec 4) (digest : W64) (s : State),
    (s.dev.fab = none → Completes (exec (.syncReceived port count time k digest) s) fun t => t.dev = { s.dev with wlog := [] }) ∧
    (∀ f, s.dev.fab = some f →
      let z : Int := (s.dev.strk.time.toNat : Int) - time.toNat - s.dev.strk.delay.toInt
      let same : Prop := s.dev.strk.aligned = true ∧ count = s.dev.strk.count ∧ k = s.dev.strk.k ∧ digest.toNat = f.digest.toNat % 2 ^ 64
      (f.upport ≠ port ∨ f.mid = f.ref → Completes (exec (.syncReceived port count time k digest) s) fun t => t.dev = { s.dev with wlog := [] }) ∧
      (f.upport = port → f.mid ≠ f.ref → ¬same → Completes (exec (.syncReceived port count time k digest) s) fun t =>
        t.dev = { s.dev with wlog := [], strk := { s.dev.strk with
          upTime := time, aligned := s.dev.strk.aligned && decide (k = s.dev.strk.k ∧ digest.toNat = f.digest.toNat % 2 ^ 64) } }) ∧
      (f.upport = port → f.mid ≠ f.ref → same → Completes (exec (.syncReceived port count time k digest) s) fun t =>
        t.dev.strk = { s.dev.strk with
          upTime := time, offset := BitVec.ofNat 32 (wrapZ 32 z), alignErr := s.dev.strk.alignErr || decide (200 < z.natAbs)
          aligned := decide (z.natAbs ≤ 10000) } ∧
        (z.natAbs ≤ 200 → t.dev = { s.dev with strk := t.dev.strk, wlog := [] })))) ∧
  (∀ (t1 t2 t3 t4 : W64) (s : State), Completes (exec (.delayMeasure t1 t2 t3 t4) s) fun t =>
    t.dev = { s.dev with wlog := [], strk := { s.dev.strk with
      delay := BitVec.ofNat 32 (wrapZ 32 (((t4.toNat : Int) - t1.toNat - ((t3.toNat : Int) - t2.toNat)) / 2)), delays := s.dev.strk.delays + 1 } }) ∧
  (∀ (count : W64) (k : BitVec 4) (digest : W64) (s : State),
    (s.dev.fab = none → Completes (exec (.alignJoin count k digest) s) fun t => t.dev = { s.dev with wlog := [] }) ∧
    (∀ f, s.dev.fab = some f →
      let ready : Prop := f.mid ≠ f.ref ∧ portUp (portOf s.dev f.upport.toNat) = true ∧ 16 ≤ s.dev.strk.delays
      let agree : Prop := k = s.dev.strk.k ∧ digest.toNat = f.digest.toNat % 2 ^ 64
      (¬ready → Completes (exec (.alignJoin count k digest) s) fun t => t.dev = { s.dev with wlog := [] }) ∧
      (ready → ¬agree → Completes (exec (.alignJoin count k digest) s) (Reports (fabErr { s.dev with strk := { s.dev.strk with aligned := false } }
        9 0 f.upport.toNat 0 (portOf s.dev f.upport.toNat).peermid.toNat))) ∧
      (ready → agree → fabBusy s.dev = true → Completes (exec (.alignJoin count k digest) s) fun t => t.dev = { s.dev with wlog := [] }) ∧
      (ready → agree → fabBusy s.dev = false → Completes (exec (.alignJoin count k digest) s) (Reports
        { s.dev with strk := { s.dev.strk with count := count, aligned := true, alignErr := false, offset := 0 } }))))

/-- Copies between members: a member sends once its job set is complete, a WRITE lands in its gauntlet's memory, a DONE of every position
completes the collective, an ABORT and a silence past the timeout fail the step. -/
def Obligations.CopyRows : Prop :=
  (∀ (n : StepName) (copy : BitVec 2) (s : State),
    (findStep s.dev n = none → Completes (exec (.copySendStart n copy) s) fun t => t.dev = { s.dev with wlog := [] }) ∧
    (∀ k st c, findStep s.dev n = some k → tfind s.dev.steps k = some st → tfind st.copies copy.toNat = some c →
      let b := copyDesc st copy.toNat
      let g := st.g.toNat
      let pjs := leAt b 1 1
      let goes : Prop := canRun s.dev k = true ∧ c.started = false ∧ (pjs = 0xFF ∨ pjs ∈ st.jsDone)
      (¬goes → Completes (exec (.copySendStart n copy) s) fun t => t.dev = { s.dev with wlog := [] }) ∧
      (∀ x d1, goes → s.dev.wlog = [] → leAt b 0 1 = 2 → vaRead s.dev g (w64At b 8) (w32At b 0x20) = .ok x →
        putPeer g (w32At b 4) (ranges (w64At b 0x10) (w32At b 0x20)) 0 x s.dev = .ok d1 → Completes (exec (.copySendStart n copy) s) fun t =>
        t.dev = { modCopy d1 k copy.toNat (fun y => { y with started := true, complete := true }) with wlog := [] }) ∧
      (∀ x m, goes → s.dev.wlog = [] → leAt b 0 1 = 0 → c.ranks = [m] → peerMid s.dev g m = some (myMid s.dev) → c.dones = [] →
        vaRead s.dev g (w64At b 8) (w32At b 0x20) = .ok x → ∀ d1, vaWrite s.dev g (w64At b 0x10) x = .ok d1 →
        Completes (exec (.copySendStart n copy) s) fun t => t.dev.mem = d1.mem ∧ ∃ st' c', tfind t.dev.steps k = some st' ∧
          tfind st'.copies copy.toNat = some c' ∧ c'.started = true ∧ c'.complete = true ∧ c'.dones = [0]))) ∧
  (∀ (g : Gnt) (src : Mid) (va : W64) (round : W32) (pos : Byte) (data : Bytes) (s : State),
    let l := copiesFrom s.dev g.toNat (some src) pos.toNat
    let other : Prop := l ≠ [] ∧ ∀ x, x ∈ l → x.2.2.1 ≠ round.toNat
    (∀ d1, ¬other → s.dev.wlog = [] → vaWrite s.dev g.toNat va.toNat data = .ok d1 →
      Completes (exec (.peerWriteReceived g src va round pos data) s) fun t => t.dev = { d1 with wlog := [] }) ∧
    (∀ k st, l = [k] → k.2.2.1 ≠ round.toNat → tfind s.dev.steps k.1 = some st → st.st ≠ .ended →
      Completes (exec (.peerWriteReceived g src va round pos data) s) fun t => (∀ a, a < hostBase → peek t.dev a 1 = peek s.dev a 1) ∧
        ∃ st', tfind t.dev.steps k.1 = some st' ∧ st'.failing = (st.failing <|> some (0x3B, false))) ∧
    (∀ e, ¬other → vaWrite s.dev g.toNat va.toNat data = .error e → Completes (exec (.peerWriteReceived g src va round pos data) s) fun t =>
      (reg t.dev rFAB_ERR).testBit 5 = true ∧ t.dev.mem = s.dev.mem ∧ t.dev.steps = s.dev.steps)) ∧
  (∀ (g : Gnt) (round : W32) (pos : Byte) (bytes : W32) (s : State),
    let l := copiesFrom s.dev g.toNat none pos.toNat
    (liveSteps s.dev g.toNat = [] → Completes (exec (.peerDoneReceived g round pos bytes) s) fun t => t.dev =
      { (if (gaunt s.dev g.toNat).present = true then modG s.dev g.toNat fun x => { x with ckDones := x.ckDones ++ [pos.toNat] } else s.dev) with wlog := [] }) ∧
    (liveSteps s.dev g.toNat ≠ [] → l = [] → Completes (exec (.peerDoneReceived g round pos bytes) s) fun t => t.dev = { s.dev with wlog := [] }) ∧
    (∀ k i npos st c, l = [(k, i, round.toNat, npos)] → tfind s.dev.steps k = some st → tfind st.copies i = some c →
      Completes (exec (.peerDoneReceived g round pos bytes) s) fun t => t.dev = { s.dev with wlog := [], steps := tput s.dev.steps k { st with
        copies := tput st.copies i { c with
          dones := c.dones ++ [pos.toNat], complete := c.complete || (List.range npos).all (c.dones ++ [pos.toNat]).contains } } })) ∧
  (∀ (g : Gnt) (round : W32) (pos : Byte) (s : State),
    let m := (copiesFrom s.dev g.toNat none pos.toNat).filter fun x => x.2.2.1 == round.toNat
    (m = [] → Completes (exec (.peerAbortReceived g round pos) s) fun t => t.dev = { s.dev with wlog := [] }) ∧
    (∀ k st, m = [k] → tfind s.dev.steps k.1 = some st → st.st ≠ .ended → Completes (exec (.peerAbortReceived g round pos) s) fun t =>
      Fails (fabErr s.dev 4 g.toNat 0 0x3C 0) t k.1 st 0x3C)) ∧
  (∀ (n : StepName) (s : State),
    (findStep s.dev n = none → Completes (exec (.reductionTimeout n) s) fun t => t.dev = { s.dev with wlog := [] }) ∧
    (∀ k st, findStep s.dev n = some k → tfind s.dev.steps k = some st → st.st ≠ .ended →
      let open' : Prop := (∃ b, b ∈ st.buckets ∧ b.released = false) ∨ ∃ c, c ∈ st.copies ∧ c.2.started = true ∧ c.2.complete = false
      (¬open' → Completes (exec (.reductionTimeout n) s) fun t => t.dev = { s.dev with wlog := [] }) ∧
      (open' → Completes (exec (.reductionTimeout n) s) fun t => Fails (fabErr s.dev 4 n.g.toNat 0 0x3C 0) t k st 0x3C)))

/-- A bucket of a gradient reduction: full once its job set is done, its chunks pass the tree stage by stage, results land with their
counts, and it is released in tag order with its status; JOIN, CONTRIB and RESULT meet the group, an ABORT fails the step. -/
def Obligations.ReductionRows : Prop :=
  (∀ (n : StepName) (tag : W16) (s : State),
    (∀ i : Instr, findStep s.dev n = none ∨ (∃ k, findStep s.dev n = some k ∧ findBucket s.dev k tag = none) →
      i = .bucketFull n tag ∨ i = .bucketRelease n tag ∨ (∃ c, i = .reductionChunk n tag c) →
      Completes (exec i s) fun t => t.dev = { s.dev with wlog := [] }) ∧
    (∀ k st b gn r, findStep s.dev n = some k → findBucket s.dev k tag = some (st, b, gn, r) → tfind s.dev.steps k = some st →
      let set (f : Bucket → Bucket) : Tbl Step := tput s.dev.steps k { st with buckets := st.buckets.map fun y => if y.tag = tag then f y else y }
      let fjs := fld (w32At b.desc 0x1C) 12 5
      let kept := { s.dev with wlog := [] }
      (fjs ≠ 0xFF → fjs ∉ st.jsDone → Completes (exec (.bucketFull n tag) s) fun t => t.dev = kept) ∧
      (fjs = 0xFF ∨ fjs ∈ st.jsDone → Completes (exec (.bucketFull n tag) s) fun t => t.dev = { kept with steps := set fun y => { y with full := true } }) ∧
      (∀ chunk : W16,
        let c := chunk.toNat
        (b.full = false ∨ bkChunks b ≤ c ∨ st.failing.isSome = true → Completes (exec (.reductionChunk n tag chunk) s) fun t => t.dev = kept) ∧
        (∀ rank p, b.full = true → c < bkChunks b → st.failing = none → (∀ i, i < c → chunkStage b c < chunkStage b i ∨ 7 ≤ chunkStage b i) →
          r.members.findIdx? (fun e => memMid e == myMid s.dev) = some rank → sendsWait s.dev = false →
          chunkStage b c = 0 → ownPart s.dev st.g.toNat rank b c = .ok p → Completes (exec (.reductionChunk n tag chunk) s) fun t =>
            t.dev = { kept with steps := set fun y => { y with parts := tput (tput y.parts (8 * c + 6) [1]) (8 * c + 5) (encPart p) } }) ∧
        (∀ rank w, b.full = true → c < bkChunks b → st.failing = none → (∀ i, i < c → chunkStage b c < chunkStage b i ∨ 7 ≤ chunkStage b i) →
          r.members.findIdx? (fun e => memMid e == myMid s.dev) = some rank → sendsWait s.dev = false →
          chunkStage b c = w → 1 ≤ w → w ≤ 3 →
          let e := r.members.getD rank 0
          let a := (memSlot e ^^^ (c % 8)) / 2 ^ w * 2 ^ w
          let low := holder r.members (memNode e) c a (2 ^ w / 2)
          let up := holder r.members (memNode e) c (a + 2 ^ w / 2) (2 ^ w / 2)
          let cur := decPart (tget [] b.parts (8 * c + 5))
          let put (q : Part) : Dev :=
            { kept with steps := set fun y => { y with parts := tput (tput y.parts (8 * c + 6) [BitVec.ofNat 8 (w + 1)]) (8 * c + 5) (encPart q) } }
          (low = none ∨ up = none → Completes (exec (.reductionChunk n tag chunk) s) fun t => t.dev = put cur) ∧
          (∀ m u bs, low = some m → memMid m = myMid s.dev → up = some u → tfind b.parts (8 * c + (w - 1)) = some bs →
            Completes (exec (.reductionChunk n tag chunk) s) fun t => t.dev = put (addPart cur (decPart bs))))) ∧
      (b.released = true ∨ b.landed = false ∨ (∃ y, y ∈ st.buckets.takeWhile (fun x => x.tag != tag) ∧ y.released = false) →
        Completes (exec (.bucketRelease n tag) s) fun t => t.dev = kept) ∧
      (∀ d1, b.released = false → b.landed = true → (∀ y, y ∈ st.buckets.takeWhile (fun x => x.tag != tag) → y.released = true) → s.dev.wlog = [] →
        vaWrite s.dev st.g.toNat (w64At b.desc 0x10) (bkStatus s.dev b) = .ok d1 → Completes (exec (.bucketRelease n tag) s) fun t =>
          let bad : Prop := b.nan ≠ 0 ∨ b.inf ≠ 0 ∨ b.ovf ≠ 0
          t.dev.mem = d1.mem ∧ reg t.dev rRED_RELCNT = (reg s.dev rRED_RELCNT + 1) % 2 ^ 64 ∧
          reg t.dev rRED_NONFIN = (if bad then satN 32 (reg s.dev rRED_NONFIN + 1) else reg s.dev rRED_NONFIN) ∧
          ∃ st', tfind t.dev.steps k = some st' ∧ st'.buckets = (st.buckets.map fun y => if y.tag = tag then { y with released := true } else y) ∧
            st'.fl = (if bad then { st.fl with nonfinite := true } else st.fl)))) ∧
  (∀ (g : Gnt) (src : Mid) (m : RedMsg) (i : Instr) (res : Bool) (s : State),
    (i = .contribReceived g src m ∧ res = false) ∨ (i = .resultReceived g src m ∧ res = true) →
    let gn := m.group.toNat
    (groupStep s.dev g.toNat gn = none → Completes (exec i s) fun t => t.dev =
      { (modG s.dev g.toNat fun x => match tfind x.groups gn with
        | some r => { x with groups := tput x.groups gn { r with early := r.early ++ [(src, res, m)] } }
        | none => x) with wlog := [] }) ∧
    (∀ k st b r, groupStep s.dev g.toNat gn = some (k, st) → tfind s.dev.steps k = some st → groupRec s.dev st = some r →
      (st.buckets.find? fun y => y.tag == m.tag) = some b →
      let fits : Prop := m.chunk.toNat < bkChunks b ∧ m.data.length = (if res = true ∨ bkFmt b = 0 then 65536 else 131072) ∧ (res = false → m.stage.toNat ≤ 3)
      (¬fits → st.st ≠ .ended → Completes (exec i s) fun t => ∃ st', tfind t.dev.steps k = some st' ∧ st'.failing = (st.failing <|> some (0x3B, false))) ∧
      (fits → res = false → Completes (exec i s) fun t => t.dev = { s.dev with wlog := [], steps := tput s.dev.steps k { st with
        buckets := st.buckets.map fun y => if y.tag = m.tag then { y with parts := tput y.parts (8 * m.chunk.toNat + m.stage.toNat) (encPart
          { nan := m.nan.toNat, inf := m.inf.toNat, ovf := m.ovf.toNat, fn := m.firstNan.toNat, fi := m.firstInf.toNat, vals := words32 m.data }) } else y } }) ∧
      (∀ d1, fits → res = true → s.dev.wlog = [] → vaWrite s.dev g.toNat (w64At b.desc 8 + 65536 * m.chunk.toNat) m.data = .ok d1 →
        Completes (exec i s) fun t => t.dev.mem = d1.mem ∧ ∃ st' b', tfind t.dev.steps k = some st' ∧
          (st'.buckets.find? fun y => y.tag == m.tag) = some b' ∧ m.chunk.toNat ∈ b'.chunksDone ∧
          b'.nan = BitVec.ofNat 32 (satN 32 (b.nan.toNat + m.nan.toNat)) ∧ b'.inf = BitVec.ofNat 32 (satN 32 (b.inf.toNat + m.inf.toNat)) ∧
          b'.ovf = BitVec.ofNat 32 (satN 32 (b.ovf.toNat + m.ovf.toNat)) ∧
          b'.firstNan = BitVec.ofNat 16 (min b.firstNan.toNat m.firstNan.toNat) ∧ b'.firstInf = BitVec.ofNat 16 (min b.firstInf.toNat m.firstInf.toNat)))) ∧
  (∀ (g : Gnt) (group : BitVec 3) (tag : W16) (s : State),
    (groupStep s.dev g.toNat group.toNat = none → Completes (exec (.bucketAbortReceived g group tag) s) fun t => t.dev = { s.dev with wlog := [] }) ∧
    (∀ k st, groupStep s.dev g.toNat group.toNat = some (k, st) → tfind s.dev.steps k = some st → st.st ≠ .ended →
      (∃ b, b ∈ st.buckets ∧ b.tag = tag) → Completes (exec (.bucketAbortReceived g group tag) s) fun t =>
      Fails (fabErr s.dev 4 g.toNat 0 0x3C 0) t k st 0x3C)) ∧
  (∀ (g : Gnt) (group : BitVec 3) (src : Mid) (digest : Bytes) (s : State),
    let n := group.toNat
    ((gaunt s.dev g.toNat).present = false → Completes (exec (.joinReceived g group src digest) s) fun t => t.dev = { s.dev with wlog := [] }) ∧
    ((gaunt s.dev g.toNat).present = true → tfind (gaunt s.dev g.toNat).groups n = none → Completes (exec (.joinReceived g group src digest) s) fun t =>
      t.dev = { modG s.dev g.toNat (fun x => { x with earlyJ := x.earlyJ ++ [(n, src, digest)] }) with wlog := [] }) ∧
    (∀ r w, (gaunt s.dev g.toNat).present = true → tfind (gaunt s.dev g.toNat).groups n = some r → (∃ e, e ∈ r.members ∧ memMid e = src.toNat) →
      src.toNat ∉ r.joins → rgWait s.dev g.toNat n = some w → w.cmd.fn = g →
      let all : Prop := ∀ e, e ∈ r.members → memMid e = myMid s.dev ∨ memMid e ∈ r.joins ++ [src.toNat]
      let joined : Dev := modG s.dev g.toNat fun x => { x with groups := tput x.groups n { r with joins := r.joins ++ [src.toNat] } }
      (padTo 28 digest = joinDigest r.members → ¬all → Completes (exec (.joinReceived g group src digest) s) fun t => t.dev = { joined with wlog := [] }) ∧
      (padTo 28 digest = joinDigest r.members → all → Completes (exec (.joinReceived g group src digest) s) fun t =>
        Reports { joined with waits := s.dev.waits.erase w } t ∧
        ((func t.dev g.toNat).reply.map fun y => (y.tag, y.status, y.reason, y.opcode)) = some (w.cmd.tag, 0, 0, 0x43)) ∧
      (padTo 28 digest ≠ joinDigest r.members → Completes (exec (.joinReceived g group src digest) s) fun t =>
        tfind (gaunt t.dev g.toNat).groups n = none ∧
        ((func t.dev g.toNat).reply.map fun y => (y.tag, y.status, y.reason, y.opcode)) = some (w.cmd.tag, 2, 0x3B, 0x43))))

/-- R12 at every window of R363: where no register map defines a 32-bit word of an access, a read returns zero there and a write there
does nothing. An access with no defined word at all changes nothing but what the bus returned (and the model's own count of free values,
log 4): no error register, no event, no status. No 8-byte access has only its higher word defined. -/
def Obligations.UndefinedOffsets : Prop :=
  (∀ (win : Option Nat) (off : Nat), off % 8 = 0 → unmapped win off = true → unmapped win (off + 4) = true) ∧
  ∀ (a : BusAddr) (v : W64) (s : State) (win : Option Nat) (off : Nat), accessOk a = true → windowOf s.dev a = some (win, off) →
    (a.size = 4 → unmapped win off = true →
      (Completes (exec (.rcRegisterRead a) s) fun t =>
        t.dev.busData = 0 ∧ t.dev = { s.dev with busData := 0, free := t.dev.free, wlog := [] }) ∧
      Completes (exec (.registerWrite a v) s) fun t => t.dev = { s.dev with wlog := [] }) ∧
    (a.size = 8 → unmapped win off = true → unmapped win (off + 4) = true →
      (Completes (exec (.rcRegisterRead a) s) fun t =>
        t.dev.busData = 0 ∧ t.dev = { s.dev with busData := 0, free := t.dev.free, wlog := [] }) ∧
      Completes (exec (.registerWrite a v) s) fun t => t.dev = { s.dev with wlog := [] }) ∧
    (a.size = 8 → unmapped win off = false → unmapped win (off + 4) = true →
      (Completes (exec (.rcRegisterRead a) s) fun t => t.dev.busData.toNat / 2 ^ 32 = 0) ∧
      exec (.registerWrite a v) s = exec (.registerWrite { a with size := 4 } v) s)
end

