-- ==== Sys2Proof/Laws/State.lean ====
section
/-! SUPPORT. One lemma for each field and each update of the device, true by `rfl`: what an update leaves as it was, and what it
writes. No later proof unfolds a record update. -/
namespace Sys2Proof.Machine

variable (d : Dev)

/-! ### setReg -/
@[simp] theorem setReg_mem (off v : Nat) : (setReg d off v).mem = d.mem := rfl
@[simp] theorem setReg_wlog (off v : Nat) : (setReg d off v).wlog = d.wlog := rfl
@[simp] theorem setReg_free (off v : Nat) : (setReg d off v).free = d.free := rfl
@[simp] theorem setReg_strk (off v : Nat) : (setReg d off v).strk = d.strk := rfl
@[simp] theorem setReg_sup (off v : Nat) : (setReg d off v).sup = d.sup := rfl
@[simp] theorem setReg_seats (off v : Nat) : (setReg d off v).seats = d.seats := rfl
@[simp] theorem setReg_coxes (off v : Nat) : (setReg d off v).coxes = d.coxes := rfl
@[simp] theorem setReg_dies (off v : Nat) : (setReg d off v).dies = d.dies := rfl
@[simp] theorem setReg_steps (off v : Nat) : (setReg d off v).steps = d.steps := rfl
@[simp] theorem setReg_gaunts (off v : Nat) : (setReg d off v).gaunts = d.gaunts := rfl
@[simp] theorem setReg_xlate (off v : Nat) : (setReg d off v).xlate = d.xlate := rfl
@[simp] theorem setReg_sown (off v : Nat) : (setReg d off v).sown = d.sown := rfl
@[simp] theorem setReg_lown (off v : Nat) : (setReg d off v).lown = d.lown := rfl
@[simp] theorem setReg_queues (off v : Nat) : (setReg d off v).queues = d.queues := rfl
@[simp] theorem setReg_evlog (off v : Nat) : (setReg d off v).evlog = d.evlog := rfl
@[simp] theorem setReg_kv (off v : Nat) : (setReg d off v).kv = d.kv := rfl
@[simp] theorem setReg_stems (off v : Nat) : (setReg d off v).stems = d.stems := rfl
@[simp] theorem setReg_decs (off v : Nat) : (setReg d off v).decs = d.decs := rfl
@[simp] theorem setReg_sess (off v : Nat) : (setReg d off v).sess = d.sess := rfl
@[simp] theorem setReg_pipes (off v : Nat) : (setReg d off v).pipes = d.pipes := rfl
@[simp] theorem setReg_ports (off v : Nat) : (setReg d off v).ports = d.ports := rfl
@[simp] theorem setReg_fab (off v : Nat) : (setReg d off v).fab = d.fab := rfl
@[simp] theorem setReg_funcs (off v : Nat) : (setReg d off v).funcs = d.funcs := rfl
@[simp] theorem setReg_waits (off v : Nat) : (setReg d off v).waits = d.waits := rfl
@[simp] theorem setReg_bnds (off v : Nat) : (setReg d off v).bnds = d.bnds := rfl
@[simp] theorem setReg_ident (off v : Nat) : (setReg d off v).ident = d.ident := rfl
@[simp] theorem setReg_doms (off v : Nat) : (setReg d off v).doms = d.doms := rfl
@[simp] theorem setReg_pwait (off v : Nat) : (setReg d off v).pwait = d.pwait := rfl
@[simp] theorem setReg_ckpts (off v : Nat) : (setReg d off v).ckpts = d.ckpts := rfl
@[simp] theorem setReg_pst (off v : Nat) : (setReg d off v).pst = d.pst := rfl
@[simp] theorem setReg_hat (off v : Nat) : (setReg d off v).hat = d.hat := rfl
@[simp] theorem setReg_snap (off v : Nat) : (setReg d off v).snap = d.snap := rfl
@[simp] theorem setReg_busData (off v : Nat) : (setReg d off v).busData = d.busData := rfl
@[simp] theorem setReg_txFrames (off v : Nat) : (setReg d off v).txFrames = d.txFrames := rfl

/-! ### modSeat -/
@[simp] theorem modSeat_mem (u : Nat) (f : Seat → Seat) : (modSeat d u f).mem = d.mem := rfl
@[simp] theorem modSeat_wlog (u : Nat) (f : Seat → Seat) : (modSeat d u f).wlog = d.wlog := rfl
@[simp] theorem modSeat_free (u : Nat) (f : Seat → Seat) : (modSeat d u f).free = d.free := rfl
@[simp] theorem modSeat_regs (u : Nat) (f : Seat → Seat) : (modSeat d u f).regs = d.regs := rfl
@[simp] theorem modSeat_strk (u : Nat) (f : Seat → Seat) : (modSeat d u f).strk = d.strk := rfl
@[simp] theorem modSeat_sup (u : Nat) (f : Seat → Seat) : (modSeat d u f).sup = d.sup := rfl
@[simp] theorem modSeat_coxes (u : Nat) (f : Seat → Seat) : (modSeat d u f).coxes = d.coxes := rfl
@[simp] theorem modSeat_dies (u : Nat) (f : Seat → Seat) : (modSeat d u f).dies = d.dies := rfl
@[simp] theorem modSeat_steps (u : Nat) (f : Seat → Seat) : (modSeat d u f).steps = d.steps := rfl
@[simp] theorem modSeat_gaunts (u : Nat) (f : Seat → Seat) : (modSeat d u f).gaunts = d.gaunts := rfl
@[simp] theorem modSeat_xlate (u : Nat) (f : Seat → Seat) : (modSeat d u f).xlate = d.xlate := rfl
@[simp] theorem modSeat_sown (u : Nat) (f : Seat → Seat) : (modSeat d u f).sown = d.sown := rfl
@[simp] theorem modSeat_lown (u : Nat) (f : Seat → Seat) : (modSeat d u f).lown = d.lown := rfl
@[simp] theorem modSeat_queues (u : Nat) (f : Seat → Seat) : (modSeat d u f).queues = d.queues := rfl
@[simp] theorem modSeat_evlog (u : Nat) (f : Seat → Seat) : (modSeat d u f).evlog = d.evlog := rfl
@[simp] theorem modSeat_kv (u : Nat) (f : Seat → Seat) : (modSeat d u f).kv = d.kv := rfl
@[simp] theorem modSeat_stems (u : Nat) (f : Seat → Seat) : (modSeat d u f).stems = d.stems := rfl
@[simp] theorem modSeat_decs (u : Nat) (f : Seat → Seat) : (modSeat d u f).decs = d.decs := rfl
@[simp] theorem modSeat_sess (u : Nat) (f : Seat → Seat) : (modSeat d u f).sess = d.sess := rfl
@[simp] theorem modSeat_pipes (u : Nat) (f : Seat → Seat) : (modSeat d u f).pipes = d.pipes := rfl
@[simp] theorem modSeat_ports (u : Nat) (f : Seat → Seat) : (modSeat d u f).ports = d.ports := rfl
@[simp] theorem modSeat_fab (u : Nat) (f : Seat → Seat) : (modSeat d u f).fab = d.fab := rfl
@[simp] theorem modSeat_funcs (u : Nat) (f : Seat → Seat) : (modSeat d u f).funcs = d.funcs := rfl
@[simp] theorem modSeat_waits (u : Nat) (f : Seat → Seat) : (modSeat d u f).waits = d.waits := rfl
@[simp] theorem modSeat_bnds (u : Nat) (f : Seat → Seat) : (modSeat d u f).bnds = d.bnds := rfl
@[simp] theorem modSeat_ident (u : Nat) (f : Seat → Seat) : (modSeat d u f).ident = d.ident := rfl
@[simp] theorem modSeat_doms (u : Nat) (f : Seat → Seat) : (modSeat d u f).doms = d.doms := rfl
@[simp] theorem modSeat_pwait (u : Nat) (f : Seat → Seat) : (modSeat d u f).pwait = d.pwait := rfl
@[simp] theorem modSeat_ckpts (u : Nat) (f : Seat → Seat) : (modSeat d u f).ckpts = d.ckpts := rfl
@[simp] theorem modSeat_pst (u : Nat) (f : Seat → Seat) : (modSeat d u f).pst = d.pst := rfl
@[simp] theorem modSeat_hat (u : Nat) (f : Seat → Seat) : (modSeat d u f).hat = d.hat := rfl
@[simp] theorem modSeat_snap (u : Nat) (f : Seat → Seat) : (modSeat d u f).snap = d.snap := rfl
@[simp] theorem modSeat_busData (u : Nat) (f : Seat → Seat) : (modSeat d u f).busData = d.busData := rfl
@[simp] theorem modSeat_txFrames (u : Nat) (f : Seat → Seat) : (modSeat d u f).txFrames = d.txFrames := rfl

/-! ### modCtx -/
@[simp] theorem modCtx_mem (u c : Nat) (f : Ctx → Ctx) : (modCtx d u c f).mem = d.mem := rfl
@[simp] theorem modCtx_wlog (u c : Nat) (f : Ctx → Ctx) : (modCtx d u c f).wlog = d.wlog := rfl
@[simp] theorem modCtx_free (u c : Nat) (f : Ctx → Ctx) : (modCtx d u c f).free = d.free := rfl
@[simp] theorem modCtx_regs (u c : Nat) (f : Ctx → Ctx) : (modCtx d u c f).regs = d.regs := rfl
@[simp] theorem modCtx_strk (u c : Nat) (f : Ctx → Ctx) : (modCtx d u c f).strk = d.strk := rfl
@[simp] theorem modCtx_sup (u c : Nat) (f : Ctx → Ctx) : (modCtx d u c f).sup = d.sup := rfl
@[simp] theorem modCtx_coxes (u c : Nat) (f : Ctx → Ctx) : (modCtx d u c f).coxes = d.coxes := rfl
@[simp] theorem modCtx_dies (u c : Nat) (f : Ctx → Ctx) : (modCtx d u c f).dies = d.dies := rfl
@[simp] theorem modCtx_steps (u c : Nat) (f : Ctx → Ctx) : (modCtx d u c f).steps = d.steps := rfl
@[simp] theorem modCtx_gaunts (u c : Nat) (f : Ctx → Ctx) : (modCtx d u c f).gaunts = d.gaunts := rfl
@[simp] theorem modCtx_xlate (u c : Nat) (f : Ctx → Ctx) : (modCtx d u c f).xlate = d.xlate := rfl
@[simp] theorem modCtx_sown (u c : Nat) (f : Ctx → Ctx) : (modCtx d u c f).sown = d.sown := rfl
@[simp] theorem modCtx_lown (u c : Nat) (f : Ctx → Ctx) : (modCtx d u c f).lown = d.lown := rfl
@[simp] theorem modCtx_queues (u c : Nat) (f : Ctx → Ctx) : (modCtx d u c f).queues = d.queues := rfl
@[simp] theorem modCtx_evlog (u c : Nat) (f : Ctx → Ctx) : (modCtx d u c f).evlog = d.evlog := rfl
@[simp] theorem modCtx_kv (u c : Nat) (f : Ctx → Ctx) : (modCtx d u c f).kv = d.kv := rfl
@[simp] theorem modCtx_stems (u c : Nat) (f : Ctx → Ctx) : (modCtx d u c f).stems = d.stems := rfl
@[simp] theorem modCtx_decs (u c : Nat) (f : Ctx → Ctx) : (modCtx d u c f).decs = d.decs := rfl
@[simp] theorem modCtx_sess (u c : Nat) (f : Ctx → Ctx) : (modCtx d u c f).sess = d.sess := rfl
@[simp] theorem modCtx_pipes (u c : Nat) (f : Ctx → Ctx) : (modCtx d u c f).pipes = d.pipes := rfl
@[simp] theorem modCtx_ports (u c : Nat) (f : Ctx → Ctx) : (modCtx d u c f).ports = d.ports := rfl
@[simp] theorem modCtx_fab (u c : Nat) (f : Ctx → Ctx) : (modCtx d u c f).fab = d.fab := rfl
@[simp] theorem modCtx_funcs (u c : Nat) (f : Ctx → Ctx) : (modCtx d u c f).funcs = d.funcs := rfl
@[simp] theorem modCtx_waits (u c : Nat) (f : Ctx → Ctx) : (modCtx d u c f).waits = d.waits := rfl
@[simp] theorem modCtx_bnds (u c : Nat) (f : Ctx → Ctx) : (modCtx d u c f).bnds = d.bnds := rfl
@[simp] theorem modCtx_ident (u c : Nat) (f : Ctx → Ctx) : (modCtx d u c f).ident = d.ident := rfl
@[simp] theorem modCtx_doms (u c : Nat) (f : Ctx → Ctx) : (modCtx d u c f).doms = d.doms := rfl
@[simp] theorem modCtx_pwait (u c : Nat) (f : Ctx → Ctx) : (modCtx d u c f).pwait = d.pwait := rfl
@[simp] theorem modCtx_ckpts (u c : Nat) (f : Ctx → Ctx) : (modCtx d u c f).ckpts = d.ckpts := rfl
@[simp] theorem modCtx_pst (u c : Nat) (f : Ctx → Ctx) : (modCtx d u c f).pst = d.pst := rfl
@[simp] theorem modCtx_hat (u c : Nat) (f : Ctx → Ctx) : (modCtx d u c f).hat = d.hat := rfl
@[simp] theorem modCtx_snap (u c : Nat) (f : Ctx → Ctx) : (modCtx d u c f).snap = d.snap := rfl
@[simp] theorem modCtx_busData (u c : Nat) (f : Ctx → Ctx) : (modCtx d u c f).busData = d.busData := rfl
@[simp] theorem modCtx_txFrames (u c : Nat) (f : Ctx → Ctx) : (modCtx d u c f).txFrames = d.txFrames := rfl

/-! ### modTile -/
@[simp] theorem modTile_mem (u i : Nat) (f : TileStat → TileStat) : (modTile d u i f).mem = d.mem := rfl
@[simp] theorem modTile_wlog (u i : Nat) (f : TileStat → TileStat) : (modTile d u i f).wlog = d.wlog := rfl
@[simp] theorem modTile_free (u i : Nat) (f : TileStat → TileStat) : (modTile d u i f).free = d.free := rfl
@[simp] theorem modTile_regs (u i : Nat) (f : TileStat → TileStat) : (modTile d u i f).regs = d.regs := rfl
@[simp] theorem modTile_strk (u i : Nat) (f : TileStat → TileStat) : (modTile d u i f).strk = d.strk := rfl
@[simp] theorem modTile_sup (u i : Nat) (f : TileStat → TileStat) : (modTile d u i f).sup = d.sup := rfl
@[simp] theorem modTile_coxes (u i : Nat) (f : TileStat → TileStat) : (modTile d u i f).coxes = d.coxes := rfl
@[simp] theorem modTile_dies (u i : Nat) (f : TileStat → TileStat) : (modTile d u i f).dies = d.dies := rfl
@[simp] theorem modTile_steps (u i : Nat) (f : TileStat → TileStat) : (modTile d u i f).steps = d.steps := rfl
@[simp] theorem modTile_gaunts (u i : Nat) (f : TileStat → TileStat) : (modTile d u i f).gaunts = d.gaunts := rfl
@[simp] theorem modTile_xlate (u i : Nat) (f : TileStat → TileStat) : (modTile d u i f).xlate = d.xlate := rfl
@[simp] theorem modTile_sown (u i : Nat) (f : TileStat → TileStat) : (modTile d u i f).sown = d.sown := rfl
@[simp] theorem modTile_lown (u i : Nat) (f : TileStat → TileStat) : (modTile d u i f).lown = d.lown := rfl
@[simp] theorem modTile_queues (u i : Nat) (f : TileStat → TileStat) : (modTile d u i f).queues = d.queues := rfl
@[simp] theorem modTile_evlog (u i : Nat) (f : TileStat → TileStat) : (modTile d u i f).evlog = d.evlog := rfl
@[simp] theorem modTile_kv (u i : Nat) (f : TileStat → TileStat) : (modTile d u i f).kv = d.kv := rfl
@[simp] theorem modTile_stems (u i : Nat) (f : TileStat → TileStat) : (modTile d u i f).stems = d.stems := rfl
@[simp] theorem modTile_decs (u i : Nat) (f : TileStat → TileStat) : (modTile d u i f).decs = d.decs := rfl
@[simp] theorem modTile_sess (u i : Nat) (f : TileStat → TileStat) : (modTile d u i f).sess = d.sess := rfl
@[simp] theorem modTile_pipes (u i : Nat) (f : TileStat → TileStat) : (modTile d u i f).pipes = d.pipes := rfl
@[simp] theorem modTile_ports (u i : Nat) (f : TileStat → TileStat) : (modTile d u i f).ports = d.ports := rfl
@[simp] theorem modTile_fab (u i : Nat) (f : TileStat → TileStat) : (modTile d u i f).fab = d.fab := rfl
@[simp] theorem modTile_funcs (u i : Nat) (f : TileStat → TileStat) : (modTile d u i f).funcs = d.funcs := rfl
@[simp] theorem modTile_waits (u i : Nat) (f : TileStat → TileStat) : (modTile d u i f).waits = d.waits := rfl
@[simp] theorem modTile_bnds (u i : Nat) (f : TileStat → TileStat) : (modTile d u i f).bnds = d.bnds := rfl
@[simp] theorem modTile_ident (u i : Nat) (f : TileStat → TileStat) : (modTile d u i f).ident = d.ident := rfl
@[simp] theorem modTile_doms (u i : Nat) (f : TileStat → TileStat) : (modTile d u i f).doms = d.doms := rfl
@[simp] theorem modTile_pwait (u i : Nat) (f : TileStat → TileStat) : (modTile d u i f).pwait = d.pwait := rfl
@[simp] theorem modTile_ckpts (u i : Nat) (f : TileStat → TileStat) : (modTile d u i f).ckpts = d.ckpts := rfl
@[simp] theorem modTile_pst (u i : Nat) (f : TileStat → TileStat) : (modTile d u i f).pst = d.pst := rfl
@[simp] theorem modTile_hat (u i : Nat) (f : TileStat → TileStat) : (modTile d u i f).hat = d.hat := rfl
@[simp] theorem modTile_snap (u i : Nat) (f : TileStat → TileStat) : (modTile d u i f).snap = d.snap := rfl
@[simp] theorem modTile_busData (u i : Nat) (f : TileStat → TileStat) : (modTile d u i f).busData = d.busData := rfl
@[simp] theorem modTile_txFrames (u i : Nat) (f : TileStat → TileStat) : (modTile d u i f).txFrames = d.txFrames := rfl

/-! ### modCox -/
@[simp] theorem modCox_mem (c : Nat) (f : Cox → Cox) : (modCox d c f).mem = d.mem := rfl
@[simp] theorem modCox_wlog (c : Nat) (f : Cox → Cox) : (modCox d c f).wlog = d.wlog := rfl
@[simp] theorem modCox_free (c : Nat) (f : Cox → Cox) : (modCox d c f).free = d.free := rfl
@[simp] theorem modCox_regs (c : Nat) (f : Cox → Cox) : (modCox d c f).regs = d.regs := rfl
@[simp] theorem modCox_strk (c : Nat) (f : Cox → Cox) : (modCox d c f).strk = d.strk := rfl
@[simp] theorem modCox_sup (c : Nat) (f : Cox → Cox) : (modCox d c f).sup = d.sup := rfl
@[simp] theorem modCox_seats (c : Nat) (f : Cox → Cox) : (modCox d c f).seats = d.seats := rfl
@[simp] theorem modCox_dies (c : Nat) (f : Cox → Cox) : (modCox d c f).dies = d.dies := rfl
@[simp] theorem modCox_steps (c : Nat) (f : Cox → Cox) : (modCox d c f).steps = d.steps := rfl
@[simp] theorem modCox_gaunts (c : Nat) (f : Cox → Cox) : (modCox d c f).gaunts = d.gaunts := rfl
@[simp] theorem modCox_xlate (c : Nat) (f : Cox → Cox) : (modCox d c f).xlate = d.xlate := rfl
@[simp] theorem modCox_sown (c : Nat) (f : Cox → Cox) : (modCox d c f).sown = d.sown := rfl
@[simp] theorem modCox_lown (c : Nat) (f : Cox → Cox) : (modCox d c f).lown = d.lown := rfl
@[simp] theorem modCox_queues (c : Nat) (f : Cox → Cox) : (modCox d c f).queues = d.queues := rfl
@[simp] theorem modCox_evlog (c : Nat) (f : Cox → Cox) : (modCox d c f).evlog = d.evlog := rfl
@[simp] theorem modCox_kv (c : Nat) (f : Cox → Cox) : (modCox d c f).kv = d.kv := rfl
@[simp] theorem modCox_stems (c : Nat) (f : Cox → Cox) : (modCox d c f).stems = d.stems := rfl
@[simp] theorem modCox_decs (c : Nat) (f : Cox → Cox) : (modCox d c f).decs = d.decs := rfl
@[simp] theorem modCox_sess (c : Nat) (f : Cox → Cox) : (modCox d c f).sess = d.sess := rfl
@[simp] theorem modCox_pipes (c : Nat) (f : Cox → Cox) : (modCox d c f).pipes = d.pipes := rfl
@[simp] theorem modCox_ports (c : Nat) (f : Cox → Cox) : (modCox d c f).ports = d.ports := rfl
@[simp] theorem modCox_fab (c : Nat) (f : Cox → Cox) : (modCox d c f).fab = d.fab := rfl
@[simp] theorem modCox_funcs (c : Nat) (f : Cox → Cox) : (modCox d c f).funcs = d.funcs := rfl
@[simp] theorem modCox_waits (c : Nat) (f : Cox → Cox) : (modCox d c f).waits = d.waits := rfl
@[simp] theorem modCox_bnds (c : Nat) (f : Cox → Cox) : (modCox d c f).bnds = d.bnds := rfl
@[simp] theorem modCox_ident (c : Nat) (f : Cox → Cox) : (modCox d c f).ident = d.ident := rfl
@[simp] theorem modCox_doms (c : Nat) (f : Cox → Cox) : (modCox d c f).doms = d.doms := rfl
@[simp] theorem modCox_pwait (c : Nat) (f : Cox → Cox) : (modCox d c f).pwait = d.pwait := rfl
@[simp] theorem modCox_ckpts (c : Nat) (f : Cox → Cox) : (modCox d c f).ckpts = d.ckpts := rfl
@[simp] theorem modCox_pst (c : Nat) (f : Cox → Cox) : (modCox d c f).pst = d.pst := rfl
@[simp] theorem modCox_hat (c : Nat) (f : Cox → Cox) : (modCox d c f).hat = d.hat := rfl
@[simp] theorem modCox_snap (c : Nat) (f : Cox → Cox) : (modCox d c f).snap = d.snap := rfl
@[simp] theorem modCox_busData (c : Nat) (f : Cox → Cox) : (modCox d c f).busData = d.busData := rfl
@[simp] theorem modCox_txFrames (c : Nat) (f : Cox → Cox) : (modCox d c f).txFrames = d.txFrames := rfl

/-! ### modG -/
@[simp] theorem modG_mem (g : Nat) (f : Gaunt → Gaunt) : (modG d g f).mem = d.mem := rfl
@[simp] theorem modG_wlog (g : Nat) (f : Gaunt → Gaunt) : (modG d g f).wlog = d.wlog := rfl
@[simp] theorem modG_free (g : Nat) (f : Gaunt → Gaunt) : (modG d g f).free = d.free := rfl
@[simp] theorem modG_regs (g : Nat) (f : Gaunt → Gaunt) : (modG d g f).regs = d.regs := rfl
@[simp] theorem modG_strk (g : Nat) (f : Gaunt → Gaunt) : (modG d g f).strk = d.strk := rfl
@[simp] theorem modG_sup (g : Nat) (f : Gaunt → Gaunt) : (modG d g f).sup = d.sup := rfl
@[simp] theorem modG_seats (g : Nat) (f : Gaunt → Gaunt) : (modG d g f).seats = d.seats := rfl
@[simp] theorem modG_coxes (g : Nat) (f : Gaunt → Gaunt) : (modG d g f).coxes = d.coxes := rfl
@[simp] theorem modG_dies (g : Nat) (f : Gaunt → Gaunt) : (modG d g f).dies = d.dies := rfl
@[simp] theorem modG_steps (g : Nat) (f : Gaunt → Gaunt) : (modG d g f).steps = d.steps := rfl
@[simp] theorem modG_xlate (g : Nat) (f : Gaunt → Gaunt) : (modG d g f).xlate = d.xlate := rfl
@[simp] theorem modG_sown (g : Nat) (f : Gaunt → Gaunt) : (modG d g f).sown = d.sown := rfl
@[simp] theorem modG_lown (g : Nat) (f : Gaunt → Gaunt) : (modG d g f).lown = d.lown := rfl
@[simp] theorem modG_queues (g : Nat) (f : Gaunt → Gaunt) : (modG d g f).queues = d.queues := rfl
@[simp] theorem modG_evlog (g : Nat) (f : Gaunt → Gaunt) : (modG d g f).evlog = d.evlog := rfl
@[simp] theorem modG_kv (g : Nat) (f : Gaunt → Gaunt) : (modG d g f).kv = d.kv := rfl
@[simp] theorem modG_stems (g : Nat) (f : Gaunt → Gaunt) : (modG d g f).stems = d.stems := rfl
@[simp] theorem modG_decs (g : Nat) (f : Gaunt → Gaunt) : (modG d g f).decs = d.decs := rfl
@[simp] theorem modG_sess (g : Nat) (f : Gaunt → Gaunt) : (modG d g f).sess = d.sess := rfl
@[simp] theorem modG_pipes (g : Nat) (f : Gaunt → Gaunt) : (modG d g f).pipes = d.pipes := rfl
@[simp] theorem modG_ports (g : Nat) (f : Gaunt → Gaunt) : (modG d g f).ports = d.ports := rfl
@[simp] theorem modG_fab (g : Nat) (f : Gaunt → Gaunt) : (modG d g f).fab = d.fab := rfl
@[simp] theorem modG_funcs (g : Nat) (f : Gaunt → Gaunt) : (modG d g f).funcs = d.funcs := rfl
@[simp] theorem modG_waits (g : Nat) (f : Gaunt → Gaunt) : (modG d g f).waits = d.waits := rfl
@[simp] theorem modG_bnds (g : Nat) (f : Gaunt → Gaunt) : (modG d g f).bnds = d.bnds := rfl
@[simp] theorem modG_ident (g : Nat) (f : Gaunt → Gaunt) : (modG d g f).ident = d.ident := rfl
@[simp] theorem modG_doms (g : Nat) (f : Gaunt → Gaunt) : (modG d g f).doms = d.doms := rfl
@[simp] theorem modG_pwait (g : Nat) (f : Gaunt → Gaunt) : (modG d g f).pwait = d.pwait := rfl
@[simp] theorem modG_ckpts (g : Nat) (f : Gaunt → Gaunt) : (modG d g f).ckpts = d.ckpts := rfl
@[simp] theorem modG_pst (g : Nat) (f : Gaunt → Gaunt) : (modG d g f).pst = d.pst := rfl
@[simp] theorem modG_hat (g : Nat) (f : Gaunt → Gaunt) : (modG d g f).hat = d.hat := rfl
@[simp] theorem modG_snap (g : Nat) (f : Gaunt → Gaunt) : (modG d g f).snap = d.snap := rfl
@[simp] theorem modG_busData (g : Nat) (f : Gaunt → Gaunt) : (modG d g f).busData = d.busData := rfl
@[simp] theorem modG_txFrames (g : Nat) (f : Gaunt → Gaunt) : (modG d g f).txFrames = d.txFrames := rfl

/-! ### modF -/
@[simp] theorem modF_mem (i : Nat) (f : Func → Func) : (modF d i f).mem = d.mem := rfl
@[simp] theorem modF_wlog (i : Nat) (f : Func → Func) : (modF d i f).wlog = d.wlog := rfl
@[simp] theorem modF_free (i : Nat) (f : Func → Func) : (modF d i f).free = d.free := rfl
@[simp] theorem modF_regs (i : Nat) (f : Func → Func) : (modF d i f).regs = d.regs := rfl
@[simp] theorem modF_strk (i : Nat) (f : Func → Func) : (modF d i f).strk = d.strk := rfl
@[simp] theorem modF_sup (i : Nat) (f : Func → Func) : (modF d i f).sup = d.sup := rfl
@[simp] theorem modF_seats (i : Nat) (f : Func → Func) : (modF d i f).seats = d.seats := rfl
@[simp] theorem modF_coxes (i : Nat) (f : Func → Func) : (modF d i f).coxes = d.coxes := rfl
@[simp] theorem modF_dies (i : Nat) (f : Func → Func) : (modF d i f).dies = d.dies := rfl
@[simp] theorem modF_steps (i : Nat) (f : Func → Func) : (modF d i f).steps = d.steps := rfl
@[simp] theorem modF_gaunts (i : Nat) (f : Func → Func) : (modF d i f).gaunts = d.gaunts := rfl
@[simp] theorem modF_xlate (i : Nat) (f : Func → Func) : (modF d i f).xlate = d.xlate := rfl
@[simp] theorem modF_sown (i : Nat) (f : Func → Func) : (modF d i f).sown = d.sown := rfl
@[simp] theorem modF_lown (i : Nat) (f : Func → Func) : (modF d i f).lown = d.lown := rfl
@[simp] theorem modF_queues (i : Nat) (f : Func → Func) : (modF d i f).queues = d.queues := rfl
@[simp] theorem modF_evlog (i : Nat) (f : Func → Func) : (modF d i f).evlog = d.evlog := rfl
@[simp] theorem modF_kv (i : Nat) (f : Func → Func) : (modF d i f).kv = d.kv := rfl
@[simp] theorem modF_stems (i : Nat) (f : Func → Func) : (modF d i f).stems = d.stems := rfl
@[simp] theorem modF_decs (i : Nat) (f : Func → Func) : (modF d i f).decs = d.decs := rfl
@[simp] theorem modF_sess (i : Nat) (f : Func → Func) : (modF d i f).sess = d.sess := rfl
@[simp] theorem modF_pipes (i : Nat) (f : Func → Func) : (modF d i f).pipes = d.pipes := rfl
@[simp] theorem modF_ports (i : Nat) (f : Func → Func) : (modF d i f).ports = d.ports := rfl
@[simp] theorem modF_fab (i : Nat) (f : Func → Func) : (modF d i f).fab = d.fab := rfl
@[simp] theorem modF_waits (i : Nat) (f : Func → Func) : (modF d i f).waits = d.waits := rfl
@[simp] theorem modF_bnds (i : Nat) (f : Func → Func) : (modF d i f).bnds = d.bnds := rfl
@[simp] theorem modF_ident (i : Nat) (f : Func → Func) : (modF d i f).ident = d.ident := rfl
@[simp] theorem modF_doms (i : Nat) (f : Func → Func) : (modF d i f).doms = d.doms := rfl
@[simp] theorem modF_pwait (i : Nat) (f : Func → Func) : (modF d i f).pwait = d.pwait := rfl
@[simp] theorem modF_ckpts (i : Nat) (f : Func → Func) : (modF d i f).ckpts = d.ckpts := rfl
@[simp] theorem modF_pst (i : Nat) (f : Func → Func) : (modF d i f).pst = d.pst := rfl
@[simp] theorem modF_hat (i : Nat) (f : Func → Func) : (modF d i f).hat = d.hat := rfl
@[simp] theorem modF_snap (i : Nat) (f : Func → Func) : (modF d i f).snap = d.snap := rfl
@[simp] theorem modF_busData (i : Nat) (f : Func → Func) : (modF d i f).busData = d.busData := rfl
@[simp] theorem modF_txFrames (i : Nat) (f : Func → Func) : (modF d i f).txFrames = d.txFrames := rfl

/-! ### modQ -/
@[simp] theorem modQ_mem (n : Nat) (f : Queue → Queue) : (modQ d n f).mem = d.mem := rfl
@[simp] theorem modQ_wlog (n : Nat) (f : Queue → Queue) : (modQ d n f).wlog = d.wlog := rfl
@[simp] theorem modQ_free (n : Nat) (f : Queue → Queue) : (modQ d n f).free = d.free := rfl
@[simp] theorem modQ_regs (n : Nat) (f : Queue → Queue) : (modQ d n f).regs = d.regs := rfl
@[simp] theorem modQ_strk (n : Nat) (f : Queue → Queue) : (modQ d n f).strk = d.strk := rfl
@[simp] theorem modQ_sup (n : Nat) (f : Queue → Queue) : (modQ d n f).sup = d.sup := rfl
@[simp] theorem modQ_seats (n : Nat) (f : Queue → Queue) : (modQ d n f).seats = d.seats := rfl
@[simp] theorem modQ_coxes (n : Nat) (f : Queue → Queue) : (modQ d n f).coxes = d.coxes := rfl
@[simp] theorem modQ_dies (n : Nat) (f : Queue → Queue) : (modQ d n f).dies = d.dies := rfl
@[simp] theorem modQ_steps (n : Nat) (f : Queue → Queue) : (modQ d n f).steps = d.steps := rfl
@[simp] theorem modQ_gaunts (n : Nat) (f : Queue → Queue) : (modQ d n f).gaunts = d.gaunts := rfl
@[simp] theorem modQ_xlate (n : Nat) (f : Queue → Queue) : (modQ d n f).xlate = d.xlate := rfl
@[simp] theorem modQ_sown (n : Nat) (f : Queue → Queue) : (modQ d n f).sown = d.sown := rfl
@[simp] theorem modQ_lown (n : Nat) (f : Queue → Queue) : (modQ d n f).lown = d.lown := rfl
@[simp] theorem modQ_evlog (n : Nat) (f : Queue → Queue) : (modQ d n f).evlog = d.evlog := rfl
@[simp] theorem modQ_kv (n : Nat) (f : Queue → Queue) : (modQ d n f).kv = d.kv := rfl
@[simp] theorem modQ_stems (n : Nat) (f : Queue → Queue) : (modQ d n f).stems = d.stems := rfl
@[simp] theorem modQ_decs (n : Nat) (f : Queue → Queue) : (modQ d n f).decs = d.decs := rfl
@[simp] theorem modQ_sess (n : Nat) (f : Queue → Queue) : (modQ d n f).sess = d.sess := rfl
@[simp] theorem modQ_pipes (n : Nat) (f : Queue → Queue) : (modQ d n f).pipes = d.pipes := rfl
@[simp] theorem modQ_ports (n : Nat) (f : Queue → Queue) : (modQ d n f).ports = d.ports := rfl
@[simp] theorem modQ_fab (n : Nat) (f : Queue → Queue) : (modQ d n f).fab = d.fab := rfl
@[simp] theorem modQ_funcs (n : Nat) (f : Queue → Queue) : (modQ d n f).funcs = d.funcs := rfl
@[simp] theorem modQ_waits (n : Nat) (f : Queue → Queue) : (modQ d n f).waits = d.waits := rfl
@[simp] theorem modQ_bnds (n : Nat) (f : Queue → Queue) : (modQ d n f).bnds = d.bnds := rfl
@[simp] theorem modQ_ident (n : Nat) (f : Queue → Queue) : (modQ d n f).ident = d.ident := rfl
@[simp] theorem modQ_doms (n : Nat) (f : Queue → Queue) : (modQ d n f).doms = d.doms := rfl
@[simp] theorem modQ_pwait (n : Nat) (f : Queue → Queue) : (modQ d n f).pwait = d.pwait := rfl
@[simp] theorem modQ_ckpts (n : Nat) (f : Queue → Queue) : (modQ d n f).ckpts = d.ckpts := rfl
@[simp] theorem modQ_pst (n : Nat) (f : Queue → Queue) : (modQ d n f).pst = d.pst := rfl
@[simp] theorem modQ_hat (n : Nat) (f : Queue → Queue) : (modQ d n f).hat = d.hat := rfl
@[simp] theorem modQ_snap (n : Nat) (f : Queue → Queue) : (modQ d n f).snap = d.snap := rfl
@[simp] theorem modQ_busData (n : Nat) (f : Queue → Queue) : (modQ d n f).busData = d.busData := rfl
@[simp] theorem modQ_txFrames (n : Nat) (f : Queue → Queue) : (modQ d n f).txFrames = d.txFrames := rfl

/-! ### modPort -/
@[simp] theorem modPort_mem (p : Nat) (f : Port → Port) : (modPort d p f).mem = d.mem := rfl
@[simp] theorem modPort_wlog (p : Nat) (f : Port → Port) : (modPort d p f).wlog = d.wlog := rfl
@[simp] theorem modPort_free (p : Nat) (f : Port → Port) : (modPort d p f).free = d.free := rfl
@[simp] theorem modPort_regs (p : Nat) (f : Port → Port) : (modPort d p f).regs = d.regs := rfl
@[simp] theorem modPort_strk (p : Nat) (f : Port → Port) : (modPort d p f).strk = d.strk := rfl
@[simp] theorem modPort_sup (p : Nat) (f : Port → Port) : (modPort d p f).sup = d.sup := rfl
@[simp] theorem modPort_seats (p : Nat) (f : Port → Port) : (modPort d p f).seats = d.seats := rfl
@[simp] theorem modPort_coxes (p : Nat) (f : Port → Port) : (modPort d p f).coxes = d.coxes := rfl
@[simp] theorem modPort_dies (p : Nat) (f : Port → Port) : (modPort d p f).dies = d.dies := rfl
@[simp] theorem modPort_steps (p : Nat) (f : Port → Port) : (modPort d p f).steps = d.steps := rfl
@[simp] theorem modPort_gaunts (p : Nat) (f : Port → Port) : (modPort d p f).gaunts = d.gaunts := rfl
@[simp] theorem modPort_xlate (p : Nat) (f : Port → Port) : (modPort d p f).xlate = d.xlate := rfl
@[simp] theorem modPort_sown (p : Nat) (f : Port → Port) : (modPort d p f).sown = d.sown := rfl
@[simp] theorem modPort_lown (p : Nat) (f : Port → Port) : (modPort d p f).lown = d.lown := rfl
@[simp] theorem modPort_queues (p : Nat) (f : Port → Port) : (modPort d p f).queues = d.queues := rfl
@[simp] theorem modPort_evlog (p : Nat) (f : Port → Port) : (modPort d p f).evlog = d.evlog := rfl
@[simp] theorem modPort_kv (p : Nat) (f : Port → Port) : (modPort d p f).kv = d.kv := rfl
@[simp] theorem modPort_stems (p : Nat) (f : Port → Port) : (modPort d p f).stems = d.stems := rfl
@[simp] theorem modPort_decs (p : Nat) (f : Port → Port) : (modPort d p f).decs = d.decs := rfl
@[simp] theorem modPort_sess (p : Nat) (f : Port → Port) : (modPort d p f).sess = d.sess := rfl
@[simp] theorem modPort_pipes (p : Nat) (f : Port → Port) : (modPort d p f).pipes = d.pipes := rfl
@[simp] theorem modPort_fab (p : Nat) (f : Port → Port) : (modPort d p f).fab = d.fab := rfl
@[simp] theorem modPort_funcs (p : Nat) (f : Port → Port) : (modPort d p f).funcs = d.funcs := rfl
@[simp] theorem modPort_waits (p : Nat) (f : Port → Port) : (modPort d p f).waits = d.waits := rfl
@[simp] theorem modPort_bnds (p : Nat) (f : Port → Port) : (modPort d p f).bnds = d.bnds := rfl
@[simp] theorem modPort_ident (p : Nat) (f : Port → Port) : (modPort d p f).ident = d.ident := rfl
@[simp] theorem modPort_doms (p : Nat) (f : Port → Port) : (modPort d p f).doms = d.doms := rfl
@[simp] theorem modPort_pwait (p : Nat) (f : Port → Port) : (modPort d p f).pwait = d.pwait := rfl
@[simp] theorem modPort_ckpts (p : Nat) (f : Port → Port) : (modPort d p f).ckpts = d.ckpts := rfl
@[simp] theorem modPort_pst (p : Nat) (f : Port → Port) : (modPort d p f).pst = d.pst := rfl
@[simp] theorem modPort_hat (p : Nat) (f : Port → Port) : (modPort d p f).hat = d.hat := rfl
@[simp] theorem modPort_snap (p : Nat) (f : Port → Port) : (modPort d p f).snap = d.snap := rfl
@[simp] theorem modPort_busData (p : Nat) (f : Port → Port) : (modPort d p f).busData = d.busData := rfl
@[simp] theorem modPort_txFrames (p : Nat) (f : Port → Port) : (modPort d p f).txFrames = d.txFrames := rfl

/-! ### modKv -/
@[simp] theorem modKv_mem (t : Nat) (f : KvRoot → KvRoot) : (modKv d t f).mem = d.mem := rfl
@[simp] theorem modKv_wlog (t : Nat) (f : KvRoot → KvRoot) : (modKv d t f).wlog = d.wlog := rfl
@[simp] theorem modKv_free (t : Nat) (f : KvRoot → KvRoot) : (modKv d t f).free = d.free := rfl
@[simp] theorem modKv_regs (t : Nat) (f : KvRoot → KvRoot) : (modKv d t f).regs = d.regs := rfl
@[simp] theorem modKv_strk (t : Nat) (f : KvRoot → KvRoot) : (modKv d t f).strk = d.strk := rfl
@[simp] theorem modKv_sup (t : Nat) (f : KvRoot → KvRoot) : (modKv d t f).sup = d.sup := rfl
@[simp] theorem modKv_seats (t : Nat) (f : KvRoot → KvRoot) : (modKv d t f).seats = d.seats := rfl
@[simp] theorem modKv_coxes (t : Nat) (f : KvRoot → KvRoot) : (modKv d t f).coxes = d.coxes := rfl
@[simp] theorem modKv_dies (t : Nat) (f : KvRoot → KvRoot) : (modKv d t f).dies = d.dies := rfl
@[simp] theorem modKv_steps (t : Nat) (f : KvRoot → KvRoot) : (modKv d t f).steps = d.steps := rfl
@[simp] theorem modKv_gaunts (t : Nat) (f : KvRoot → KvRoot) : (modKv d t f).gaunts = d.gaunts := rfl
@[simp] theorem modKv_xlate (t : Nat) (f : KvRoot → KvRoot) : (modKv d t f).xlate = d.xlate := rfl
@[simp] theorem modKv_sown (t : Nat) (f : KvRoot → KvRoot) : (modKv d t f).sown = d.sown := rfl
@[simp] theorem modKv_lown (t : Nat) (f : KvRoot → KvRoot) : (modKv d t f).lown = d.lown := rfl
@[simp] theorem modKv_queues (t : Nat) (f : KvRoot → KvRoot) : (modKv d t f).queues = d.queues := rfl
@[simp] theorem modKv_evlog (t : Nat) (f : KvRoot → KvRoot) : (modKv d t f).evlog = d.evlog := rfl
@[simp] theorem modKv_stems (t : Nat) (f : KvRoot → KvRoot) : (modKv d t f).stems = d.stems := rfl
@[simp] theorem modKv_decs (t : Nat) (f : KvRoot → KvRoot) : (modKv d t f).decs = d.decs := rfl
@[simp] theorem modKv_sess (t : Nat) (f : KvRoot → KvRoot) : (modKv d t f).sess = d.sess := rfl
@[simp] theorem modKv_pipes (t : Nat) (f : KvRoot → KvRoot) : (modKv d t f).pipes = d.pipes := rfl
@[simp] theorem modKv_ports (t : Nat) (f : KvRoot → KvRoot) : (modKv d t f).ports = d.ports := rfl
@[simp] theorem modKv_fab (t : Nat) (f : KvRoot → KvRoot) : (modKv d t f).fab = d.fab := rfl
@[simp] theorem modKv_funcs (t : Nat) (f : KvRoot → KvRoot) : (modKv d t f).funcs = d.funcs := rfl
@[simp] theorem modKv_waits (t : Nat) (f : KvRoot → KvRoot) : (modKv d t f).waits = d.waits := rfl
@[simp] theorem modKv_bnds (t : Nat) (f : KvRoot → KvRoot) : (modKv d t f).bnds = d.bnds := rfl
@[simp] theorem modKv_ident (t : Nat) (f : KvRoot → KvRoot) : (modKv d t f).ident = d.ident := rfl
@[simp] theorem modKv_doms (t : Nat) (f : KvRoot → KvRoot) : (modKv d t f).doms = d.doms := rfl
@[simp] theorem modKv_pwait (t : Nat) (f : KvRoot → KvRoot) : (modKv d t f).pwait = d.pwait := rfl
@[simp] theorem modKv_ckpts (t : Nat) (f : KvRoot → KvRoot) : (modKv d t f).ckpts = d.ckpts := rfl
@[simp] theorem modKv_pst (t : Nat) (f : KvRoot → KvRoot) : (modKv d t f).pst = d.pst := rfl
@[simp] theorem modKv_hat (t : Nat) (f : KvRoot → KvRoot) : (modKv d t f).hat = d.hat := rfl
@[simp] theorem modKv_snap (t : Nat) (f : KvRoot → KvRoot) : (modKv d t f).snap = d.snap := rfl
@[simp] theorem modKv_busData (t : Nat) (f : KvRoot → KvRoot) : (modKv d t f).busData = d.busData := rfl
@[simp] theorem modKv_txFrames (t : Nat) (f : KvRoot → KvRoot) : (modKv d t f).txFrames = d.txFrames := rfl

/-! ### modDec -/
@[simp] theorem modDec_mem (c : Nat) (f : DecCtx → DecCtx) : (modDec d c f).mem = d.mem := rfl
@[simp] theorem modDec_wlog (c : Nat) (f : DecCtx → DecCtx) : (modDec d c f).wlog = d.wlog := rfl
@[simp] theorem modDec_free (c : Nat) (f : DecCtx → DecCtx) : (modDec d c f).free = d.free := rfl
@[simp] theorem modDec_regs (c : Nat) (f : DecCtx → DecCtx) : (modDec d c f).regs = d.regs := rfl
@[simp] theorem modDec_strk (c : Nat) (f : DecCtx → DecCtx) : (modDec d c f).strk = d.strk := rfl
@[simp] theorem modDec_sup (c : Nat) (f : DecCtx → DecCtx) : (modDec d c f).sup = d.sup := rfl
@[simp] theorem modDec_seats (c : Nat) (f : DecCtx → DecCtx) : (modDec d c f).seats = d.seats := rfl
@[simp] theorem modDec_coxes (c : Nat) (f : DecCtx → DecCtx) : (modDec d c f).coxes = d.coxes := rfl
@[simp] theorem modDec_dies (c : Nat) (f : DecCtx → DecCtx) : (modDec d c f).dies = d.dies := rfl
@[simp] theorem modDec_steps (c : Nat) (f : DecCtx → DecCtx) : (modDec d c f).steps = d.steps := rfl
@[simp] theorem modDec_gaunts (c : Nat) (f : DecCtx → DecCtx) : (modDec d c f).gaunts = d.gaunts := rfl
@[simp] theorem modDec_xlate (c : Nat) (f : DecCtx → DecCtx) : (modDec d c f).xlate = d.xlate := rfl
@[simp] theorem modDec_sown (c : Nat) (f : DecCtx → DecCtx) : (modDec d c f).sown = d.sown := rfl
@[simp] theorem modDec_lown (c : Nat) (f : DecCtx → DecCtx) : (modDec d c f).lown = d.lown := rfl
@[simp] theorem modDec_queues (c : Nat) (f : DecCtx → DecCtx) : (modDec d c f).queues = d.queues := rfl
@[simp] theorem modDec_evlog (c : Nat) (f : DecCtx → DecCtx) : (modDec d c f).evlog = d.evlog := rfl
@[simp] theorem modDec_kv (c : Nat) (f : DecCtx → DecCtx) : (modDec d c f).kv = d.kv := rfl
@[simp] theorem modDec_stems (c : Nat) (f : DecCtx → DecCtx) : (modDec d c f).stems = d.stems := rfl
@[simp] theorem modDec_sess (c : Nat) (f : DecCtx → DecCtx) : (modDec d c f).sess = d.sess := rfl
@[simp] theorem modDec_pipes (c : Nat) (f : DecCtx → DecCtx) : (modDec d c f).pipes = d.pipes := rfl
@[simp] theorem modDec_ports (c : Nat) (f : DecCtx → DecCtx) : (modDec d c f).ports = d.ports := rfl
@[simp] theorem modDec_fab (c : Nat) (f : DecCtx → DecCtx) : (modDec d c f).fab = d.fab := rfl
@[simp] theorem modDec_funcs (c : Nat) (f : DecCtx → DecCtx) : (modDec d c f).funcs = d.funcs := rfl
@[simp] theorem modDec_waits (c : Nat) (f : DecCtx → DecCtx) : (modDec d c f).waits = d.waits := rfl
@[simp] theorem modDec_bnds (c : Nat) (f : DecCtx → DecCtx) : (modDec d c f).bnds = d.bnds := rfl
@[simp] theorem modDec_ident (c : Nat) (f : DecCtx → DecCtx) : (modDec d c f).ident = d.ident := rfl
@[simp] theorem modDec_doms (c : Nat) (f : DecCtx → DecCtx) : (modDec d c f).doms = d.doms := rfl
@[simp] theorem modDec_pwait (c : Nat) (f : DecCtx → DecCtx) : (modDec d c f).pwait = d.pwait := rfl
@[simp] theorem modDec_ckpts (c : Nat) (f : DecCtx → DecCtx) : (modDec d c f).ckpts = d.ckpts := rfl
@[simp] theorem modDec_pst (c : Nat) (f : DecCtx → DecCtx) : (modDec d c f).pst = d.pst := rfl
@[simp] theorem modDec_hat (c : Nat) (f : DecCtx → DecCtx) : (modDec d c f).hat = d.hat := rfl
@[simp] theorem modDec_snap (c : Nat) (f : DecCtx → DecCtx) : (modDec d c f).snap = d.snap := rfl
@[simp] theorem modDec_busData (c : Nat) (f : DecCtx → DecCtx) : (modDec d c f).busData = d.busData := rfl
@[simp] theorem modDec_txFrames (c : Nat) (f : DecCtx → DecCtx) : (modDec d c f).txFrames = d.txFrames := rfl

/-! ### modSess -/
@[simp] theorem modSess_mem (n : Nat) (f : VSess → VSess) : (modSess d n f).mem = d.mem := rfl
@[simp] theorem modSess_wlog (n : Nat) (f : VSess → VSess) : (modSess d n f).wlog = d.wlog := rfl
@[simp] theorem modSess_free (n : Nat) (f : VSess → VSess) : (modSess d n f).free = d.free := rfl
@[simp] theorem modSess_regs (n : Nat) (f : VSess → VSess) : (modSess d n f).regs = d.regs := rfl
@[simp] theorem modSess_strk (n : Nat) (f : VSess → VSess) : (modSess d n f).strk = d.strk := rfl
@[simp] theorem modSess_sup (n : Nat) (f : VSess → VSess) : (modSess d n f).sup = d.sup := rfl
@[simp] theorem modSess_seats (n : Nat) (f : VSess → VSess) : (modSess d n f).seats = d.seats := rfl
@[simp] theorem modSess_coxes (n : Nat) (f : VSess → VSess) : (modSess d n f).coxes = d.coxes := rfl
@[simp] theorem modSess_dies (n : Nat) (f : VSess → VSess) : (modSess d n f).dies = d.dies := rfl
@[simp] theorem modSess_steps (n : Nat) (f : VSess → VSess) : (modSess d n f).steps = d.steps := rfl
@[simp] theorem modSess_gaunts (n : Nat) (f : VSess → VSess) : (modSess d n f).gaunts = d.gaunts := rfl
@[simp] theorem modSess_xlate (n : Nat) (f : VSess → VSess) : (modSess d n f).xlate = d.xlate := rfl
@[simp] theorem modSess_sown (n : Nat) (f : VSess → VSess) : (modSess d n f).sown = d.sown := rfl
@[simp] theorem modSess_lown (n : Nat) (f : VSess → VSess) : (modSess d n f).lown = d.lown := rfl
@[simp] theorem modSess_queues (n : Nat) (f : VSess → VSess) : (modSess d n f).queues = d.queues := rfl
@[simp] theorem modSess_evlog (n : Nat) (f : VSess → VSess) : (modSess d n f).evlog = d.evlog := rfl
@[simp] theorem modSess_kv (n : Nat) (f : VSess → VSess) : (modSess d n f).kv = d.kv := rfl
@[simp] theorem modSess_stems (n : Nat) (f : VSess → VSess) : (modSess d n f).stems = d.stems := rfl
@[simp] theorem modSess_decs (n : Nat) (f : VSess → VSess) : (modSess d n f).decs = d.decs := rfl
@[simp] theorem modSess_pipes (n : Nat) (f : VSess → VSess) : (modSess d n f).pipes = d.pipes := rfl
@[simp] theorem modSess_ports (n : Nat) (f : VSess → VSess) : (modSess d n f).ports = d.ports := rfl
@[simp] theorem modSess_fab (n : Nat) (f : VSess → VSess) : (modSess d n f).fab = d.fab := rfl
@[simp] theorem modSess_funcs (n : Nat) (f : VSess → VSess) : (modSess d n f).funcs = d.funcs := rfl
@[simp] theorem modSess_waits (n : Nat) (f : VSess → VSess) : (modSess d n f).waits = d.waits := rfl
@[simp] theorem modSess_bnds (n : Nat) (f : VSess → VSess) : (modSess d n f).bnds = d.bnds := rfl
@[simp] theorem modSess_ident (n : Nat) (f : VSess → VSess) : (modSess d n f).ident = d.ident := rfl
@[simp] theorem modSess_doms (n : Nat) (f : VSess → VSess) : (modSess d n f).doms = d.doms := rfl
@[simp] theorem modSess_pwait (n : Nat) (f : VSess → VSess) : (modSess d n f).pwait = d.pwait := rfl
@[simp] theorem modSess_ckpts (n : Nat) (f : VSess → VSess) : (modSess d n f).ckpts = d.ckpts := rfl
@[simp] theorem modSess_pst (n : Nat) (f : VSess → VSess) : (modSess d n f).pst = d.pst := rfl
@[simp] theorem modSess_hat (n : Nat) (f : VSess → VSess) : (modSess d n f).hat = d.hat := rfl
@[simp] theorem modSess_snap (n : Nat) (f : VSess → VSess) : (modSess d n f).snap = d.snap := rfl
@[simp] theorem modSess_busData (n : Nat) (f : VSess → VSess) : (modSess d n f).busData = d.busData := rfl
@[simp] theorem modSess_txFrames (n : Nat) (f : VSess → VSess) : (modSess d n f).txFrames = d.txFrames := rfl

/-! ### modPipe -/
@[simp] theorem modPipe_mem (p : Nat) (f : Pipe → Pipe) : (modPipe d p f).mem = d.mem := rfl
@[simp] theorem modPipe_wlog (p : Nat) (f : Pipe → Pipe) : (modPipe d p f).wlog = d.wlog := rfl
@[simp] theorem modPipe_free (p : Nat) (f : Pipe → Pipe) : (modPipe d p f).free = d.free := rfl
@[simp] theorem modPipe_regs (p : Nat) (f : Pipe → Pipe) : (modPipe d p f).regs = d.regs := rfl
@[simp] theorem modPipe_strk (p : Nat) (f : Pipe → Pipe) : (modPipe d p f).strk = d.strk := rfl
@[simp] theorem modPipe_sup (p : Nat) (f : Pipe → Pipe) : (modPipe d p f).sup = d.sup := rfl
@[simp] theorem modPipe_seats (p : Nat) (f : Pipe → Pipe) : (modPipe d p f).seats = d.seats := rfl
@[simp] theorem modPipe_coxes (p : Nat) (f : Pipe → Pipe) : (modPipe d p f).coxes = d.coxes := rfl
@[simp] theorem modPipe_dies (p : Nat) (f : Pipe → Pipe) : (modPipe d p f).dies = d.dies := rfl
@[simp] theorem modPipe_steps (p : Nat) (f : Pipe → Pipe) : (modPipe d p f).steps = d.steps := rfl
@[simp] theorem modPipe_gaunts (p : Nat) (f : Pipe → Pipe) : (modPipe d p f).gaunts = d.gaunts := rfl
@[simp] theorem modPipe_xlate (p : Nat) (f : Pipe → Pipe) : (modPipe d p f).xlate = d.xlate := rfl
@[simp] theorem modPipe_sown (p : Nat) (f : Pipe → Pipe) : (modPipe d p f).sown = d.sown := rfl
@[simp] theorem modPipe_lown (p : Nat) (f : Pipe → Pipe) : (modPipe d p f).lown = d.lown := rfl
@[simp] theorem modPipe_queues (p : Nat) (f : Pipe → Pipe) : (modPipe d p f).queues = d.queues := rfl
@[simp] theorem modPipe_evlog (p : Nat) (f : Pipe → Pipe) : (modPipe d p f).evlog = d.evlog := rfl
@[simp] theorem modPipe_kv (p : Nat) (f : Pipe → Pipe) : (modPipe d p f).kv = d.kv := rfl
@[simp] theorem modPipe_stems (p : Nat) (f : Pipe → Pipe) : (modPipe d p f).stems = d.stems := rfl
@[simp] theorem modPipe_decs (p : Nat) (f : Pipe → Pipe) : (modPipe d p f).decs = d.decs := rfl
@[simp] theorem modPipe_sess (p : Nat) (f : Pipe → Pipe) : (modPipe d p f).sess = d.sess := rfl
@[simp] theorem modPipe_ports (p : Nat) (f : Pipe → Pipe) : (modPipe d p f).ports = d.ports := rfl
@[simp] theorem modPipe_fab (p : Nat) (f : Pipe → Pipe) : (modPipe d p f).fab = d.fab := rfl
@[simp] theorem modPipe_funcs (p : Nat) (f : Pipe → Pipe) : (modPipe d p f).funcs = d.funcs := rfl
@[simp] theorem modPipe_waits (p : Nat) (f : Pipe → Pipe) : (modPipe d p f).waits = d.waits := rfl
@[simp] theorem modPipe_bnds (p : Nat) (f : Pipe → Pipe) : (modPipe d p f).bnds = d.bnds := rfl
@[simp] theorem modPipe_ident (p : Nat) (f : Pipe → Pipe) : (modPipe d p f).ident = d.ident := rfl
@[simp] theorem modPipe_doms (p : Nat) (f : Pipe → Pipe) : (modPipe d p f).doms = d.doms := rfl
@[simp] theorem modPipe_pwait (p : Nat) (f : Pipe → Pipe) : (modPipe d p f).pwait = d.pwait := rfl
@[simp] theorem modPipe_ckpts (p : Nat) (f : Pipe → Pipe) : (modPipe d p f).ckpts = d.ckpts := rfl
@[simp] theorem modPipe_pst (p : Nat) (f : Pipe → Pipe) : (modPipe d p f).pst = d.pst := rfl
@[simp] theorem modPipe_hat (p : Nat) (f : Pipe → Pipe) : (modPipe d p f).hat = d.hat := rfl
@[simp] theorem modPipe_snap (p : Nat) (f : Pipe → Pipe) : (modPipe d p f).snap = d.snap := rfl
@[simp] theorem modPipe_busData (p : Nat) (f : Pipe → Pipe) : (modPipe d p f).busData = d.busData := rfl
@[simp] theorem modPipe_txFrames (p : Nat) (f : Pipe → Pipe) : (modPipe d p f).txFrames = d.txFrames := rfl

/-! ### modDom -/
@[simp] theorem modDom_mem (n : Nat) (f : Dom → Dom) : (modDom d n f).mem = d.mem := rfl
@[simp] theorem modDom_wlog (n : Nat) (f : Dom → Dom) : (modDom d n f).wlog = d.wlog := rfl
@[simp] theorem modDom_free (n : Nat) (f : Dom → Dom) : (modDom d n f).free = d.free := rfl
@[simp] theorem modDom_regs (n : Nat) (f : Dom → Dom) : (modDom d n f).regs = d.regs := rfl
@[simp] theorem modDom_strk (n : Nat) (f : Dom → Dom) : (modDom d n f).strk = d.strk := rfl
@[simp] theorem modDom_sup (n : Nat) (f : Dom → Dom) : (modDom d n f).sup = d.sup := rfl
@[simp] theorem modDom_seats (n : Nat) (f : Dom → Dom) : (modDom d n f).seats = d.seats := rfl
@[simp] theorem modDom_coxes (n : Nat) (f : Dom → Dom) : (modDom d n f).coxes = d.coxes := rfl
@[simp] theorem modDom_dies (n : Nat) (f : Dom → Dom) : (modDom d n f).dies = d.dies := rfl
@[simp] theorem modDom_steps (n : Nat) (f : Dom → Dom) : (modDom d n f).steps = d.steps := rfl
@[simp] theorem modDom_gaunts (n : Nat) (f : Dom → Dom) : (modDom d n f).gaunts = d.gaunts := rfl
@[simp] theorem modDom_xlate (n : Nat) (f : Dom → Dom) : (modDom d n f).xlate = d.xlate := rfl
@[simp] theorem modDom_sown (n : Nat) (f : Dom → Dom) : (modDom d n f).sown = d.sown := rfl
@[simp] theorem modDom_lown (n : Nat) (f : Dom → Dom) : (modDom d n f).lown = d.lown := rfl
@[simp] theorem modDom_queues (n : Nat) (f : Dom → Dom) : (modDom d n f).queues = d.queues := rfl
@[simp] theorem modDom_evlog (n : Nat) (f : Dom → Dom) : (modDom d n f).evlog = d.evlog := rfl
@[simp] theorem modDom_kv (n : Nat) (f : Dom → Dom) : (modDom d n f).kv = d.kv := rfl
@[simp] theorem modDom_stems (n : Nat) (f : Dom → Dom) : (modDom d n f).stems = d.stems := rfl
@[simp] theorem modDom_decs (n : Nat) (f : Dom → Dom) : (modDom d n f).decs = d.decs := rfl
@[simp] theorem modDom_sess (n : Nat) (f : Dom → Dom) : (modDom d n f).sess = d.sess := rfl
@[simp] theorem modDom_pipes (n : Nat) (f : Dom → Dom) : (modDom d n f).pipes = d.pipes := rfl
@[simp] theorem modDom_ports (n : Nat) (f : Dom → Dom) : (modDom d n f).ports = d.ports := rfl
@[simp] theorem modDom_fab (n : Nat) (f : Dom → Dom) : (modDom d n f).fab = d.fab := rfl
@[simp] theorem modDom_funcs (n : Nat) (f : Dom → Dom) : (modDom d n f).funcs = d.funcs := rfl
@[simp] theorem modDom_waits (n : Nat) (f : Dom → Dom) : (modDom d n f).waits = d.waits := rfl
@[simp] theorem modDom_bnds (n : Nat) (f : Dom → Dom) : (modDom d n f).bnds = d.bnds := rfl
@[simp] theorem modDom_ident (n : Nat) (f : Dom → Dom) : (modDom d n f).ident = d.ident := rfl
@[simp] theorem modDom_pwait (n : Nat) (f : Dom → Dom) : (modDom d n f).pwait = d.pwait := rfl
@[simp] theorem modDom_ckpts (n : Nat) (f : Dom → Dom) : (modDom d n f).ckpts = d.ckpts := rfl
@[simp] theorem modDom_pst (n : Nat) (f : Dom → Dom) : (modDom d n f).pst = d.pst := rfl
@[simp] theorem modDom_hat (n : Nat) (f : Dom → Dom) : (modDom d n f).hat = d.hat := rfl
@[simp] theorem modDom_snap (n : Nat) (f : Dom → Dom) : (modDom d n f).snap = d.snap := rfl
@[simp] theorem modDom_busData (n : Nat) (f : Dom → Dom) : (modDom d n f).busData = d.busData := rfl
@[simp] theorem modDom_txFrames (n : Nat) (f : Dom → Dom) : (modDom d n f).txFrames = d.txFrames := rfl

/-! ### inc32 -/
@[simp] theorem inc32_mem (off n : Nat) : (inc32 d off n).mem = d.mem := rfl
@[simp] theorem inc32_wlog (off n : Nat) : (inc32 d off n).wlog = d.wlog := rfl
@[simp] theorem inc32_free (off n : Nat) : (inc32 d off n).free = d.free := rfl
@[simp] theorem inc32_strk (off n : Nat) : (inc32 d off n).strk = d.strk := rfl
@[simp] theorem inc32_sup (off n : Nat) : (inc32 d off n).sup = d.sup := rfl
@[simp] theorem inc32_seats (off n : Nat) : (inc32 d off n).seats = d.seats := rfl
@[simp] theorem inc32_coxes (off n : Nat) : (inc32 d off n).coxes = d.coxes := rfl
@[simp] theorem inc32_dies (off n : Nat) : (inc32 d off n).dies = d.dies := rfl
@[simp] theorem inc32_steps (off n : Nat) : (inc32 d off n).steps = d.steps := rfl
@[simp] theorem inc32_gaunts (off n : Nat) : (inc32 d off n).gaunts = d.gaunts := rfl
@[simp] theorem inc32_xlate (off n : Nat) : (inc32 d off n).xlate = d.xlate := rfl
@[simp] theorem inc32_sown (off n : Nat) : (inc32 d off n).sown = d.sown := rfl
@[simp] theorem inc32_lown (off n : Nat) : (inc32 d off n).lown = d.lown := rfl
@[simp] theorem inc32_queues (off n : Nat) : (inc32 d off n).queues = d.queues := rfl
@[simp] theorem inc32_evlog (off n : Nat) : (inc32 d off n).evlog = d.evlog := rfl
@[simp] theorem inc32_kv (off n : Nat) : (inc32 d off n).kv = d.kv := rfl
@[simp] theorem inc32_stems (off n : Nat) : (inc32 d off n).stems = d.stems := rfl
@[simp] theorem inc32_decs (off n : Nat) : (inc32 d off n).decs = d.decs := rfl
@[simp] theorem inc32_sess (off n : Nat) : (inc32 d off n).sess = d.sess := rfl
@[simp] theorem inc32_pipes (off n : Nat) : (inc32 d off n).pipes = d.pipes := rfl
@[simp] theorem inc32_ports (off n : Nat) : (inc32 d off n).ports = d.ports := rfl
@[simp] theorem inc32_fab (off n : Nat) : (inc32 d off n).fab = d.fab := rfl
@[simp] theorem inc32_funcs (off n : Nat) : (inc32 d off n).funcs = d.funcs := rfl
@[simp] theorem inc32_waits (off n : Nat) : (inc32 d off n).waits = d.waits := rfl
@[simp] theorem inc32_bnds (off n : Nat) : (inc32 d off n).bnds = d.bnds := rfl
@[simp] theorem inc32_ident (off n : Nat) : (inc32 d off n).ident = d.ident := rfl
@[simp] theorem inc32_doms (off n : Nat) : (inc32 d off n).doms = d.doms := rfl
@[simp] theorem inc32_pwait (off n : Nat) : (inc32 d off n).pwait = d.pwait := rfl
@[simp] theorem inc32_ckpts (off n : Nat) : (inc32 d off n).ckpts = d.ckpts := rfl
@[simp] theorem inc32_pst (off n : Nat) : (inc32 d off n).pst = d.pst := rfl
@[simp] theorem inc32_hat (off n : Nat) : (inc32 d off n).hat = d.hat := rfl
@[simp] theorem inc32_snap (off n : Nat) : (inc32 d off n).snap = d.snap := rfl
@[simp] theorem inc32_busData (off n : Nat) : (inc32 d off n).busData = d.busData := rfl
@[simp] theorem inc32_txFrames (off n : Nat) : (inc32 d off n).txFrames = d.txFrames := rfl

/-! ### inc64 -/
@[simp] theorem inc64_mem (off n : Nat) : (inc64 d off n).mem = d.mem := rfl
@[simp] theorem inc64_wlog (off n : Nat) : (inc64 d off n).wlog = d.wlog := rfl
@[simp] theorem inc64_free (off n : Nat) : (inc64 d off n).free = d.free := rfl
@[simp] theorem inc64_strk (off n : Nat) : (inc64 d off n).strk = d.strk := rfl
@[simp] theorem inc64_sup (off n : Nat) : (inc64 d off n).sup = d.sup := rfl
@[simp] theorem inc64_seats (off n : Nat) : (inc64 d off n).seats = d.seats := rfl
@[simp] theorem inc64_coxes (off n : Nat) : (inc64 d off n).coxes = d.coxes := rfl
@[simp] theorem inc64_dies (off n : Nat) : (inc64 d off n).dies = d.dies := rfl
@[simp] theorem inc64_steps (off n : Nat) : (inc64 d off n).steps = d.steps := rfl
@[simp] theorem inc64_gaunts (off n : Nat) : (inc64 d off n).gaunts = d.gaunts := rfl
@[simp] theorem inc64_xlate (off n : Nat) : (inc64 d off n).xlate = d.xlate := rfl
@[simp] theorem inc64_sown (off n : Nat) : (inc64 d off n).sown = d.sown := rfl
@[simp] theorem inc64_lown (off n : Nat) : (inc64 d off n).lown = d.lown := rfl
@[simp] theorem inc64_queues (off n : Nat) : (inc64 d off n).queues = d.queues := rfl
@[simp] theorem inc64_evlog (off n : Nat) : (inc64 d off n).evlog = d.evlog := rfl
@[simp] theorem inc64_kv (off n : Nat) : (inc64 d off n).kv = d.kv := rfl
@[simp] theorem inc64_stems (off n : Nat) : (inc64 d off n).stems = d.stems := rfl
@[simp] theorem inc64_decs (off n : Nat) : (inc64 d off n).decs = d.decs := rfl
@[simp] theorem inc64_sess (off n : Nat) : (inc64 d off n).sess = d.sess := rfl
@[simp] theorem inc64_pipes (off n : Nat) : (inc64 d off n).pipes = d.pipes := rfl
@[simp] theorem inc64_ports (off n : Nat) : (inc64 d off n).ports = d.ports := rfl
@[simp] theorem inc64_fab (off n : Nat) : (inc64 d off n).fab = d.fab := rfl
@[simp] theorem inc64_funcs (off n : Nat) : (inc64 d off n).funcs = d.funcs := rfl
@[simp] theorem inc64_waits (off n : Nat) : (inc64 d off n).waits = d.waits := rfl
@[simp] theorem inc64_bnds (off n : Nat) : (inc64 d off n).bnds = d.bnds := rfl
@[simp] theorem inc64_ident (off n : Nat) : (inc64 d off n).ident = d.ident := rfl
@[simp] theorem inc64_doms (off n : Nat) : (inc64 d off n).doms = d.doms := rfl
@[simp] theorem inc64_pwait (off n : Nat) : (inc64 d off n).pwait = d.pwait := rfl
@[simp] theorem inc64_ckpts (off n : Nat) : (inc64 d off n).ckpts = d.ckpts := rfl
@[simp] theorem inc64_pst (off n : Nat) : (inc64 d off n).pst = d.pst := rfl
@[simp] theorem inc64_hat (off n : Nat) : (inc64 d off n).hat = d.hat := rfl
@[simp] theorem inc64_snap (off n : Nat) : (inc64 d off n).snap = d.snap := rfl
@[simp] theorem inc64_busData (off n : Nat) : (inc64 d off n).busData = d.busData := rfl
@[simp] theorem inc64_txFrames (off n : Nat) : (inc64 d off n).txFrames = d.txFrames := rfl

/-! ### What the updates write -/
@[simp] theorem modSeat_seats (n : Nat) (f : Seat → Seat) : (modSeat d n f).seats = tput d.seats n (f (seatOf d n)) := rfl
@[simp] theorem modCox_coxes (n : Nat) (f : Cox → Cox) : (modCox d n f).coxes = tput d.coxes n (f (coxOf d n)) := rfl
@[simp] theorem modG_gaunts (n : Nat) (f : Gaunt → Gaunt) : (modG d n f).gaunts = tput d.gaunts n (f (gaunt d n)) := rfl
@[simp] theorem modF_funcs (n : Nat) (f : Func → Func) : (modF d n f).funcs = tput d.funcs n (f (func d n)) := rfl
@[simp] theorem modQ_queues (n : Nat) (f : Queue → Queue) : (modQ d n f).queues = tput d.queues n (f (queue d n)) := rfl
@[simp] theorem modPort_ports (n : Nat) (f : Port → Port) : (modPort d n f).ports = tput d.ports n (f (portOf d n)) := rfl
@[simp] theorem modKv_kv (n : Nat) (f : KvRoot → KvRoot) : (modKv d n f).kv = tput d.kv n (f (kvOf d n)) := rfl
@[simp] theorem modDec_decs (n : Nat) (f : DecCtx → DecCtx) : (modDec d n f).decs = tput d.decs n (f (decOf d n)) := rfl
@[simp] theorem modSess_sess (n : Nat) (f : VSess → VSess) : (modSess d n f).sess = tput d.sess n (f (sessOf d n)) := rfl
@[simp] theorem modPipe_pipes (n : Nat) (f : Pipe → Pipe) : (modPipe d n f).pipes = tput d.pipes n (f (pipeOf d n)) := rfl
@[simp] theorem modDom_doms (n : Nat) (f : Dom → Dom) : (modDom d n f).doms = tput d.doms n (f (domOf d n)) := rfl

/-! ### A store -/
@[simp] theorem store_free (w : Wr) : (store d w).free = d.free := rfl
@[simp] theorem store_regs (w : Wr) : (store d w).regs = d.regs := rfl
@[simp] theorem store_strk (w : Wr) : (store d w).strk = d.strk := rfl
@[simp] theorem store_sup (w : Wr) : (store d w).sup = d.sup := rfl
@[simp] theorem store_seats (w : Wr) : (store d w).seats = d.seats := rfl
@[simp] theorem store_coxes (w : Wr) : (store d w).coxes = d.coxes := rfl
@[simp] theorem store_dies (w : Wr) : (store d w).dies = d.dies := rfl
@[simp] theorem store_steps (w : Wr) : (store d w).steps = d.steps := rfl
@[simp] theorem store_gaunts (w : Wr) : (store d w).gaunts = d.gaunts := rfl
@[simp] theorem store_xlate (w : Wr) : (store d w).xlate = d.xlate := rfl
@[simp] theorem store_sown (w : Wr) : (store d w).sown = d.sown := rfl
@[simp] theorem store_lown (w : Wr) : (store d w).lown = d.lown := rfl
@[simp] theorem store_queues (w : Wr) : (store d w).queues = d.queues := rfl
@[simp] theorem store_evlog (w : Wr) : (store d w).evlog = d.evlog := rfl
@[simp] theorem store_kv (w : Wr) : (store d w).kv = d.kv := rfl
@[simp] theorem store_stems (w : Wr) : (store d w).stems = d.stems := rfl
@[simp] theorem store_decs (w : Wr) : (store d w).decs = d.decs := rfl
@[simp] theorem store_sess (w : Wr) : (store d w).sess = d.sess := rfl
@[simp] theorem store_pipes (w : Wr) : (store d w).pipes = d.pipes := rfl
@[simp] theorem store_ports (w : Wr) : (store d w).ports = d.ports := rfl
@[simp] theorem store_fab (w : Wr) : (store d w).fab = d.fab := rfl
@[simp] theorem store_funcs (w : Wr) : (store d w).funcs = d.funcs := rfl
@[simp] theorem store_waits (w : Wr) : (store d w).waits = d.waits := rfl
@[simp] theorem store_bnds (w : Wr) : (store d w).bnds = d.bnds := rfl
@[simp] theorem store_ident (w : Wr) : (store d w).ident = d.ident := rfl
@[simp] theorem store_doms (w : Wr) : (store d w).doms = d.doms := rfl
@[simp] theorem store_pwait (w : Wr) : (store d w).pwait = d.pwait := rfl
@[simp] theorem store_ckpts (w : Wr) : (store d w).ckpts = d.ckpts := rfl
@[simp] theorem store_pst (w : Wr) : (store d w).pst = d.pst := rfl
@[simp] theorem store_hat (w : Wr) : (store d w).hat = d.hat := rfl
@[simp] theorem store_snap (w : Wr) : (store d w).snap = d.snap := rfl
@[simp] theorem store_busData (w : Wr) : (store d w).busData = d.busData := rfl
@[simp] theorem store_txFrames (w : Wr) : (store d w).txFrames = d.txFrames := rfl
@[simp] theorem store_mem (w : Wr) : (store d w).mem = applyWr d.mem w := rfl
@[simp] theorem store_wlog (w : Wr) : (store d w).wlog = d.wlog ++ [w] := rfl

end Sys2Proof.Machine
end

