-- ==== Sys2Proof/Laws/Table.lean ====
section
/-! SUPPORT. Sparse tables: what is read after a write, and that writing keeps the canonical form. -/
namespace Sys2Proof.Machine

variable {α : Type}

/-! ### Reading after writing -/

@[simp] theorem tfind_tput_self (t : Tbl α) (i : Nat) (v : α) : tfind (tput t i v) i = some v := by
  induction t with
  | nil => simp [tput, tfind]
  | cons p t ih =>
    obtain ⟨k, w⟩ := p
    by_cases h1 : i < k
    · simp [tput, tfind, h1]
    · by_cases h2 : i = k
      · simp [tput, tfind, h2]
      · have h3 : ¬ k = i := fun h => h2 h.symm
        simp [tput, tfind, h1, h2, h3, ih]

theorem tfind_tput_other (t : Tbl α) {i j : Nat} (v : α) (h : i ≠ j) : tfind (tput t i v) j = tfind t j := by
  induction t with
  | nil => simp [tput, tfind, h]
  | cons p t ih =>
    obtain ⟨k, w⟩ := p
    by_cases h1 : i < k
    · simp [tput, tfind, h1, h]
    · by_cases h2 : i = k
      · subst h2
        simp [tput, tfind, h]
      · simp [tput, tfind, h1, h2, ih]

@[simp] theorem tget_tput_self (d : α) (t : Tbl α) (i : Nat) (v : α) : tget d (tput t i v) i = v := by
  simp [tget]

theorem tget_tput_other (d : α) (t : Tbl α) {i j : Nat} (v : α) (h : i ≠ j) : tget d (tput t i v) j = tget d t j := by
  simp [tget, tfind_tput_other t v h]

theorem tfind_tdel_other (t : Tbl α) {i j : Nat} (h : i ≠ j) : tfind (tdel t i) j = tfind t j := by
  induction t with
  | nil => rfl
  | cons p t ih =>
    obtain ⟨k, w⟩ := p
    by_cases h2 : k = i
    · subst h2
      simp [tdel, tfind, h, ih]
    · simp [tdel, tfind, h2, ih]

@[simp] theorem tfind_tdel_self (t : Tbl α) (i : Nat) : tfind (tdel t i) i = none := by
  induction t with
  | nil => rfl
  | cons p t ih =>
    obtain ⟨k, w⟩ := p
    by_cases h2 : k = i
    · simp [tdel, h2, ih]
    · simp [tdel, tfind, h2, ih]

/-! ### Rising keys -/

/-- Every key of a rising table lies above a bound. -/
def Above (b : Nat) (t : Tbl α) : Prop := ∀ p ∈ t, b < p.1

theorem rising_cons {k : Nat} {w : α} {t : Tbl α} : Rising ((k, w) :: t) = true ↔ Above k t ∧ Rising t = true := by
  induction t generalizing k w with
  | nil => simp [Rising, Above]
  | cons p t ih =>
    obtain ⟨j, x⟩ := p
    simp only [Rising, Bool.and_eq_true, decide_eq_true_eq]
    constructor
    · rintro ⟨h, hr⟩
      refine ⟨?_, hr⟩
      intro q hq
      rcases List.mem_cons.1 hq with rfl | hq
      · exact h
      · exact Nat.lt_trans h ((ih.1 hr).1 q hq)
    · rintro ⟨ha, hr⟩
      exact ⟨ha (j, x) (List.mem_cons_self ..), hr⟩

theorem tfind_above {t : Tbl α} {i : Nat} (h : Above i t) : tfind t i = none := by
  induction t with
  | nil => rfl
  | cons p t ih =>
    obtain ⟨k, w⟩ := p
    have hk : i < k := h (k, w) (List.mem_cons_self ..)
    have hne : ¬ k = i := by omega
    simp only [tfind, hne, if_false]
    exact ih fun q hq => h q (List.mem_cons_of_mem _ hq)

theorem mem_tput {t : Tbl α} {i : Nat} {v : α} {p : Nat × α} (h : p ∈ tput t i v) : p = (i, v) ∨ p ∈ t := by
  induction t with
  | nil => simpa [tput] using h
  | cons q t ih =>
    obtain ⟨k, w⟩ := q
    by_cases h1 : i < k
    · simpa [tput, h1] using h
    · by_cases h2 : i = k
      · subst h2
        simp only [tput, h1, if_false, if_true, List.mem_cons] at h
        rcases h with h | h
        · exact Or.inl h
        · exact Or.inr (List.mem_cons_of_mem _ h)
      · simp only [tput, h1, h2, if_false, List.mem_cons] at h
        rcases h with h | h
        · exact Or.inr (by simp [h])
        · exact (ih h).imp_right (List.mem_cons_of_mem _)

theorem mem_tdel {t : Tbl α} {i : Nat} {p : Nat × α} (h : p ∈ tdel t i) : p ∈ t := by
  induction t with
  | nil => exact h
  | cons q t ih =>
    obtain ⟨k, w⟩ := q
    by_cases h2 : k = i
    · simp only [tdel, h2, if_true] at h
      exact List.mem_cons_of_mem _ (ih h)
    · simp only [tdel, h2, if_false, List.mem_cons] at h
      rcases h with h | h
      · simp [h]
      · exact List.mem_cons_of_mem _ (ih h)

theorem rising_tput {t : Tbl α} {i : Nat} {v : α} (h : Rising t = true) : Rising (tput t i v) = true := by
  induction t with
  | nil => rfl
  | cons p t ih =>
    obtain ⟨k, w⟩ := p
    obtain ⟨ha, hr⟩ := rising_cons.1 h
    by_cases h1 : i < k
    · simp only [tput, h1, if_true]
      refine rising_cons.2 ⟨?_, h⟩
      intro q hq
      rcases List.mem_cons.1 hq with rfl | hq
      · exact h1
      · exact Nat.lt_trans h1 (ha q hq)
    · by_cases h2 : i = k
      · subst h2
        simp only [tput, h1, if_false, if_true]
        exact rising_cons.2 ⟨ha, hr⟩
      · simp only [tput, h1, h2, if_false]
        refine rising_cons.2 ⟨?_, ih hr⟩
        intro q hq
        rcases mem_tput hq with rfl | hq
        · show k < i
          omega
        · exact ha q hq

theorem rising_tdel {t : Tbl α} {i : Nat} (h : Rising t = true) : Rising (tdel t i) = true := by
  induction t with
  | nil => rfl
  | cons p t ih =>
    obtain ⟨k, w⟩ := p
    obtain ⟨ha, hr⟩ := rising_cons.1 h
    by_cases h2 : k = i
    · simpa only [tdel, h2, if_true] using ih hr
    · simp only [tdel, h2, if_false]
      exact rising_cons.2 ⟨fun q hq => ha q (mem_tdel hq), ih hr⟩

theorem rising_filter {t : Tbl α} (f : Nat × α → Bool) (h : Rising t = true) : Rising (t.filter f) = true := by
  induction t with
  | nil => rfl
  | cons p t ih =>
    obtain ⟨k, w⟩ := p
    obtain ⟨ha, hr⟩ := rising_cons.1 h
    by_cases hf : f (k, w) = true
    · rw [List.filter_cons_of_pos hf]
      exact rising_cons.2 ⟨fun q hq => ha q (List.mem_filter.1 hq).1, ih hr⟩
    · rw [List.filter_cons_of_neg hf]
      exact ih hr

/-! ### The canonical form -/

variable [DecidableEq α] {d : α}

theorem canonical_iff {t : Tbl α} : canonical d t = true ↔ Rising t = true ∧ ∀ p ∈ t, p.2 ≠ d := by
  simp [canonical, List.all_eq_true]

theorem canonical_nil : canonical d ([] : Tbl α) = true := rfl

theorem canonical_tset {t : Tbl α} {i : Nat} {v : α} (h : canonical d t = true) : canonical d (tset d t i v) = true := by
  obtain ⟨hr, hn⟩ := canonical_iff.1 h
  unfold tset
  split
  · exact canonical_iff.2 ⟨rising_tdel hr, fun p hp => hn p (mem_tdel hp)⟩
  · next hv =>
    refine canonical_iff.2 ⟨rising_tput hr, fun p hp => ?_⟩
    rcases mem_tput hp with rfl | hp
    · exact hv
    · exact hn p hp

theorem canonical_filter {t : Tbl α} (f : Nat × α → Bool) (h : canonical d t = true) : canonical d (t.filter f) = true := by
  obtain ⟨hr, hn⟩ := canonical_iff.1 h
  exact canonical_iff.2 ⟨rising_filter f hr, fun p hp => hn p (List.mem_filter.1 hp).1⟩

@[simp] theorem tget_tset_self (t : Tbl α) (i : Nat) (v : α) : tget d (tset d t i v) i = v := by
  unfold tset
  split
  · next hv => simp [tget, hv]
  · simp

theorem tget_tset_other {t : Tbl α} {i j : Nat} {v : α} (h : i ≠ j) : tget d (tset d t i v) j = tget d t j := by
  unfold tset
  split
  · simp [tget, tfind_tdel_other t h]
  · exact tget_tput_other d t v h

end Sys2Proof.Machine
end

