-- ==== Sys2Proof/Laws/Memory.lean ====
section
/-! SUPPORT. Every operation of the byte memory keeps its canonical form; bytes outside a write read as before. -/
namespace Sys2Proof.Machine

theorem writeMem_wf {m : Tbl Byte} {a : Nat} {bs : Bytes} (h : Memory.wf m = true) : Memory.wf (writeMem m a bs) = true := by
  induction bs generalizing m a with
  | nil => exact h
  | cons b t ih => exact ih (canonical_tset h)

theorem clearMem_wf {m : Tbl Byte} {a n : Nat} (h : Memory.wf m = true) : Memory.wf (clearMem m a n) = true :=
  canonical_filter _ h

theorem fillMem_wf {m : Tbl Byte} {a n : Nat} {b : Byte} (h : Memory.wf m = true) : Memory.wf (fillMem m a n b) = true := by
  unfold fillMem
  split
  · exact clearMem_wf h
  · exact writeMem_wf h

theorem copyMem_wf {m : Tbl Byte} {src dst n : Nat} (h : Memory.wf m = true) : Memory.wf (copyMem m src dst n) = true := by
  unfold copyMem
  generalize m.filter _ = l
  suffices H : ∀ acc : Tbl Byte, Memory.wf acc = true →
      Memory.wf (l.foldl (fun acc p => tset 0 acc (p.1 - src + dst) p.2) acc) = true from H _ (clearMem_wf h)
  induction l with
  | nil => exact fun acc ha => ha
  | cons p t ih => exact fun acc ha => ih _ (canonical_tset ha)

/-- One store keeps the canonical form. -/
theorem applyWr_wf {m : Tbl Byte} (w : Wr) (h : Memory.wf m = true) : Memory.wf (applyWr m w) = true := by
  cases w with
  | bytes a bs => exact writeMem_wf h
  | fill a n b => exact fillMem_wf h
  | copy s d n => exact copyMem_wf h

/-- A list of stores keeps the canonical form. -/
theorem applyAll_wf {m : Tbl Byte} (l : List Wr) (h : Memory.wf m = true) : Memory.wf (l.foldl applyWr m) = true := by
  induction l generalizing m with
  | nil => exact h
  | cons w t ih => exact ih (applyWr_wf w h)

/-- Bytes outside a write read as before. -/
theorem writeMem_outside {m : Tbl Byte} {a : Nat} {bs : Bytes} {x : Nat} (h : x < a ∨ a + bs.length ≤ x) :
    tget 0 (writeMem m a bs) x = tget 0 m x := by
  induction bs generalizing m a with
  | nil => rfl
  | cons b t ih =>
    have hx : a ≠ x := by
      rcases h with h | h
      · omega
      · simp only [List.length_cons] at h
        omega
    have ht : x < a + 1 ∨ a + 1 + t.length ≤ x := by
      simp only [List.length_cons] at h
      omega
    simp only [writeMem]
    rw [ih ht, tget_tset_other hx]

/-- A range that is cleared reads zero. -/
theorem tget_filter_out {m : Tbl Byte} {f : Nat × Byte → Bool} {x : Nat} (h : ∀ b, f (x, b) = false) :
    tget 0 (m.filter f) x = 0 := by
  suffices H : tfind (m.filter f) x = none by simp [tget, H]
  induction m with
  | nil => rfl
  | cons p t ih =>
    obtain ⟨k, w⟩ := p
    by_cases hf : f (k, w) = true
    · rw [List.filter_cons_of_pos hf]
      have hk : ¬ k = x := by
        intro e
        rw [e, h w] at hf
        exact Bool.noConfusion hf
      simp only [tfind, hk, if_false]
      exact ih
    · rw [List.filter_cons_of_neg hf]
      exact ih

theorem clearMem_inside {m : Tbl Byte} {a n x : Nat} (h : a ≤ x ∧ x < a + n) : tget 0 (clearMem m a n) x = 0 :=
  tget_filter_out fun _ => by simp [h.1, h.2]

end Sys2Proof.Machine
end

