-- ==== Sys2Proof/Laws/Run.lean ====
section
/-! SUPPORT. What `run` and the shapes built on it can answer: the lemmas that every statement about a command cites. -/
namespace Sys2Proof.Machine

variable {f : Dev → Dev} {s t : State}

/-- What `run` answers, in full. -/
theorem run_eq (f : Dev → Dev) (s : State) :
    run f s = .next { dev := { f { s.dev with wlog := [] } with mem := (f { s.dev with wlog := [] }).wlog.foldl applyWr s.dev.mem, wlog := [] },
                      pending := s.pending } := rfl

/-- A run keeps the queue of commands, leaves no store over, and keeps the canonical form of the memory. -/
theorem run_next (h : run f s = .next t) :
    t.pending = s.pending ∧ t.dev.wlog = [] ∧ (Memory.wf s.dev.mem = true → Memory.wf t.dev.mem = true) := by
  rw [run_eq] at h
  cases h
  exact ⟨rfl, rfl, fun hm => applyAll_wf _ hm⟩

theorem run_ne_refused {r : Refusal} : run f s ≠ .refused r := by
  rw [run_eq]
  exact nofun

theorem runIf_next {ok : Bool} (h : runIf ok f s = .next t) : ok = true ∧ run f s = .next t := by
  unfold runIf at h
  split at h
  · next hk => exact ⟨hk, h⟩
  · cases h

@[simp] theorem runIf_true : runIf true f s = run f s := rfl
@[simp] theorem runIf_false : runIf false f s = .refused .noSuchUnit := rfl

/-- A seat command that runs: its context exists, and its word spells its own opcode or none. -/
theorem seatCmd_next {op : Nat} {c : CtxAt} {w : SeatWord} {g : Dev → Nat → Nat → Dev} (h : seatCmd op c w g s = .next t) :
    c.wf = true ∧ run (seatGo c w g) s = .next t := by
  unfold seatCmd at h
  split at h
  · cases h
  · next hw =>
    split at h
    · cases h
    · exact ⟨by simpa using hw, h⟩

/-- A lane-core instruction that runs. -/
theorem laneCmd_next {op : Nat} {l : LaneAt} {w : LaneWord} {g : Dev → Seat → LaneCore → Except Nat Dev}
    (h : laneCmd op l w g s = .next t) : l.wf = true ∧ run (laneGo l w g) s = .next t := by
  unfold laneCmd at h
  split at h
  · cases h
  · next hw =>
    split at h
    · cases h
    · exact ⟨by simpa using hw, h⟩

/-- A command of a host row always runs. -/
theorem hostCmd_eq (op : Nat) (masks : List Nat) (rsv : Nat) (h : HostCmd) (body : Dev → Dev) (s : State) :
    hostCmd op masks rsv h body s = run (hostRun op masks rsv h body) s := rfl

/-- A host command that starts and passes the common checks has its own effect. -/
theorem hostRun_go {op : Nat} {masks : List Nat} {rsv : Nat} {h : HostCmd} {body : Dev → Dev} {d : Dev}
    (hs : mayStart d op h = true) (hp : d.pwait.active = false) (hg : cmdGate (startCmd d op h) op masks rsv h = none) :
    hostRun op masks rsv h body d = body (startCmd d op h) := by
  simp [hostRun, hs, hp, hg]

/-- A host command that a common check refuses is rejected with its reason and changes nothing else. -/
theorem hostRun_refused {op : Nat} {masks : List Nat} {rsv c : Nat} {h : HostCmd} {body : Dev → Dev} {d : Dev}
    (hs : mayStart d op h = true) (hp : d.pwait.active = false) (hg : cmdGate (startCmd d op h) op masks rsv h = some c) :
    hostRun op masks rsv h body d = rejCmd (startCmd d op h) h op c := by
  simp [hostRun, hs, hp, hg]

/-! ### What a run answers, with the effect kept abstract -/

/-- Two devices that differ in the memory and the list of stores at most. -/
def SameButMem (d e : Dev) : Prop := ∃ m l, d = { e with mem := m, wlog := l }

theorem SameButMem.free {d e : Dev} (h : SameButMem d e) : d.free = e.free := by
  obtain ⟨m, l, rfl⟩ := h; rfl
theorem SameButMem.regs {d e : Dev} (h : SameButMem d e) : d.regs = e.regs := by
  obtain ⟨m, l, rfl⟩ := h; rfl
theorem SameButMem.strk {d e : Dev} (h : SameButMem d e) : d.strk = e.strk := by
  obtain ⟨m, l, rfl⟩ := h; rfl
theorem SameButMem.sup {d e : Dev} (h : SameButMem d e) : d.sup = e.sup := by
  obtain ⟨m, l, rfl⟩ := h; rfl
theorem SameButMem.seats {d e : Dev} (h : SameButMem d e) : d.seats = e.seats := by
  obtain ⟨m, l, rfl⟩ := h; rfl
theorem SameButMem.coxes {d e : Dev} (h : SameButMem d e) : d.coxes = e.coxes := by
  obtain ⟨m, l, rfl⟩ := h; rfl
theorem SameButMem.dies {d e : Dev} (h : SameButMem d e) : d.dies = e.dies := by
  obtain ⟨m, l, rfl⟩ := h; rfl
theorem SameButMem.steps {d e : Dev} (h : SameButMem d e) : d.steps = e.steps := by
  obtain ⟨m, l, rfl⟩ := h; rfl
theorem SameButMem.gaunts {d e : Dev} (h : SameButMem d e) : d.gaunts = e.gaunts := by
  obtain ⟨m, l, rfl⟩ := h; rfl
theorem SameButMem.xlate {d e : Dev} (h : SameButMem d e) : d.xlate = e.xlate := by
  obtain ⟨m, l, rfl⟩ := h; rfl
theorem SameButMem.sown {d e : Dev} (h : SameButMem d e) : d.sown = e.sown := by
  obtain ⟨m, l, rfl⟩ := h; rfl
theorem SameButMem.lown {d e : Dev} (h : SameButMem d e) : d.lown = e.lown := by
  obtain ⟨m, l, rfl⟩ := h; rfl
theorem SameButMem.queues {d e : Dev} (h : SameButMem d e) : d.queues = e.queues := by
  obtain ⟨m, l, rfl⟩ := h; rfl
theorem SameButMem.evlog {d e : Dev} (h : SameButMem d e) : d.evlog = e.evlog := by
  obtain ⟨m, l, rfl⟩ := h; rfl
theorem SameButMem.kv {d e : Dev} (h : SameButMem d e) : d.kv = e.kv := by
  obtain ⟨m, l, rfl⟩ := h; rfl
theorem SameButMem.stems {d e : Dev} (h : SameButMem d e) : d.stems = e.stems := by
  obtain ⟨m, l, rfl⟩ := h; rfl
theorem SameButMem.decs {d e : Dev} (h : SameButMem d e) : d.decs = e.decs := by
  obtain ⟨m, l, rfl⟩ := h; rfl
theorem SameButMem.sess {d e : Dev} (h : SameButMem d e) : d.sess = e.sess := by
  obtain ⟨m, l, rfl⟩ := h; rfl
theorem SameButMem.pipes {d e : Dev} (h : SameButMem d e) : d.pipes = e.pipes := by
  obtain ⟨m, l, rfl⟩ := h; rfl
theorem SameButMem.ports {d e : Dev} (h : SameButMem d e) : d.ports = e.ports := by
  obtain ⟨m, l, rfl⟩ := h; rfl
theorem SameButMem.fab {d e : Dev} (h : SameButMem d e) : d.fab = e.fab := by
  obtain ⟨m, l, rfl⟩ := h; rfl
theorem SameButMem.funcs {d e : Dev} (h : SameButMem d e) : d.funcs = e.funcs := by
  obtain ⟨m, l, rfl⟩ := h; rfl
theorem SameButMem.waits {d e : Dev} (h : SameButMem d e) : d.waits = e.waits := by
  obtain ⟨m, l, rfl⟩ := h; rfl
theorem SameButMem.bnds {d e : Dev} (h : SameButMem d e) : d.bnds = e.bnds := by
  obtain ⟨m, l, rfl⟩ := h; rfl
theorem SameButMem.ident {d e : Dev} (h : SameButMem d e) : d.ident = e.ident := by
  obtain ⟨m, l, rfl⟩ := h; rfl
theorem SameButMem.doms {d e : Dev} (h : SameButMem d e) : d.doms = e.doms := by
  obtain ⟨m, l, rfl⟩ := h; rfl
theorem SameButMem.pwait {d e : Dev} (h : SameButMem d e) : d.pwait = e.pwait := by
  obtain ⟨m, l, rfl⟩ := h; rfl
theorem SameButMem.ckpts {d e : Dev} (h : SameButMem d e) : d.ckpts = e.ckpts := by
  obtain ⟨m, l, rfl⟩ := h; rfl
theorem SameButMem.pst {d e : Dev} (h : SameButMem d e) : d.pst = e.pst := by
  obtain ⟨m, l, rfl⟩ := h; rfl
theorem SameButMem.hat {d e : Dev} (h : SameButMem d e) : d.hat = e.hat := by
  obtain ⟨m, l, rfl⟩ := h; rfl
theorem SameButMem.snap {d e : Dev} (h : SameButMem d e) : d.snap = e.snap := by
  obtain ⟨m, l, rfl⟩ := h; rfl
theorem SameButMem.busData {d e : Dev} (h : SameButMem d e) : d.busData = e.busData := by
  obtain ⟨m, l, rfl⟩ := h; rfl
theorem SameButMem.txFrames {d e : Dev} (h : SameButMem d e) : d.txFrames = e.txFrames := by
  obtain ⟨m, l, rfl⟩ := h; rfl
theorem SameButMem.seatOf {d e : Dev} (h : SameButMem d e) (u : Nat) : Machine.seatOf d u = Machine.seatOf e u := by
  simp [Machine.seatOf, h.seats]
theorem SameButMem.coxOf {d e : Dev} (h : SameButMem d e) (u : Nat) : Machine.coxOf d u = Machine.coxOf e u := by
  simp [Machine.coxOf, h.coxes]
theorem SameButMem.gaunt {d e : Dev} (h : SameButMem d e) (u : Nat) : Machine.gaunt d u = Machine.gaunt e u := by
  simp [Machine.gaunt, h.gaunts]
theorem SameButMem.func {d e : Dev} (h : SameButMem d e) (u : Nat) : Machine.func d u = Machine.func e u := by
  simp [Machine.func, h.funcs]
theorem SameButMem.queue {d e : Dev} (h : SameButMem d e) (u : Nat) : Machine.queue d u = Machine.queue e u := by
  simp [Machine.queue, h.queues]
theorem SameButMem.reg {d e : Dev} (h : SameButMem d e) (u : Nat) : Machine.reg d u = Machine.reg e u := by
  simp [Machine.reg, h.regs]

/-- A run answers a next state: the queue as it was, the memory after the effect's stores, all else as the effect leaves it. -/
theorem run_answers (f : Dev → Dev) (s : State) : ∃ t, run f s = .next t ∧ t.pending = s.pending ∧ t.dev.wlog = [] ∧
    t.dev.mem = (f { s.dev with wlog := [] }).wlog.foldl applyWr s.dev.mem ∧ SameButMem t.dev (f { s.dev with wlog := [] }) :=
  ⟨_, run_eq f s, rfl, rfl, rfl, _, _, rfl⟩

end Sys2Proof.Machine
end

