-- ==== Sys2Proof/Laws/Units.lean ====
section
/-! SUPPORT. Reading a unit after it, or another unit, has been changed; registers after a register is set; steps. -/
namespace Sys2Proof.Machine

variable {d : Dev}

@[simp] theorem seatOf_modSeat_self (n : Nat) (f : Seat → Seat) : seatOf (modSeat d n f) n = f (seatOf d n) := by
  simp [seatOf, tget]
theorem seatOf_modSeat_other {n k : Nat} (f : Seat → Seat) (h : n ≠ k) : seatOf (modSeat d n f) k = seatOf d k := by
  simp [seatOf, tget, tfind_tput_other _ _ h]

@[simp] theorem coxOf_modCox_self (n : Nat) (f : Cox → Cox) : coxOf (modCox d n f) n = f (coxOf d n) := by
  simp [coxOf, tget]
theorem coxOf_modCox_other {n k : Nat} (f : Cox → Cox) (h : n ≠ k) : coxOf (modCox d n f) k = coxOf d k := by
  simp [coxOf, tget, tfind_tput_other _ _ h]

@[simp] theorem gaunt_modG_self (n : Nat) (f : Gaunt → Gaunt) : gaunt (modG d n f) n = f (gaunt d n) := by
  simp [gaunt, tget]
theorem gaunt_modG_other {n k : Nat} (f : Gaunt → Gaunt) (h : n ≠ k) : gaunt (modG d n f) k = gaunt d k := by
  simp [gaunt, tget, tfind_tput_other _ _ h]

@[simp] theorem func_modF_self (n : Nat) (f : Func → Func) : func (modF d n f) n = f (func d n) := by
  simp [func, tget]
theorem func_modF_other {n k : Nat} (f : Func → Func) (h : n ≠ k) : func (modF d n f) k = func d k := by
  simp [func, tget, tfind_tput_other _ _ h]

@[simp] theorem queue_modQ_self (n : Nat) (f : Queue → Queue) : queue (modQ d n f) n = f (queue d n) := by
  simp [queue, tget]
theorem queue_modQ_other {n k : Nat} (f : Queue → Queue) (h : n ≠ k) : queue (modQ d n f) k = queue d k := by
  simp [queue, tget, tfind_tput_other _ _ h]

@[simp] theorem portOf_modPort_self (n : Nat) (f : Port → Port) : portOf (modPort d n f) n = f (portOf d n) := by
  simp [portOf, tget]
theorem portOf_modPort_other {n k : Nat} (f : Port → Port) (h : n ≠ k) : portOf (modPort d n f) k = portOf d k := by
  simp [portOf, tget, tfind_tput_other _ _ h]

@[simp] theorem kvOf_modKv_self (n : Nat) (f : KvRoot → KvRoot) : kvOf (modKv d n f) n = f (kvOf d n) := by
  simp [kvOf, tget]
theorem kvOf_modKv_other {n k : Nat} (f : KvRoot → KvRoot) (h : n ≠ k) : kvOf (modKv d n f) k = kvOf d k := by
  simp [kvOf, tget, tfind_tput_other _ _ h]

@[simp] theorem decOf_modDec_self (n : Nat) (f : DecCtx → DecCtx) : decOf (modDec d n f) n = f (decOf d n) := by
  simp [decOf, tget]
theorem decOf_modDec_other {n k : Nat} (f : DecCtx → DecCtx) (h : n ≠ k) : decOf (modDec d n f) k = decOf d k := by
  simp [decOf, tget, tfind_tput_other _ _ h]

@[simp] theorem sessOf_modSess_self (n : Nat) (f : VSess → VSess) : sessOf (modSess d n f) n = f (sessOf d n) := by
  simp [sessOf, tget]
theorem sessOf_modSess_other {n k : Nat} (f : VSess → VSess) (h : n ≠ k) : sessOf (modSess d n f) k = sessOf d k := by
  simp [sessOf, tget, tfind_tput_other _ _ h]

@[simp] theorem pipeOf_modPipe_self (n : Nat) (f : Pipe → Pipe) : pipeOf (modPipe d n f) n = f (pipeOf d n) := by
  simp [pipeOf, tget]
theorem pipeOf_modPipe_other {n k : Nat} (f : Pipe → Pipe) (h : n ≠ k) : pipeOf (modPipe d n f) k = pipeOf d k := by
  simp [pipeOf, tget, tfind_tput_other _ _ h]

@[simp] theorem domOf_modDom_self (n : Nat) (f : Dom → Dom) : domOf (modDom d n f) n = f (domOf d n) := by
  simp [domOf, tget]
theorem domOf_modDom_other {n k : Nat} (f : Dom → Dom) (h : n ≠ k) : domOf (modDom d n f) k = domOf d k := by
  simp [domOf, tget, tfind_tput_other _ _ h]

/-! ### Contexts, tiles, lanes of a seat -/

@[simp] theorem ctxOf_modCtx_self (u c : Nat) (f : Ctx → Ctx) : ctxOf (seatOf (modCtx d u c f) u) c = f (ctxOf (seatOf d u) c) := by
  simp [modCtx, ctxOf, tget]

theorem ctxOf_modCtx_other {u c k : Nat} (f : Ctx → Ctx) (h : c ≠ k) :
    ctxOf (seatOf (modCtx d u c f) u) k = ctxOf (seatOf d u) k := by
  simp [modCtx, ctxOf, tget, tfind_tput_other _ _ h]

theorem seatOf_modCtx_other {u v c : Nat} (f : Ctx → Ctx) (h : u ≠ v) : seatOf (modCtx d u c f) v = seatOf d v :=
  seatOf_modSeat_other _ h

@[simp] theorem tileOf_modTile_self (u i : Nat) (f : TileStat → TileStat) :
    tileOf (seatOf (modTile d u i f) u) i = f (tileOf (seatOf d u) i) := by
  simp [modTile, tileOf, tget]

/-! ### Registers held as words -/

theorem reg_setReg_other {off k v : Nat} (h : off ≠ k) : reg (setReg d off v) k = reg d k := by
  simp only [reg, setReg]
  unfold tset
  split
  · simp [tget, tfind_tdel_other _ h]
  · rw [tget_tput_other _ _ _ h]

@[simp] theorem reg_setReg_self (off v : Nat) : reg (setReg d off v) off = v % 2 ^ 64 := by
  simp [reg, setReg]

/-! ### Steps -/

theorem modStep_some {k : Nat} {st : Step} (f : Step → Step) (h : tfind d.steps k = some st) :
    modStep d k f = { d with steps := tput d.steps k (f st) } := by
  simp [modStep, h]

theorem modStep_none {k : Nat} (f : Step → Step) (h : tfind d.steps k = none) : modStep d k f = d := by
  simp [modStep, h]

@[simp] theorem modStep_mem (k : Nat) (f : Step → Step) : (modStep d k f).mem = d.mem := by
  unfold modStep; split <;> rfl
@[simp] theorem modStep_wlog (k : Nat) (f : Step → Step) : (modStep d k f).wlog = d.wlog := by
  unfold modStep; split <;> rfl
@[simp] theorem modStep_free (k : Nat) (f : Step → Step) : (modStep d k f).free = d.free := by
  unfold modStep; split <;> rfl
@[simp] theorem modStep_regs (k : Nat) (f : Step → Step) : (modStep d k f).regs = d.regs := by
  unfold modStep; split <;> rfl
@[simp] theorem modStep_strk (k : Nat) (f : Step → Step) : (modStep d k f).strk = d.strk := by
  unfold modStep; split <;> rfl
@[simp] theorem modStep_sup (k : Nat) (f : Step → Step) : (modStep d k f).sup = d.sup := by
  unfold modStep; split <;> rfl
@[simp] theorem modStep_seats (k : Nat) (f : Step → Step) : (modStep d k f).seats = d.seats := by
  unfold modStep; split <;> rfl
@[simp] theorem modStep_coxes (k : Nat) (f : Step → Step) : (modStep d k f).coxes = d.coxes := by
  unfold modStep; split <;> rfl
@[simp] theorem modStep_dies (k : Nat) (f : Step → Step) : (modStep d k f).dies = d.dies := by
  unfold modStep; split <;> rfl
@[simp] theorem modStep_gaunts (k : Nat) (f : Step → Step) : (modStep d k f).gaunts = d.gaunts := by
  unfold modStep; split <;> rfl
@[simp] theorem modStep_xlate (k : Nat) (f : Step → Step) : (modStep d k f).xlate = d.xlate := by
  unfold modStep; split <;> rfl
@[simp] theorem modStep_sown (k : Nat) (f : Step → Step) : (modStep d k f).sown = d.sown := by
  unfold modStep; split <;> rfl
@[simp] theorem modStep_lown (k : Nat) (f : Step → Step) : (modStep d k f).lown = d.lown := by
  unfold modStep; split <;> rfl
@[simp] theorem modStep_queues (k : Nat) (f : Step → Step) : (modStep d k f).queues = d.queues := by
  unfold modStep; split <;> rfl
@[simp] theorem modStep_evlog (k : Nat) (f : Step → Step) : (modStep d k f).evlog = d.evlog := by
  unfold modStep; split <;> rfl
@[simp] theorem modStep_kv (k : Nat) (f : Step → Step) : (modStep d k f).kv = d.kv := by
  unfold modStep; split <;> rfl
@[simp] theorem modStep_stems (k : Nat) (f : Step → Step) : (modStep d k f).stems = d.stems := by
  unfold modStep; split <;> rfl
@[simp] theorem modStep_decs (k : Nat) (f : Step → Step) : (modStep d k f).decs = d.decs := by
  unfold modStep; split <;> rfl
@[simp] theorem modStep_sess (k : Nat) (f : Step → Step) : (modStep d k f).sess = d.sess := by
  unfold modStep; split <;> rfl
@[simp] theorem modStep_pipes (k : Nat) (f : Step → Step) : (modStep d k f).pipes = d.pipes := by
  unfold modStep; split <;> rfl
@[simp] theorem modStep_ports (k : Nat) (f : Step → Step) : (modStep d k f).ports = d.ports := by
  unfold modStep; split <;> rfl
@[simp] theorem modStep_fab (k : Nat) (f : Step → Step) : (modStep d k f).fab = d.fab := by
  unfold modStep; split <;> rfl
@[simp] theorem modStep_funcs (k : Nat) (f : Step → Step) : (modStep d k f).funcs = d.funcs := by
  unfold modStep; split <;> rfl
@[simp] theorem modStep_waits (k : Nat) (f : Step → Step) : (modStep d k f).waits = d.waits := by
  unfold modStep; split <;> rfl
@[simp] theorem modStep_bnds (k : Nat) (f : Step → Step) : (modStep d k f).bnds = d.bnds := by
  unfold modStep; split <;> rfl
@[simp] theorem modStep_ident (k : Nat) (f : Step → Step) : (modStep d k f).ident = d.ident := by
  unfold modStep; split <;> rfl
@[simp] theorem modStep_doms (k : Nat) (f : Step → Step) : (modStep d k f).doms = d.doms := by
  unfold modStep; split <;> rfl
@[simp] theorem modStep_pwait (k : Nat) (f : Step → Step) : (modStep d k f).pwait = d.pwait := by
  unfold modStep; split <;> rfl
@[simp] theorem modStep_ckpts (k : Nat) (f : Step → Step) : (modStep d k f).ckpts = d.ckpts := by
  unfold modStep; split <;> rfl
@[simp] theorem modStep_pst (k : Nat) (f : Step → Step) : (modStep d k f).pst = d.pst := by
  unfold modStep; split <;> rfl
@[simp] theorem modStep_hat (k : Nat) (f : Step → Step) : (modStep d k f).hat = d.hat := by
  unfold modStep; split <;> rfl
@[simp] theorem modStep_snap (k : Nat) (f : Step → Step) : (modStep d k f).snap = d.snap := by
  unfold modStep; split <;> rfl
@[simp] theorem modStep_busData (k : Nat) (f : Step → Step) : (modStep d k f).busData = d.busData := by
  unfold modStep; split <;> rfl
@[simp] theorem modStep_txFrames (k : Nat) (f : Step → Step) : (modStep d k f).txFrames = d.txFrames := by
  unfold modStep; split <;> rfl

end Sys2Proof.Machine
end

