-- ==== Sys2Proof/Laws/Seat.lean ====
section
/-! SUPPORT. What the issue of a seat command and the execution of a lane-core instruction do before their own effect. -/
namespace Sys2Proof.Machine

variable {d : Dev}

/-! ### takeIssue -/

/-- The context after its word has left the queue. -/
def issuedCtx (x : Ctx) (w : SeatWord) : Ctx :=
  refill { x with queue := if x.queue.head? = some w then x.queue.tail else x.queue, pos := x.pos + 1, waitTok := false,
                  waitCred := false, waitSb := false }

theorem seatOf_itemStart (k kind uc sub v : Nat) : seatOf (itemStart d k kind uc sub) v = seatOf d v := by
  simp [seatOf, itemStart]

@[simp] theorem seatOf_inc32 (off n v : Nat) : seatOf (inc32 d off n) v = seatOf d v := rfl
@[simp] theorem seatOf_inc64 (off n v : Nat) : seatOf (inc64 d off n) v = seatOf d v := rfl
@[simp] theorem seatOf_setReg (off n v : Nat) : seatOf (setReg d off n) v = seatOf d v := rfl
@[simp] theorem seatOf_modStep (k v : Nat) (f : Step → Step) : seatOf (modStep d k f) v = seatOf d v := by simp [seatOf]

/-- What the issue of a word does to its own seat. -/
theorem takeIssue_seat (u c : Nat) (w : SeatWord) (hc : c < 4) :
    seatOf (takeIssue d u c w) u =
      { seatOf d u with running := BitVec.ofNat 2 c, ctxs := tput (seatOf d u).ctxs c (issuedCtx (ctxOf (seatOf d u) c) w) } := by
  have hrun : (seatOf d u).running.toNat = c → (seatOf d u).running = BitVec.ofNat 2 c := by
    intro h
    apply BitVec.eq_of_toNat_eq
    rw [h, BitVec.toNat_ofNat]
    omega
  unfold takeIssue
  simp only []
  by_cases h : (seatOf d u).running.toNat = c
  · simp only [h, if_true]
    split <;> (try split) <;> simp only [modCtx, seatOf_modSeat_self, seatOf_itemStart, issuedCtx, ← hrun h]
  · simp only [h, if_false]
    split <;> (try split) <;>
      (simp only [modCtx, seatOf_modSeat_self, seatOf_itemStart, seatOf_inc32]; try rfl)

/-- The issue of a word leaves every other seat. -/
theorem takeIssue_other {u v c : Nat} {w : SeatWord} (h : u ≠ v) : seatOf (takeIssue d u c w) v = seatOf d v := by
  unfold takeIssue
  simp only []
  split <;> split <;> (try split) <;>
    simp only [modCtx, seatOf_modSeat_other _ h, seatOf_itemStart, seatOf_inc32]

/-- Two devices that differ in seats, registers and steps at most. -/
def SameButSeats (d e : Dev) : Prop := ∃ x y z, d = { e with seats := x, regs := y, steps := z }

theorem SameButSeats.refl : SameButSeats d d := ⟨_, _, _, rfl⟩
theorem SameButSeats.modSeat {e : Dev} (h : SameButSeats e d) (u : Nat) (f : Seat → Seat) : SameButSeats (modSeat e u f) d := by
  obtain ⟨x, y, z, rfl⟩ := h; exact ⟨_, _, _, rfl⟩
theorem SameButSeats.modCtx {e : Dev} (h : SameButSeats e d) (u c : Nat) (f : Ctx → Ctx) : SameButSeats (modCtx e u c f) d := h.modSeat _ _
theorem SameButSeats.setReg {e : Dev} (h : SameButSeats e d) (off v : Nat) : SameButSeats (setReg e off v) d := by
  obtain ⟨x, y, z, rfl⟩ := h; exact ⟨_, _, _, rfl⟩
theorem SameButSeats.inc32 {e : Dev} (h : SameButSeats e d) (off v : Nat) : SameButSeats (inc32 e off v) d := h.setReg _ _
theorem SameButSeats.inc64 {e : Dev} (h : SameButSeats e d) (off v : Nat) : SameButSeats (inc64 e off v) d := h.setReg _ _
theorem SameButSeats.modStep {e : Dev} (h : SameButSeats e d) (k : Nat) (f : Step → Step) : SameButSeats (modStep e k f) d := by
  obtain ⟨x, y, z, rfl⟩ := h
  unfold Machine.modStep
  split
  · exact ⟨_, _, _, rfl⟩
  · exact ⟨_, _, _, rfl⟩
theorem SameButSeats.eq {e : Dev} (h : SameButSeats e d) : e = { d with seats := e.seats, regs := e.regs, steps := e.steps } := by
  obtain ⟨x, y, z, rfl⟩ := h; rfl

/-- The issue of a word changes seats, steps and one register only. -/
theorem takeIssue_fields (u c : Nat) (w : SeatWord) :
    SameButSeats (takeIssue d u c w) d ∧ ∀ off, off ≠ seatPage u + rSEAT_SWCNT → reg (takeIssue d u c w) off = reg d off := by
  have hr : ∀ e : Dev, ∀ off, off ≠ seatPage u + rSEAT_SWCNT → reg (inc32 e (seatPage u + rSEAT_SWCNT) 1) off = reg e off :=
    fun e off h => reg_setReg_other (Ne.symm h)
  unfold takeIssue
  simp only []
  have h0 : SameButSeats d d := .refl
  split <;> split <;> (try split) <;>
    (refine ⟨?_, fun off ho => ?_⟩
     · first
       | exact ((h0.modSeat _ _).inc32 _ _ |>.modStep _ _).modCtx _ _ _
       | exact ((h0.modSeat _ _).inc32 _ _).modCtx _ _ _
       | exact (h0.modStep _ _).modCtx _ _ _
       | exact h0.modCtx _ _ _
     · first
       | exact hr _ off ho
       | (simp only [reg, modCtx_regs, itemStart, modStep_regs]; done)
       | (simp only [reg, modCtx_regs, itemStart, modStep_regs]; exact hr _ off ho))

/-- A word that its context issues has its own effect after it has left the queue. -/
theorem seatGo_issues {c : CtxAt} {w : SeatWord} {f : Dev → Nat → Nat → Dev} (h : Issues d c w) :
    seatGo c w f d = f (takeIssue d (ctxIdx c) c.ctx.toNat w) (ctxIdx c) c.ctx.toNat := by
  obtain ⟨_, hf, hw, hx, ⟨k, hk, hr⟩, hq, hg⟩ := h
  unfold seatGo
  simp only [hk, hf, hw, hx, hr, hg]
  rcases hq with hq | hq
  · simp [hq]
  · simp [hq]

/-- A seat command of its own opcode that its context issues. -/
theorem seatCmd_issues {op : Nat} {c : CtxAt} {w : SeatWord} {f : Dev → Nat → Nat → Dev} {s : State}
    (h : Issues s.dev c w) (ho : cOp w = op) :
    seatCmd op c w f s = run (fun d => f (takeIssue d (ctxIdx c) c.ctx.toNat w) (ctxIdx c) c.ctx.toNat) s := by
  have hd : Issues { s.dev with wlog := [] } c w := h
  unfold seatCmd
  simp only [h.1, ho, Bool.not_true, if_false, ne_eq, not_true, decide_false, Bool.false_and, Bool.false_eq_true]
  rw [run_eq, run_eq, seatGo_issues hd]

end Sys2Proof.Machine
end

