-- ==== Sys2Proof/Tests/Slice0.lean ====
section
/-! SUPPORT. The model's own tests: what WellFormed refuses, one small check for some commands, and for each statement of
Certificates/Slice0/Obligations.lean a concrete state and operands that meet the hypotheses of its clauses. -/
namespace Sys2Proof.Tests
-- One theorem at a time: many at once take a thread each.
set_option Elab.async false
open Sys2Proof Sys2Proof.Machine

/-! ### Small states -/

/-- A state of this device with nothing waiting. -/
def st (d : Dev) : State := { dev := d, pending := [] }

/-- Whether a computation of the model succeeds. -/
def okB {ε α : Type} : Except ε α → Bool
  | .ok _ => true
  | .error _ => false

/-- Its result, or a value given. -/
def okV {ε α : Type} (x : α) : Except ε α → α
  | .ok y => y
  | .error _ => x

theorem ok_eq {ε α : Type} {e : Except ε α} (x : α) (h : okB e = true) : e = .ok (okV x e) := by
  cases e with
  | ok y => rfl
  | error n => simp [okB] at h

theorem ok_fst {ε α β : Type} {e : Except ε (α × β)} (x : α × β) {a : α} (h : okB e = true) (g : (okV x e).1 = a) :
    e = .ok (a, (okV x e).2) := by
  rw [← g]
  exact ok_eq x h

theorem ok_snd {ε α β : Type} {e : Except ε (α × β)} (x : α × β) {b : β} (h : okB e = true) (g : (okV x e).2 = b) :
    e = .ok ((okV x e).1, b) := by
  rw [← g]
  exact ok_eq x h

/-- Whether it succeeds with this result. -/
def okIs {ε α : Type} [DecidableEq α] (y : α) : Except ε α → Bool
  | .ok x => decide (x = y)
  | .error _ => false

theorem ok_is {ε α : Type} [DecidableEq α] {e : Except ε α} {y : α} (h : okIs y e = true) : e = .ok y := by
  cases e with
  | ok x => simp only [okIs, decide_eq_true_eq] at h; rw [h]
  | error n => simp [okIs] at h

/-- A program that names nothing. -/
def prog0 : Prog := Prog.none

/-- An admitted step of G1 that runs `p` on crew 0. -/
def step0 (p : Prog) : Step :=
  { g := 1, inst := 1, adm := 1, fn := 1, tag := 0, flags8 := 0, queueNo := 0, phase := 0, p0 := 0, p1 := 1, p2 := 0, p3 := 0
    st := .admitted, hold := 0, heldNoCrew := 0, elapsed := 0, strokes := 0, fl := StepFlags.reset, prog := some p, rset := none
    fresh := false, crews := [0], items := [], bins := Bins.reset, ecyc := 0, icyc := 0, alone := true, failing := none
    kill := false, evict := false, jsDone := [], buckets := [], embs := [], round := none, copies := [], ings := [], sums := []
    staging := [], asked := [], landed := [], sels := [], bands := [], recsWritten := [], endStatus := 0, endReason := 0 }

/-- A seat of G1 whose context 0 runs step 7 and owns every accumulator tile, tile register and region unit. -/
def seat0 : Seat :=
  { Seat.reset 0 with gnt := 1, valid := true, scrcfg := 0x2000, ctxs := [(0, { Ctx.reset with step := some 7 })] }

/-- The module with that seat (as seat 0 of crew 0) and that step. -/
def seatDev (x : Seat) (k : Step) : Dev := { Dev.reset with steps := [(7, k)], seats := [(0, x)], nextStep := 8 }

def c0 : CtxAt := { crew := 0, seat := 0, ctx := 0 }
def u0 : SeatAt := { crew := 0, seat := 0 }
def l0 : LaneAt := { crew := 0, seat := 0, lane := 0 }

/-- The check of `Issues` for a context that runs step `k`. -/
theorem issues_of {d : Dev} {c : CtxAt} {w : SeatWord} (k : Nat)
    (h : (c.wf && !(seatOf d (ctxIdx c)).fenced && !(seatOf d (ctxIdx c)).wiping && !(ctxOf (seatOf d (ctxIdx c)) c.ctx.toNat).failed &&
      decide ((ctxOf (seatOf d (ctxIdx c)) c.ctx.toNat).step = some k) && canRun d k &&
      decide ((ctxOf (seatOf d (ctxIdx c)) c.ctx.toNat).queue = []) &&
      decide (gate (progAt d (ctxIdx c) c.ctx.toNat) (seatOf d (ctxIdx c)) c.ctx.toNat w = .go)) = true) : Issues d c w := by
  simp only [Bool.and_eq_true, Bool.not_eq_true', decide_eq_true_eq] at h
  obtain ⟨⟨⟨⟨⟨⟨⟨a, b⟩, e⟩, f⟩, g⟩, i⟩, j⟩, l⟩ := h
  exact ⟨a, b, e, f, ⟨k, g, i⟩, .inl j, l⟩

def w (n : Nat) : SeatWord := BitVec.ofNat 128 n
def sd0 : Dev := seatDev seat0 (step0 prog0)

theorem witness_SeatControlIssues :
    Issues sd0 c0 (w 0) ∧ Issues sd0 c0 (w 7) ∧ Issues sd0 c0 (w (4 + 64 * 64 + 8192 * 64)) ∧ Issues sd0 c0 (w 5) ∧
    Issues sd0 c0 (w 8) ∧ sd0.wlog = [] := by
  refine ⟨issues_of 7 ?_, issues_of 7 ?_, issues_of 7 ?_, issues_of 7 ?_, issues_of 7 ?_, ?_⟩ <;> decide +kernel

/-- The seat with every accumulator tile mapped and every tile register owned by context 0. -/
def seat1 : Seat := { seat0 with acccfg := 0xCCCCCCCC, tregcfg := 0x8888888888888888 }
/-- MMA on ACC0: BF16 by BF16, depth 1, operands at units 0 and 128 of the scratchpad. -/
def wMma : SeatWord := w (1 + 2 ^ 11 + 2 ^ 15 + 2 ^ 24 + 128 * 2 ^ 80)
/-- MMA on ACC0 onto what it holds: INT8 by INT8, depth 1. -/
def wMmaI : SeatWord := w (1 + 2 ^ 9 + 5 * 2 ^ 11 + 5 * 2 ^ 15 + 2 ^ 24 + 128 * 2 ^ 80)
def wLoad : SeatWord := w 2
/-- A RAW drain of ACC0 to unit 0, and one that converts to BF16. -/
def wRaw : SeatWord := w (3 + 2 ^ 9)
def wDrain : SeatWord := w (3 + 2 ^ 10)
/-- LANE with ENTRY 0 and the tiles and registers all in its masks. -/
def wLane : SeatWord := w (6 + 0xFF * 2 ^ 6 + 0xFF * 2 ^ 14 + 0xFFFF * 2 ^ 22 + 0xFFFF * 2 ^ 38)

def seat2 : Seat := { seat1 with ctxs := [(0, { Ctx.reset with step := some 7, slots := [(0, { ScaleSlot.reset with fmt := 1 })] })] }
def sd1 : Dev := seatDev seat2 (step0 prog0)

theorem witness_SeatWorkIssues_and_KernelStartState :
    (Issues sd1 c0 wMma ∧ cOp wMma = 1 ∧ cF wMma 9 9 = 0) ∧ (Issues sd1 c0 wLoad ∧ cOp wLoad = 2) ∧ (Issues sd1 c0 wRaw ∧ cOp wRaw = 3) ∧
    (Issues sd1 c0 wDrain ∧ cOp wDrain = 3) ∧ (Issues sd1 c0 wLane ∧ cOp wLane = 6) := by
  refine ⟨⟨issues_of 7 ?_, ?_⟩, ⟨issues_of 7 ?_, ?_⟩, ⟨issues_of 7 ?_, ?_⟩, ⟨issues_of 7 ?_, ?_⟩, issues_of 7 ?_, ?_⟩ <;> decide +kernel

/-! ### Lane cores -/

/-- Lane cores at address 0 of a kernel of context 0, each with 5 in g1 and 3 in g2. -/
def seat3 : Seat :=
  { seat2 with krun := true, kword := wLane, lanes := (List.range 32).map fun n =>
      (n, { LaneCore.reset with halted := false, g := [(1, 5), (2, 3)] }) }
def ld (f : LaneCore → LaneCore) : Dev := seatDev { seat3 with lanes := seat3.lanes.map fun p => (p.1, f p.2) } (step0 prog0)
def ld0 : Dev := ld id

/-- The check of `Executes`. -/
def execB (d : Dev) (l : LaneAt) (w : LaneWord) : Bool :=
  l.wf && laneReady d (laneIdx l) l.lane.toNat && decide ((laneOf (seatOf d (laneIdx l)) l.lane.toNat).pc < 65536) &&
  decide ((laneOf (seatOf d (laneIdx l)) l.lane.toNat).pc % 4 = 0) && lLegal w

theorem executes_of {d : Dev} {l : LaneAt} {w : LaneWord} (h : execB d l w = true) : Executes d l w := by
  simp only [execB, Bool.and_eq_true, decide_eq_true_eq] at h
  obtain ⟨⟨⟨⟨a, b⟩, c⟩, e⟩, f⟩ := h
  exact ⟨a, b, c, e, f⟩

/-- Words of the R and I formats. -/
def lr (op rd rs1 rs2 func : Nat) : LaneWord := BitVec.ofNat 32 (op + rd * 2 ^ 6 + rs1 * 2 ^ 11 + rs2 * 2 ^ 16 + func * 2 ^ 26)
def li (op rd rs1 imm : Nat) : LaneWord := BitVec.ofNat 32 (op + rd * 2 ^ 6 + rs1 * 2 ^ 11 + imm * 2 ^ 16)

/-- For the integer, float, branch and special-register instructions: every function at its lowest and highest number, rd g0 and g31. -/
theorem witness_lane_words :
    ∀ x, x ∈ [lr 1 0 1 2 0, lr 1 31 1 2 17, li 2 0 1 0xFFFF, li 3 31 1 0xFFFF, li 4 3 1 1, li 5 3 1 1, li 6 3 1 0x5F, li 7 3 0 0xFFFF,
      lr 8 3 1 2 0, lr 8 3 1 2 9, lr 8 3 1 2 3, lr 8 3 1 2 8, lr 9 3 1 2 3, lr 10 3 1 0 8, lr 10 3 1 0 1, lr 10 3 1 0 2, lr 12 3 1 0 8,
      lr 11 3 1 2 0, li 0x18 1 2 0, li 0x18 1 2 5, li 0x19 0 0 1, li 0x1A 31 1 4, li 0x1C 3 0 0, li 0x1C 3 0 5, li 0x1D 3 1 2, li 0x1D 3 1 8,
      lr 0x20 3 1 2 0, lr 0x21 1 0 0 0, lr 0x22 0 0 0 0, lr 0x3F 0 0 0 0, lr 0x12 3 1 2 0] →
      Executes ld0 l0 x := by
  intro x hx
  refine executes_of ?_
  have h : (([lr 1 0 1 2 0, lr 1 31 1 2 17, li 2 0 1 0xFFFF, li 3 31 1 0xFFFF, li 4 3 1 1, li 5 3 1 1, li 6 3 1 0x5F, li 7 3 0 0xFFFF,
      lr 8 3 1 2 0, lr 8 3 1 2 9, lr 8 3 1 2 3, lr 8 3 1 2 8, lr 9 3 1 2 3, lr 10 3 1 0 8, lr 10 3 1 0 1, lr 10 3 1 0 2, lr 12 3 1 0 8,
      lr 11 3 1 2 0, li 0x18 1 2 0, li 0x18 1 2 5, li 0x19 0 0 1, li 0x1A 31 1 4, li 0x1C 3 0 0, li 0x1C 3 0 5, li 0x1D 3 1 2, li 0x1D 3 1 8,
      lr 0x20 3 1 2 0, lr 0x21 1 0 0 0, lr 0x22 0 0 0 0, lr 0x3F 0 0 0 0, lr 0x12 3 1 2 0]).all fun x => execB ld0 l0 x) = true := by
    decide +kernel
  exact List.all_eq_true.mp h x hx

/-- A NaN in the operand of FABS, FMIN and F2I; the slot of CVT is of no excluded format. -/
theorem witness_LaneFloatRules_and_LaneCvtConverts :
    (gVal (st (ld fun x => { x with g := [(1, 0xFFC00001)] })) l0 1 &&& 0x7F800000) = 0x7F800000 ∧
    (gVal (st (ld fun x => { x with g := [(1, 0xFFC00001)] })) l0 1 &&& 0x007FFFFF) ≠ 0 ∧
    (gVal (st ld0) l0 1 &&& 0x7F800000) ≠ 0x7F800000 ∧
    (slotOfCtx (ctxOf (seatOf ld0 0) (seatOf ld0 0).kctx.toNat) 0).fmt = 1 := by
  decide +kernel

/-- Element 4,094 in g1, the first of the last pair of a tile. -/
def ldEnd : Dev := ld fun x => { x with g := [(1, 4094)] }
/-- A pair access of T0 by g1. -/
def wPair (op : Nat) : LaneWord := BitVec.ofNat 32 (op + 4 * 2 ^ 6 + 2 ^ 11 + 3 * 2 ^ 21)

/-- TLD and TST of byte, word and pair inside a tile, at its last element; the window outside its plane reads WPAD. -/
theorem witness_TileAccesses :
    tileAccess (seatOf ld0 0) 0 (laneAt (st ld0) l0) (lr 0x10 3 1 0 0) false = .ok (tregBase 0 0 + 5, 1) ∧
    tileAccess (seatOf ld0 0) 0 (laneAt (st ld0) l0) (lr 0x11 3 1 0 0) true = .ok (tregBase 0 0 + 5, 1) ∧
    tileAccess (seatOf ldEnd 0) 0 (laneAt (st ldEnd) l0) (wPair 0x10) false = .ok (tregBase 0 0 + 16376, 8) ∧
    tileAccess (seatOf ldEnd 0) 0 (laneAt (st ldEnd) l0) (wPair 0x11) true = .ok (tregBase 0 0 + 16376, 8) ∧
    windowLoad ld0 { LaneShared.reset with wgeom := 0x1111 } 0 65536 0 0 = .ok 0 ∧
    (scopeOk (seatOf ld0 0) false 0 true = true ∧ scopeOk (seatOf sd1 0) false 0 true = false) := by
  refine ⟨ok_is ?_, ok_is ?_, ok_is ?_, ok_is ?_, ok_is ?_, ?_⟩ <;> decide +kernel

/-- No lane core has halted short of the collective; none waits at a later one. -/
theorem witness_CollectivesAndHalt_lanes :
    (∀ n, n < 32 → (laneOf (seatOf ld0 0) n).halted = true → (laneAt (st ld0) l0).coll + 1 ≤ (laneOf (seatOf ld0 0) n).coll) ∧
    (∀ n, n < 32 → (laneOf (seatOf ld0 0) n).wait.isSome = true → (laneOf (seatOf ld0 0) n).coll ≤ (laneAt (st ld0) l0).coll) := by
  decide +kernel

def waitAt (w : LaneWord) : Dev := ld fun x => { x with wait := some w }

/-- All wait at a BAR, at a PERM, at one RED whose tile is allowed; all have halted; the watchdog of a running kernel. -/
theorem witness_CollectivesAndHalt_seat :
    (seatOf (waitAt (lr 0x22 0 0 0 0)) 0).krun = true ∧ (∃ k, (ctxOf (seatOf ld0 0) 0).step = some k ∧ canRun ld0 k = true) ∧
    (∀ n, n < 32 → (laneOf (seatOf (waitAt (lr 0x22 0 0 0 0)) 0) n).wait = some (lr 0x22 0 0 0 0)) ∧ lOp (lr 0x22 0 0 0 0) = 0x22 ∧
    (∀ n, n < 32 → (laneOf (seatOf (waitAt (lr 0x20 3 1 2 0)) 0) n).wait = some (lr 0x20 3 1 2 0)) ∧ lOp (lr 0x20 3 1 2 0) = 0x20 ∧
    (∀ n, n < 32 → (laneOf (seatOf (waitAt (lr 0x21 1 0 2 0x80)) 0) n).wait = some (lr 0x21 1 0 2 0x80)) ∧ lOp (lr 0x21 1 0 2 0x80) = 0x21 ∧
    okB (redTile (waitAt (lr 0x21 1 0 2 0x80)) 0 (seatOf (waitAt (lr 0x21 1 0 2 0x80)) 0) (lr 0x21 1 0 2 0x80)) = true ∧
    (∀ n, n < 32 → (laneOf (seatOf (ld fun x => { x with halted := true }) 0) n).halted = true) ∧
    (tfind ld0.steps 7 = some (step0 prog0) ∧ (step0 prog0).st ≠ .ended ∧ (step0 prog0).failing = none) := by
  refine ⟨?_, ⟨7, ?_, ?_⟩, ?_⟩ <;> decide +kernel

/-! ### Tiles -/

def fl (x : SeatWord) (load : Bool) : Flight := { ctx := 0, acc := 0, word := x, half := false, blk := 0, nblk := 1, load := load }
/-- A state in which one update of ACC0 is in flight; ACC0 element 0 holds `a` in its lowest byte pair, the operands 1. -/
def flDev (x : SeatWord) (load : Bool) (m : List (Nat × Byte)) : Dev :=
  { seatDev { seat2 with flights := [fl x load], kloops := if load then [] else [(0, { cmds := [x], half := false, ctx := 0, sat := [] })] }
      (step0 prog0) with mem := m }
/-- Element 0 of both operands is 1. -/
def ones : List (Nat × Byte) := [(seatBase 0, 1), (seatBase 0 + 8192, 1)]
/-- The same with the largest INT32 in ACC0. -/
def full : List (Nat × Byte) := ones ++ [(accBase 0 0, 0xFF), (accBase 0 0 + 1, 0xFF), (accBase 0 0 + 2, 0xFF), (accBase 0 0 + 3, 0x7F)]

/-- The value an integer block gives an element, as ArrayBlocksLand writes it, for depth 1 and no halving. -/
def intVal (d : Dev) (e : Nat) : Int :=
  intBlock d (halfBase 0 false) 5 (halfBase 0 false + 8192) 5 0 0 1 (e / 64) (e % 64) (sext 32 (peekN d (accBase 0 0 + 4 * e) 4))

theorem witness_ArrayBlocksLand :
    nextFlight (flDev wMma false ones) 0 false = some (fl wMma false) ∧ pairing (cF wMma 14 11) (cF wMma 18 15) (cF wMma 20 19) ≠ some 2 ∧
    nextFlight (flDev wMmaI false ones) 0 false = some (fl wMmaI false) ∧ pairing (cF wMmaI 14 11) (cF wMmaI 18 15) (cF wMmaI 20 19) = some 2 ∧
    tfind (seatOf (flDev wMmaI false ones) 0).kloops 0 = some { cmds := [wMmaI], half := false, ctx := 0, sat := [] } ∧
    (tileOf (seatOf (flDev wMmaI false full) 0) 0).shift = 0 ∧ intVal (flDev wMmaI false full) 0 = 2 ^ 31 := by
  decide +kernel

theorem peekN_empty (d : Dev) (h : d.mem = []) (a n : Nat) : peekN d a n = 0 := by
  unfold peekN
  rw [h]
  induction n generalizing a with
  | zero => rfl
  | succ n ih => simp only [readMem, leNat, ih]; rfl

/-- With every operand zero no element leaves INT32. -/
theorem witness_ArrayBlocksLand_in_range :
    ∀ e, -(2 ^ 31 : Int) ≤ intVal (flDev wMmaI false []) e ∧ intVal (flDev wMmaI false []) e ≤ 2 ^ 31 - 1 := by
  intro e
  have h : intVal (flDev wMmaI false []) e = 0 := by
    simp only [intVal, intBlock, operandElem, peekN_empty (flDev wMmaI false []) rfl,
      show ¬ fmtBits 5 = 4 from by decide, if_false]
    decide +kernel
  rw [h]
  decide

def dr (x : SeatWord) : Drain := { ctx := 0, word := x, half := false, vrows := 64, vcols := 64, rstride := 64, base := 0 }
def drDev (x : SeatWord) : Dev := seatDev { seat2 with drains := [dr x] } (step0 prog0)

theorem witness_LoadAndDrainMoveTiles :
    Memory.wf ones = true ∧ nextFlight (flDev wLoad true ones) 0 true = some (fl wLoad true) ∧
    (tileOf (seatOf (flDev wLoad true ones) 0) 0).shift = 0 ∧ nextDrain (drDev wRaw) 0 = some (dr wRaw) ∧
    nextDrain (drDev wDrain) 0 = some (dr wDrain) ∧ cF wRaw 9 9 = 1 ∧ cF wDrain 9 9 = 0 := by
  decide +kernel

/-! ### The end of a tile, seat faults, seat configuration -/

def wEnd : SeatWord := w 9
def grant0 : Grant :=
  { counter := 0, jobset := 0, index := 3, epoch := 0, i0 := 3, i1 := 0, i2 := 0, null := false, pos0 := 0, landed := [] }
/-- Context 0 computes index 3 of counter 0; the counter's re-grant records are `r`. -/
def endDev (r : List (Nat × Nat)) : Dev :=
  { seatDev { seat1 with ctxs := [(0, { Ctx.reset with step := some 7, comp := some grant0 })] } (step0 prog0) with
    coxes := [(0, { Cox.reset with counters := [(0, { WCnt.reset with next := 4, fin := 8, active := true, recs := r, out := [3] })] })] }

theorem witness_SeatEndReleasesGrant :
    (Issues (endDev [(3, 1)]) c0 wEnd ∧ cOp wEnd = 9 ∧ (ctxAt (st (endDev [(3, 1)])) c0).comp = some grant0 ∧
      stale (cntGet (endDev [(3, 1)]) 0 0) grant0 = true) ∧
    (Issues (endDev [(3, 0)]) c0 wEnd ∧ stale (cntGet (endDev [(3, 0)]) 0 0) grant0 = false ∧
      okB (putResult (takeIssue (endDev [(3, 0)]) 0 0 wEnd) 7 (step0 prog0) 0 0 0 grant0) = true) := by
  refine ⟨⟨issues_of 7 ?_, ?_⟩, issues_of 7 ?_, ?_⟩ <;> decide +kernel

/-- The highest physical seat; a write that touches nothing loaded, and one that touches a loaded context's tiles and region. -/
theorem witness_SeatFaultAndConfig :
    SeatAt.wf { crew := 63, seat := 8 } = true ∧ Dev.reset.pst.repairs.length < 65535 ∧ (ctxOf (seatOf sd1 0) 0).step.isSome = true ∧
    cfgTouches (seatOf sd1 0) (seatOf sd1 0).acccfg.toNat 0xCCCCCCCC 8 = false ∧ cfgTouches (seatOf sd1 0) (seatOf sd1 0).acccfg.toNat 0 8 = true ∧
    cfgTouches (seatOf sd1 0) (seatOf sd1 0).tregcfg.toNat 0x8888888888888888 16 = false ∧
    cfgTouches (seatOf sd1 0) (seatOf sd1 0).tregcfg.toNat 0 16 = true ∧
    fld 0 15 0 ≠ fld (seatOf sd1 0).scrcfg.toNat 15 0 := by
  decide +kernel

/-- A region for context 1 behind that of context 0, in a seat where context 0 has 16 units. -/
def scrDev : Dev := seatDev { seat1 with scrcfg := 0x1000 } (step0 prog0)
theorem witness_SeatFaultAndConfig_regions :
    (∀ c, c < 4 → fld 0x10101000 (16 * c + 15) (16 * c) ≠ fld (seatOf scrDev 0).scrcfg.toNat (16 * c + 15) (16 * c) →
      (ctxOf (seatOf scrDev 0) c).step = none) ∧
    (∀ c, c < 4 → 0 < fld 0x10101000 (16 * c + 15) (16 * c) / 256 →
      fld 0x10101000 (16 * c + 15) (16 * c) % 256 + fld 0x10101000 (16 * c + 15) (16 * c) / 256 ≤ 32) ∧
    regionsOverlap 0x10101000 = false := by
  decide +kernel

/-! ### The cox -/

/-- G1's VA 0 lies in stacked extent 0, read and write. -/
def mapG (d : Dev) : Dev := { d with xlate := [(4096, 0x217)], sown := [(0, 0x11)] }

/-- A structure of `n` bytes with the fields given (offset, bytes, value). -/
def rec' (n : Nat) (l : List (Nat × Nat × Nat)) : Bytes :=
  leBytes n (l.foldl (fun a x => a + x.2.2 % 256 ^ x.2.1 * 256 ^ x.1) 0)

/-- Job set 0: one command to a tile, a grid of 8 tiles, operand stream S0 by stream descriptor 0. -/
def js0 : Bytes := rec' 64 [(8, 4, 1), (0x10, 4, 8), (0x14, 4, 1), (0x18, 4, 1), (0x1C, 2, 1), (0x30, 8, 2 ^ 50)]
/-- Stream 0: two blocks of 4 BF16 elements, all of them padding. -/
def sdA : Bytes := rec' 128 [(8, 4, 1 + 2 ^ 4 + 2 ^ 17), (0x30, 8, 4 * 2 ^ 36)]
def prog1 : Prog :=
  { prog0 with hdr := rec' 64 [(0xB, 1, 1)], jobsets := [js0], tmpls := [rec' 24 [(0, 1, 9)]], streams := [sdA], bind := [0x01000000] }
def grant1 : Grant := { grant0 with counter := 0 }
def cnt0 (nx fin : Nat) (out : List Nat) : WCnt := { WCnt.reset with next := nx, fin := fin, active := true, out := out }
/-- Context 0 runs the program, with a grant being filled or none; the counter of job set 0 stands at `nx` of `fin`. -/
def coxDev (fill : Option Grant) (nx fin : Nat) (out : List Nat) (x : Step) : Dev :=
  { seatDev { seat1 with ctxs := [(0, { Ctx.reset with step := some 7, fill := fill })] } x with
    coxes := [(0, { Cox.reset with slots := [(0, 7)], counters := [(0, cnt0 nx fin out)] })] }
def gd : Dev := coxDev none 4 8 [3] (step0 prog1)
def gpick : Except XErr (Dev × Option (Nat × Nat)) := pickCounter gd (step0 prog1) 0 (boundJs prog1 0 0)

def gd1 : Dev := (okV (Dev.reset, none) gpick).1

theorem witness_WorkGrantGivesNextIndex :
    (c0.wf = true ∧ gd.wlog = [] ∧ (ctxAt (st gd) c0).step = some 7 ∧ tfind gd.steps 7 = some (step0 prog1) ∧ canRun gd 7 = true ∧
      atGrantPoint gd 7 0 0 = true) ∧
    gpick = .ok (gd1, some (0, 0)) ∧
    (groupOf gd1 (step0 prog1) 0 0 0 0 = [] ∧ (cntGet gd1 0 0).regrant = []) ∧
    tilePlan gd1 (step0 prog1) 0 (coordsOf (step0 prog1) (jsOf prog1 0) 0 (cntGet gd1 0 0).next) = .ok (some ([], [wEnd])) ∧
    staticCheck (seatAt (st gd) c0) 0 wEnd = none ∧ okB (grantOne gd1 (step0 prog1) 7 0 0 0 0) = true := by
  refine ⟨?_, ok_snd (Dev.reset, none) ?_ ?_, ?_, ok_is ?_, ?_⟩ <;> decide +kernel

def sbd : Dev := coxDev (some grant1) 4 8 [3] (step0 prog1)
def hdone : Dev := coxDev none 8 8 [] (step0 prog1)
/-- Of a band of crew 0's rows, and a stem slot at the first of its two rows, with no channel. -/
def band0 : Band := { conv := 0, prod := 0, cons := 0, first := 0, len := 4, avail := 1 }
def prog2 : Prog := { prog1 with convs := [rec' 64 [(4, 2, 8), (8, 2, 8), (0x10, 4, 0x11000011)]], stems := [rec' 128 [(0x34, 2, 2), (0x38, 4, 1)]] }
def hd2 (b : List Band) : Dev := { coxDev none 4 8 [3] { step0 prog2 with bands := b } with stems := [(0, (7, 0, 0, false, false))] }
/-- The stem's band, which its first row reads and which holds no row yet. -/
def prog3 : Prog := { prog2 with convs := [rec' 64 [(0, 2, 0x8000), (4, 2, 8), (8, 2, 8), (0x10, 4, 0x111111)]] }
def bandS : Band := { conv := 0, prod := 0, cons := 64, first := 0, len := 8, avail := 0 }

theorem witness_StreamsAndRowsComplete_block : ∃ (ent bs : Bytes) (d1 : Dev),
    c0.wf = true ∧ sbd.wlog = [] ∧ (ctxAt (st sbd) c0).step = some 7 ∧ tfind sbd.steps 7 = some (step0 prog1) ∧ canRun sbd 7 = true ∧
    (seatAt (st sbd) c0).fenced = false ∧ (seatAt (st sbd) c0).wiping = false ∧ (ctxAt (st sbd) c0).failed = false ∧
    blockGrant prog1 (ctxAt (st sbd) c0) 0 = some (false, grant1) ∧ jsStream (jsOf prog1 0) 0 = some 0 ∧
    haloReady (step0 prog1) 0 0 [3, 0, 0] = true ∧
    sharers sbd (step0 prog1) 0 0 0 grant1 ((sdCtl (sdOf prog1 0)).testBit 9 || (sdCtl (sdOf prog1 0)).testBit 10) = some [(0, 0)] ∧
    plEntry sbd 1 prog1 0 0 = .ok ent ∧ operandBlock sbd 1 0 prog1 (jsOf prog1 0) (sdOf prog1 0) ent [3, 0, 0] 0 = .ok (bs, d1) ∧
    bs.length = 8 := by
  refine ⟨[], leBytes 8 0, _, ?_, ?_, ?_, ?_, ?_, ?_, ?_, ?_, ?_, ?_, ?_, ?_, ok_is ?_, ok_fst ([], Dev.reset) ?_ ?_, ?_⟩ <;> decide +kernel

theorem witness_StreamsAndRowsComplete_jobset :
    slotStep hdone 0 0 = some 7 ∧ (cntGet hdone 0 0).active = true ∧ (cntGet hdone 0 0).done = false ∧ canRun hdone 7 = true ∧
    barrierOpen hdone prog1 0 0 = true ∧ jsWaits (step0 prog1) 0 = false ∧ okB (passSkipped hdone (step0 prog1) 0 0) = true ∧
    (cntGet (okV Dev.reset (passSkipped hdone (step0 prog1) 0 0)) 0 0).fin ≤ 8 ∧
    (cntGet (okV Dev.reset (passSkipped hdone (step0 prog1) 0 0)) 0 0).next = 8 ∧
    (cntGet (okV Dev.reset (passSkipped hdone (step0 prog1) 0 0)) 0 0).regrant = [] ∧
    (cntGet (okV Dev.reset (passSkipped hdone (step0 prog1) 0 0)) 0 0).out = [] ∧
    cntOfJs (coxOf hdone 0) (pSlot prog1) 0 = some 0 ∧ (∀ z, z ∈ (step0 prog1).crews → z = 0) := by
  decide +kernel

theorem witness_StreamsAndRowsComplete_rows :
    (tfind (hd2 [band0]).steps 7 = some { step0 prog2 with bands := [band0] } ∧ 0 ∈ (step0 prog2).crews ∧ canRun (hd2 [band0]) 7 = true) ∧
    (tfind (hd2 []).stems 0 = some (7, 0, 0, false, false) ∧ 0 < smRows (stemDesc prog2 0)) ∧
    stemReady (step0 prog2) 0 0 = true ∧ stemReady { step0 prog3 with bands := [bandS] } 0 0 = false ∧
    (∃ src lines d1 r d2, stemSource (step0 prog2) 0 0 = some src ∧
      stemLines 1 (stemDesc prog2 0) src 0 (List.range (leAt (stemDesc prog2 0) 0x2C 2 * (smFilter (stemDesc prog2 0)).1)) (hd2 []) = .ok (lines, d1) ∧
      stemChans 1 (step0 prog2) (stemDesc prog2 0) (recSlot prog2 0 0) lines 0 0 (List.range (leAt (stemDesc prog2 0) 0x2E 2)) Running.reset d1 =
        .ok (r, d2)) := by
  refine ⟨?_, ?_, ?_, ?_, ⟨(0, 0, 0), [], hd2 [], Running.reset, hd2 [], ?_, ok_is ?_, ok_is ?_⟩⟩ <;> decide +kernel

/-! ### Embedding and dispatch engines -/

/-- Embedding job 0: a gather of no bag; job 1: an update of no index. -/
def progE : Prog := { prog0 with embs := [rec' 128 [(6, 1, 0xFF)], rec' 128 [(0, 1, 1), (6, 1, 0xFF)]] }
def emb (j : EmbJob) : EmbJob := j
def ej (gr l : Bool) : EmbJob := { started := true, cursor := 0, grouping := gr, rows := [], landed := l }
def embDev (e : List (Nat × EmbJob)) : Dev := mapG { Dev.reset with steps := [(7, { step0 progE with embs := e })] }
def n1 : StepName := { g := 1, adm := 1 }

theorem witness_EmbeddingJobsAdvance :
    (liveStep (embDev []) n1 = some (7, step0 progE) ∧ (progOf (step0 progE)).embs[0]? = some (rec' 128 [(6, 1, 0xFF)]) ∧
      leAt (rec' 128 [(6, 1, 0xFF)]) 6 1 = 0xFF) ∧
    (liveStep (embDev [(0, ej false true)]) n1 = some (7, { step0 progE with embs := [(0, ej false true)] }) ∧
      tfind [(0, ej false true)] 0 = some (ej false true)) ∧
    (tfind [(0, ej false false)] 0 = some (ej false false) ∧ leAt (rec' 128 [(6, 1, 0xFF)]) 0 1 = 0 ∧
      okB (vaRead (embDev [(0, ej false false)]) 1 0 4) = true ∧
      (gatherBags 7 { step0 progE with embs := [(0, ej false false)] } (rec' 128 [(6, 1, 0xFF)]) 0 (recSlot progE 0 0) (recSlot progE 0 0) []
        Running.reset (embDev [(0, ej false false)])).2 = none) ∧
    (leAt (rec' 128 [(0, 1, 1), (6, 1, 0xFF)]) 0 1 ≠ 0 ∧ (ej true false).grouping = true ∧
      okB (groupRows 7 1 (rec' 128 [(0, 1, 1), (6, 1, 0xFF)]) 0 0 [] (embDev [(0, ej false true), (1, ej true false)])) = true) := by
  decide +kernel

/-- A dispatch round of no token among one member, at phase `ph`. -/
def progD : Prog := { prog0 with disp := [rec' 128 [(0x44, 1, 3), (0x45, 1, 0xFF)]] }
def round (ph : Nat) : Round :=
  { phase := ph, ranks := [0], emap := [], counts := [(0, [])], offs := [(0, [])], sends := [], returns := [], placed := [], origin := []
    results := [], sent := 0, dropped := 0, lost := 0 }
def stepD (ph : Nat) : Step := { step0 progD with round := some (round ph), jsDone := [3] }
def dispDev (ph : Nat) : Dev := mapG { Dev.reset with steps := [(7, stepD ph)] }

theorem witness_ExpertRoundAdvances :
    (∀ ph, ph < 6 → atPhase (dispDev ph) n1 ph = some (7, stepD ph, round ph) ∧ (dispDev ph).wlog = []) ∧
    (leAt (dispDesc (stepD 0)) 0x44 1 ∈ (stepD 0).jsDone ∧ okB (vaRead (dispDev 0) 1 0 0) = true ∧ okB (vaRead (dispDev 0) 1 0 16384) = true) ∧
    ((∀ i, i < (round 1).ranks.length → (tfind (round 1).counts i).isSome = true) ∧ okB (transRange (dispDev 1) 1 0 0 true) = true ∧
      okB (transRange (dispDev 1) 1 64 0 true) = true) ∧
    (∀ i, i < (round 2).ranks.length → (tfind (round 2).offs i).isSome = true) ∧
    (∀ i, i < (round 3).ranks.length → ((round 3).origin.filter fun o => o.2.2.1 == i).length = keptFrom (dispDesc (stepD 3)) (round 3) i) ∧
    leAt (dispDesc (stepD 4)) 0x45 1 = 0xFF ∧
    ((round 5).placed = [] ∧
      okB (combineAll 7 (stepD 5) (dispDesc (stepD 5)) (round 5) [] (recSlot progD 0 0) [] Running.reset (dispDev 5)) = true ∧
      okB (transRange (dispDev 5) 1 0 64 true) = true) ∧
    ((stepD 0).st = .admitted ∧ w32At (dispDesc (stepD 0)) 0 = (0 : W32).toNat) := by
  refine ⟨?_, ?_, ?_, ?_, ?_, ?_, ⟨?_, ?_⟩, ?_⟩ <;> decide +kernel

/-! ### Keys and values -/

/-- KV table 0 of G1: one head group of dimension 64 in E4M3, 4 pages, its pages 0 and 1 in stacked frame 0, its last in frame 1. -/
def kvr (e : List (Nat × W64 × Nat)) (sp : List (Nat × Nat)) : KvRoot :=
  { KvRoot.reset with gnt := 1, hg := 1, fmt := 3, len := 256, cap := 4, tab0 := 0x1000000, tab1 := 0x2000000, edits := e, spills := sp }
def kvMem : List (Nat × Byte) := [(0x1000000, 9), (0x1000001, 1), (0x1000008, 9), (0x1000009, 1), (0x1000018, 9), (0x1000019, 1), (0x100001A, 0x10)]
def kvDev (r : KvRoot) : Dev := { mapG Dev.reset with kv := [(0, r)], mem := kvMem }
def kold (r : KvRoot) (i : Nat) : Nat := peekN (kvDev r) (stackBase + kvEntryAddr r r.gen.toNat 0 + 8 * i) 8

theorem witness_KvEngineRows_edits :
    Memory.wf kvMem = true ∧ (∀ k, k < 3 → (kvOf (kvDev (kvr [(k, 3, 0)] [])) 0).edits = (k, 3, 0) :: [] ∧
      (kvOf (kvDev (kvr [(k, 3, 0)] [])) 0).livePrev = 0 ∧ 3 < kvEntries (kvr [(k, 3, 0)] []) ∧ (kold (kvr [(k, 3, 0)] []) 3).testBit 0 = true) ∧
    ((kvOf (kvDev (kvr [] [(3, 5)])) 0).spills.find? fun x => x.1 == 3) = some (3, 5) ∧
    ((kvr [] []).cap ≠ 0 ∧ (3 : Nat) < ((kvr [] []).len.toNat + 63) / 64 ∧ kvEntryOk (kvEntry (kvDev (kvr [] [])) (kvr [] []) 0 3) 1 0 = true) := by
  decide +kernel

/-- A walk of mode `m` over table 0 for job set 0, a segment map at VA `sm`. -/
def wk (m sm na : Nat) : Bytes := rec' 64 [(0, 1, m), (4, 4, 2 ^ 10), (9, 1, 1), (0x18, 8, sm), (0x38, 4, na)]
/-- Streams 0 and 1: blocks of one INT8 element, at SOFF 0 and 64. -/
def progK (m sm na : Nat) : Prog :=
  { prog1 with jobsets := [rec' 64 [(0x10, 4, 1)]], walks := [wk m sm na]
               streams := [rec' 128 [(8, 4, 5 + 2 ^ 16)], rec' 128 [(8, 4, 5 + 2 ^ 16), (0x10, 4, 1)]], capt := [(0, 0, 64)] }
def stepK (m sm na : Nat) : Step := { step0 (progK m sm na) with jsDone := [0], staging := [4096], asked := [(0, (0, 0, 0, 2))] }
/-- The segment map at VA 0x100: its first segment is rank 1's table 2, of 64 keys. -/
def kvDev2 (m sm na : Nat) : Dev :=
  { kvDev (kvr [] []) with steps := [(7, stepK m sm na)], gaunts := [(1, { Gaunt.reset 1 with peers := [(1, 0x1005)] })]
                           mem := [(0x100, 1), (0x102, 2), (0x108, 64)] ++ kvMem }

theorem witness_KvEngineRows_fetch : ∃ m tb,
    findStep (kvDev2 0 0x100 0) n1 = some 7 ∧ tfind (stepK 0 0x100 0).asked 0 = some (0, (0 : BitVec 4).toNat, 0, (2 : TabNo).toNat) ∧
    segMap (kvDev2 0 0x100 0) 1 (walkOf (progK 0 0x100 0) 0) = .ok m ∧ pageAt (kvDev2 0 0x100 0) 1 m 0 = some (.peer 5 tb 0 64) ∧
    0 ∉ (stepK 0 0x100 0).landed ∧ 2 * (kvDim (kvr [] []) * 64 * 1) ≤ (List.replicate 8192 (0 : Byte)).length ∧ kvDim (kvr [] []) ≤ 256 := by
  refine ⟨_, 2, ?_, ?_, ok_eq none ?_, ?_, ?_, ?_, ?_⟩ <;> decide +kernel

theorem witness_KvEngineRows_items :
    (findStep (kvDev2 2 0 1) n1 = some 7 ∧ canRun (kvDev2 2 0 1) 7 = true ∧ (kvDev2 2 0 1).wlog = [] ∧
      (appends (progK 2 0 1)).find? (fun x => x.1 == 0) = some (0, 0) ∧
      (∀ w, w ∈ (progK 2 0 1).walks → wkJs w ∈ (stepK 2 0 1).jsDone) ∧ 1 ∉ (stepK 2 0 1).sums ∧
      sumSpan (kvr [] []) (captLen (progK 2 0 1) 0) (wkNapp (walkOf (progK 2 0 1) 0)) = (1, 2) ∧
      kvEntryOk (kvEntry (kvDev2 2 0 1) (kvr [] []) 0 1) 1 0 = true ∧
      okB (vaWrite (kvDev2 2 0 1) 1 (1 * (2 * 64 + 64)) (summaryRec (kvDev2 2 0 1) (kvFrame 0x109) 3 64 1)) = true) ∧
    (0 < (progK 1 0 0).walks.length ∧ wkMode (walkOf (progK 1 0 0) 0) = 1 ∧ leAt (walkOf (progK 1 0 0) 0) 0xB 1 ∈ (stepK 1 0 0).jsDone ∧
      0 < jsNt (jsOf (progK 1 0 0) 0) 0 ∧ segMap (kvDev2 1 0 0) 1 (walkOf (progK 1 0 0) 0) = .ok none ∧
      okB (q0Of (kvDev2 1 0 0) 1 (walkOf (progK 1 0 0) 0) 0) = true ∧ okB (vaGet (kvDev2 1 0 0) 1 0 0) = true ∧
      okB (vaWrite (kvDev2 1 0 0) 1 0 (padTo 64 [])) = true) := by
  refine ⟨?_, ?_, ?_, ?_, ?_, ok_is ?_, ?_⟩ <;> decide +kernel

/-- A walk block of page 0 of this module's table 0, two rings that do not meet, its key positions behind both. -/
def wgrant : Grant := { grant0 with index := 0, i0 := 0 }
def kwd : Dev :=
  { kvDev2 0 0 0 with seats := [(0, { seat1 with ctxs := [(0, { Ctx.reset with step := some 7, comp := some wgrant })] })] }

theorem witness_KvEngineRows_walk :
    (c0.wf = true ∧ (ctxAt (st kwd) c0).comp = some wgrant ∧ (ctxAt (st kwd) c0).walk = none ∧ tfind kwd.steps 7 = some (stepK 0 0 0) ∧
      (seatAt (st kwd) c0).fenced = false ∧ canRun kwd 7 = true) ∧
    walkFor (progK 0 0 0) 0 = some (0 : BitVec 4).toNat ∧ segMap kwd 1 (walkOf (progK 0 0 0) 0) = .ok none ∧ segOk [] = true ∧
    plEntry kwd 1 (progK 0 0 0) 0 0 = .ok [] ∧
    walkPages kwd 1 (stepK 0 0 0) 0 (qOf (walkOf (progK 0 0 0) 0) [0, 0, 0]) = .ok (some [0]) ∧
    wkGroup (walkOf (progK 0 0 0) 0) [] < kvHg (kvOf kwd 0) ∧
    slotFree (seatAt (st kwd) c0) 0 (progK 0 0 0) wgrant 0 0 [(0, 64), (64, 64)] = true ∧ pageAt kwd 1 none 0 = some (.here 0) ∧
    kvEntryOk (kvEntry kwd (kvOf kwd 0) (captGen (progK 0 0 0) 0) 0) 1 0 = true ∧
    (let kd := sdOf (progK 0 0 0) 0
     let vd := sdOf (progK 0 0 0) 1
     let kb := pagePart (peek kwd (kvFrame 0x109) 32768) 0 (sdElems kd) (fmtBits (sdFmt kd)) 0 (fun l => l % 64) 64
     let vb := pagePart (peek kwd (kvFrame 0x109) 32768) 16384 (sdElems vd) (fmtBits (sdFmt vd)) 0 (fun l => l / 64 % 64) 64
     halfBase 0 false + sdSoff kd + kb.length ≤ halfBase 0 false + sdSoff vd ∧ halfBase 0 false + sdSoff vd + vb.length ≤ tregBase 0 0) := by
  refine ⟨?_, ?_, ok_is ?_, ?_, ok_is ?_, ok_is ?_, ?_, ?_, ?_, ?_, ?_⟩ <;> decide +kernel


/-! ### Supply, domains, link, boot, registers -/

theorem witness_SupplyAndThermalRows :
    (Dev.reset.sup.brace = false ∧ Dev.reset.pwait.active = false) ∧ ((6400 : W16).toNat ≤ 6400 ∧ ¬(6401 : W16).toNat ≤ 6400) ∧
    ((5999 : W16).toNat < 6000 ∧ ¬(6000 : W16).toNat < 6000) ∧ ((4699 : W16).toNat < 4700 ∧ 4700 ≤ (4700 : W16).toNat) ∧
    (4800 < (4801 : W16).toNat ∧ Dev.reset.sup.vinOk = false) ∧ (100 ≤ sext 8 (100 : W16).toNat ∧ ¬100 ≤ sext 8 (99 : W16).toNat) ∧
    ((299 : W16).toNat < 300 ∧ 45 < sext 8 (46 : W16).toNat) ∧ (sext 8 (109 : Byte).toNat < 110 ∧ 110 ≤ sext 8 (110 : Byte).toNat) := by
  decide +kernel

/-- A module in PWAIT, with WTIMER 3 and the SMBus comparator at 0x15 (in brace or not), after three strokes. -/
def pwDev (brace : Bool) : Dev :=
  { Dev.reset with pwait := { Dev.reset.pwait with active := true, strokes := 3 }, sup := { Supply.reset with brace := brace }
                   regs := [(rBOOT_STATUS, 1), (rPWR_WAKEADDR, 0x95), (rPWR_WTIMER, 3)] }
theorem witness_DomainsWakeAndBoundary :
    (domWf 112 = true ∧ domWf 113 = false) ∧
    (∀ b, (pwDev b).pwait.active = true ∧ (pwDev b).sup.brace = b ∧ (reg (pwDev b) rPWR_WAKEADDR).testBit 7 = true ∧
      fld (reg (pwDev b) rPWR_WAKEADDR) 6 0 = (0x15 : BitVec 7).toNat ∧ reg (pwDev b) rPWR_WTIMER ≤ (pwDev b).pwait.strokes ∧
      reg (pwDev b) rPWR_WTIMER ≠ 0 ∧ fld (reg (pwDev b) rBOOT_STATUS) 1 0 = 1) ∧
    Dev.reset.pwait.active = false ∧ fld (reg Dev.reset rBOOT_STATUS) 1 0 ≠ 1 ∧
    fld (reg { Dev.reset with regs := [(rBOOT_STATUS, 1)] } rBOOT_STATUS) 1 0 = 1 ∧
    ¬((reg Dev.reset rPWR_WAKEADDR).testBit 7 = true ∧ fld (reg Dev.reset rPWR_WAKEADDR) 6 0 = (0x15 : BitVec 7).toNat) := by
  decide +kernel

theorem witness_LinkAndResetRows :
    fnOn Dev.reset 1 = false ∧ fnOn { Dev.reset with ident := { Ident.reset with numvf := 1 } } 1 = true ∧
    Dev.reset.ident.numvf.toNat ≤ min (15 : BitVec 5).toNat 15 := by
  decide +kernel

/-- Qualified supply, EN# closed, flow; the flash as `p` has it. -/
def bootDev (p : Persist) : Dev := { Dev.reset with sup := { Supply.reset with vinOk := true, enClosed := true, flowOk := true }, pst := p }
theorem witness_BootStarts :
    mayBoot Dev.reset = false ∧ mayBoot (bootDev Persist.reset) = true ∧ (∀ n, levelOf (bootDev Persist.reset) n = 0) ∧
    stepCut (bootDev Persist.reset) = none ∧ imgOk (bootDev Persist.reset) = true ∧
    (mayBoot (bootDev { Persist.reset with imgValid := false }) = true ∧ imgOk (bootDev { Persist.reset with imgValid := false }) = false) ∧
    (bootDev { Persist.reset with opt := 1 }).pst.opt.getLsbD 0 = true := by
  refine ⟨?_, ?_, fun n => rfl, ?_, ?_, ?_, ?_⟩ <;> decide +kernel

/-- RECOVERY with the read in progress, of no bytes; the link is up. -/
def recDev (len : W64) (up : Bool) : Dev :=
  { Dev.reset with regs := [(rBOOT_STATUS, 2), (rBOOT_RECCTL, 2), (rBOOT_RECLEN, len)], ident := { Ident.reset with up := up }
                   pst := { Persist.reset with secver := 127 } }
/-- A queue that three forced resets have disabled. -/
def deadDev : Dev := { Dev.reset with queues := [(5, { Queue.reset with failsAt := [3, 2, 1] })] }
theorem witness_BootRegistersAndRepair :
    (∀ b, fld (reg (recDev 0 b) rBOOT_STATUS) 1 0 = 2 ∧ (reg (recDev 0 b) rBOOT_RECCTL).testBit 1 = true ∧ (recDev 0 b).ident.up = b) ∧
    (fld (reg Dev.reset rBOOT_STATUS) 1 0 ≠ 2) ∧ 2 ^ 25 < reg (recDev (2 ^ 25 + 1) true) rBOOT_RECLEN ∧
    reg (recDev (2 ^ 25) true) rBOOT_RECLEN ≤ 2 ^ 25 ∧ (Dev.reset.pst.repairs.length < 65536 ∧ Dev.reset.pst.repairs = []) ∧
    qDead Dev.reset = [] ∧ 5 ∈ qDead deadDev ∧ deadDev.pst.repairs.length + (qDead deadDev).length ≤ 65536 := by
  decide +kernel

/-- An image of a security version below the counter is not accepted, whatever its bytes. -/
theorem witness_BootRegistersAndRepair_image (b : Bytes) : imageOf (recDev 0 true) b = none := by
  have h : (recDev 0 true).pst.secver.toNat = 127 := rfl
  unfold imageOf
  rw [h]
  split
  rw [if_neg]
  omega

def busAt (off : BitVec 32) (size : Byte) : BusAddr := { fn := 0, bar := 0, off := off, size := size }
def rowIs (off : Nat) (a : Acc) : Bool := (rowAt blockRows off).any fun r => r.off == off && r.size == 4 && r.acc == a
def admittedDev (al : Bool) : Dev := { sd0 with strk := { Strk.reset with aligned := al } }
theorem witness_RegisterWritesAndReads :
    accessOk (busAt 2 4) = false ∧ windowOf Dev.reset (busAt 2 4) ≠ none ∧
    (rowIs rSTRK_OVRCNT .rc = true ∧ rowIs rSTRK_STATUS .ro = true ∧ rowIs rEMB_ERR .w1c = true) ∧
    served Dev.reset none rEMB_ERR = true ∧ rSTRK_OVRCNT < 0x11000 ∧ rEMB_ERR < 0x11000 ∧ (admittedDev true).strk.aligned = true ∧
    (admittedDev false).strk.aligned = false ∧ (step0 prog0).st = .admitted ∧ Dev.reset.steps = [] ∧
    (qOk Dev.reset.evlog = true ∧ qOk (setRp Dev.reset.evlog 0) = true ∧ ((0 : W32) - Dev.reset.evlog.rp).toNat ≤ occ Dev.reset.evlog) ∧
    occ Dev.reset.evlog < ((1 : W32) - Dev.reset.evlog.rp).toNat := by
  decide +kernel

/-- Undefined offsets in BAR0 and in a function page; the higher half of an 8-byte access undefined. -/
theorem witness_UndefinedOffsets :
    (accessOk (busAt 0x3FFFFC 4) = true ∧ windowOf Dev.reset (busAt 0x3FFFFC 4) = some (none, 0x3FFFFC) ∧ unmapped none 0x3FFFFC = true) ∧
    (windowOf Dev.reset { fn := 0, bar := 2, off := 0x60, size := 8 } = some (some 0, 0x60) ∧ unmapped (some 0) 0x60 = true ∧
      unmapped (some 0) 0x64 = true) ∧
    (windowOf Dev.reset { fn := 0, bar := 2, off := 0x108, size := 8 } = some (some 0, 0x108) ∧ unmapped (some 0) 0x108 = false ∧
      unmapped (some 0) 0x10C = true) := by
  decide +kernel

/-! ### Hatbox and messages -/

def hatDev (h : Hat) : Dev := { Dev.reset with hat := h }
def frame0 : Bytes := List.replicate 0x520 0
/-- The hatbox holds one entry, signed. -/
def hat1 : Hat := { Hat.reset with waiting := [(0, false, false)], log := [[]], lseq := 1, signed := some 0 }

theorem witness_HatboxRows :
    Dev.reset.hat.waiting.length < 65536 ∧ Dev.reset.hat.fwPend = none ∧ (hatDev { hat1 with fwPend := some [] }).hat.fwPend ≠ none ∧
    (hatDev hat1).hat.waiting = (0, false, false) :: [] ∧
    (hatDev hat1).hat.bootnum.toNat = 0 ∧ (hatDev hat1).hat.nextIv.toNat = 0 ∧ hatHeld hat1 (0 : W64).toNat = some [] ∧
    hatHeld hat1 (1 : W64).toNat = none ∧ hat1.signed = some 0 ∧ hat1.gapDue = false ∧ hat1.log.length < hatCap ∧
    (Dev.reset.pst.lcstate ≠ 0 ∧ Dev.reset.hat.rma = false) ∧ Dev.reset.hat.meshBroken = false ∧ (hatDev { hat1 with meshBroken := true }).hat.meshBroken = true := by
  decide +kernel

theorem crcBit_lt {c : Nat} (h : c < 2 ^ 32) : crcBit c < 2 ^ 32 := by
  unfold crcBit
  split
  · exact Nat.xor_lt_two_pow (by omega) (by decide)
  · omega

theorem crc32c_lt (bs : Bytes) : crc32c bs < 2 ^ 32 := by
  have go : ∀ (bs : Bytes) (c : Nat), c < 2 ^ 32 →
      bs.foldl (fun c b => crcBit (crcBit (crcBit (crcBit (crcBit (crcBit (crcBit (crcBit (c ^^^ b.toNat))))))))) c < 2 ^ 32 := by
    intro bs
    induction bs with
    | nil => intro c h; exact h
    | cons b t ih =>
      intro c h
      exact ih _ (crcBit_lt (crcBit_lt (crcBit_lt (crcBit_lt (crcBit_lt (crcBit_lt (crcBit_lt (crcBit_lt
        (Nat.xor_lt_two_pow h (by omega))))))))))
  exact Nat.xor_lt_two_pow (go bs _ (by decide)) (by decide)

theorem leNat_leBytes4 {x : Nat} (h : x < 2 ^ 32) : leNat (leBytes 4 x) = x := by
  simp only [leBytes, leNat, BitVec.toNat_ofNat]
  omega

/-- A frame of zeros under its CRC is sound, with BOOTNUM and INTERVAL zero. -/
theorem witness_HatboxRows_frame :
    (frame0 ++ leBytes 4 (crc32c frame0)).length = 1316 ∧
    leAt (frame0 ++ leBytes 4 (crc32c frame0)) 0x520 4 = crc32c ((frame0 ++ leBytes 4 (crc32c frame0)).take 0x520) ∧
    leAt (frame0 ++ leBytes 4 (crc32c frame0)) 0 4 = 0 ∧ leAt (frame0 ++ leBytes 4 (crc32c frame0)) 8 8 = 0 := by
  have hl : frame0.length = 0x520 := List.length_replicate
  have hd : (frame0 ++ leBytes 4 (crc32c frame0)).drop 0x520 = leBytes 4 (crc32c frame0) := by
    rw [← hl]; exact List.drop_left
  have ht : (frame0 ++ leBytes 4 (crc32c frame0)).take 0x520 = frame0 := by
    rw [← hl]; exact List.take_left
  refine ⟨?_, ?_, rfl, rfl⟩
  · rw [List.length_append, hl]; rfl
  · rw [ht]
    unfold leAt
    rw [hd]
    exact leNat_leBytes4 (crc32c_lt frame0)

/-- A log of any length, its limit included. -/
theorem witness_HatboxRows_full (n : Nat) : n ≤ (List.replicate n ([] : Bytes)).length := by
  simp

/-- The link is up; function 1 exists; its session and pair as `x` says. -/
def msgDev (x : Func) : Dev :=
  { Dev.reset with ident := { Ident.reset with up := true, numvf := 1 }, funcs := [(1, x)]
                   gaunts := [(1, { Gaunt.reset 1 with present := true, ftag := 5 })] }
def fs (v : Bool) : Func := { Func.reset with sess := some (0, v), kem := some 0 }
theorem witness_MessagesWithoutSession :
    (fnOn (msgDev Func.reset) 1 = true ∧ (msgDev Func.reset).ident.up = true ∧ (msgDev Func.reset).pst.lcstate ≠ 4 ∧
      (msgDev Func.reset).pwait.active = false) ∧
    Dev.reset.ident.up = false ∧ (func (msgDev (fs false)) 1).sess = some (0, false) ∧ (func (msgDev Func.reset) 1).sess = none := by
  decide +kernel

theorem witness_MessagesOfSessionAndResets :
    inSession (msgDev Func.reset) 1 = false ∧ inSession (msgDev (fs true)) 1 = true ∧
    (func (msgDev { fs true with ideKeys := true, tdi := 1 }) 1).ideKeys = true ∧ (func (msgDev (fs true)) 1).tdi = 0 ∧
    (func (msgDev { fs true with tdi := 1 }) 1).tdi = 1 ∧
    ((func (msgDev (fs true)) 1).kem = some 0 ∧ (gaunt (msgDev (fs true)) 1).present = true ∧ (gaunt (msgDev (fs true)) 1).ftag ≠ 0 ∧
      (gaunt (msgDev (fs true)) 1).actPend = false ∧ (gaunt (msgDev (fs true)) 1).keyStaged = none ∧ nextGen (gaunt (msgDev (fs true)) 1) = 0) ∧
    (func (msgDev Func.reset) 1).cur = none ∧ (msgDev Func.reset).steps = [] ∧ tfind (msgDev Func.reset).ckpts 1 = none ∧
    (msgDev Func.reset).waits = [] ∧ ({ Dev.reset with ident := { Ident.reset with resetDue := true } } : Dev).ident.resetDue = true ∧
    Dev.reset.ident.resetDue = false := by
  decide +kernel

/-! ### Host interface -/

/-- Function 0 and function 1 open with every feature but SECURE, their gauntlets present; the module runs and its link is up. -/
def fx : Func := { Func.reset with openF := true, feat := 0xFF7 }
def pg (n : Nat) : Gaunt := { Gaunt.reset n with present := true }
def hd : Dev :=
  { mapG Dev.reset with ident := { Ident.reset with up := true, numvf := 1 }, funcs := [(0, fx), (1, fx)], gaunts := [(0, pg 0), (1, pg 1)]
                        regs := [(rBOOT_STATUS, 1)], pst := { Persist.reset with lcstate := 2 }
                        doms := [68, 98, 99, 100, 101, 102, 103, 105, 112].map fun n => (n, { Dom.reset with state := 0 }) }
/-- The same with changes to function 1, and to gauntlet 1. -/
def hf (x : Func) : Dev := { hd with funcs := [(0, fx), (1, x)] }
def hg (x : Gaunt) : Dev := { hd with gaunts := [(0, pg 0), (1, x)] }
/-- A packet of a function with its first five parameters. -/
def hc (f : Fn) (p0 p1 p2 p3 p4 : W64) : HostCmd :=
  { fn := f, tag := 9, flags := 0, p0 := p0, p1 := p1, p2 := p2, p3 := p3, p4 := p4, p5 := 0, p6 := 0 }

/-- The check of `Accepted`, and that of `Refused`. -/
def accB (d : Dev) (i : Instr) : Bool :=
  match hostRow i with
  | some (op, masks, rsv, h) => mayStart d op h && !d.pwait.active && decide (cmdGate d op masks rsv h = none)
  | none => false
def refB (d : Dev) (i : Instr) (op : Nat) (h : HostCmd) (code : Nat) : Bool :=
  match hostRow i with
  | some (o, masks, rsv, k) => decide (o = op ∧ k = h) && mayStart d op h && !d.pwait.active && decide (cmdGate d op masks rsv h = some code)
  | none => false

theorem acc_of {d : Dev} {i : Instr} (h : accB d i = true) : Accepted (st d) i := by
  unfold accB at h
  split at h
  · rename_i op masks rsv k e
    simp only [Bool.and_eq_true, Bool.not_eq_true', decide_eq_true_eq] at h
    exact ⟨op, masks, rsv, k, e, h.1.1, h.1.2, h.2⟩
  · cases h

theorem acc_all {d : Dev} {l : List Instr} (h : l.all (accB d) = true) : ∀ i, i ∈ l → Accepted (st d) i :=
  fun i hi => acc_of (List.all_eq_true.mp h i hi)

theorem ref_of {d : Dev} {i : Instr} {op : Nat} {k : HostCmd} {code : Nat} (h : refB d i op k code = true) : Refused (st d) i op k code := by
  unfold refB at h
  split at h
  · rename_i o masks rsv l e
    simp only [Bool.and_eq_true, Bool.not_eq_true', decide_eq_true_eq] at h
    obtain ⟨⟨⟨⟨rfl, rfl⟩, a⟩, b⟩, c⟩ := h
    exact ⟨masks, rsv, e, a, b, c⟩
  · cases h

/-- Rings of 32 entries of function 1: `q` commands wait, `r` replies stand in the completion ring. -/
def ring (k esz n : Nat) : Queue := { mkQueue 0 1 esz 5 k true 0 with wp := BitVec.ofNat 32 n, wpx := ~~~(BitVec.ofNat 32 n) }
def rd (q r : Nat) (m : List (Nat × Byte)) : Dev :=
  { hf { fx with enable := true, sqbase := 0 } with queues := [(4, ring 0 6 q), (5, ring 1 5 r)], mem := m }

theorem witness_HostRings_registers :
    fnOn hd 2 = false ∧ fnOn hd 1 = true ∧ (func (rd 0 0 []) 1).enable = true ∧ (func hd 1).enable = false ∧
    ((0x105 : W32).toNat.testBit 8 = true ∧ fld (0x105 : W32).toNat 4 0 = 5) ∧ ((0x110 : W32).toNat.testBit 8 = true ∧ fld (0x110 : W32).toNat 4 0 = 16) ∧
    ((0x104 : W32).toNat.testBit 8 = true ∧ fld (0x104 : W32).toNat 4 0 < 5) ∧ 16 < fld (0x111 : W32).toNat 4 0 ∧
    ((rd 0 0 []).pwait.active = false ∧ (queue (rd 0 0 []) 4).enable = true ∧ qOk (queue (rd 0 0 []) 4) = true ∧
      qOk (setWp (queue (rd 0 0 []) 4) 32) = true ∧ (queue (rd 0 0 []) 5).enable = true ∧ qOk (queue (rd 0 5 []) 5) = true ∧
      qOk (setRp (queue (rd 0 5 []) 5) 5) = true) := by
  decide +kernel

def fetchGoes (d : Dev) : Prop :=
  (func d 1).enable = true ∧ (queue d 4).enable = true ∧ (queue d 5).enable = true ∧ (func d 1).cur = none ∧ d.ident.up = true ∧
  (func d 1).d3 = false ∧ cpRuns d = true ∧ fnOn d 1 = true ∧ qOk (queue d 4) = true ∧ qOk (queue d 5) = true

theorem witness_HostRings_fetch :
    (fetchGoes (rd 0 0 []) ∧ occ (queue (rd 0 0 []) 4) = 0) ∧ (fetchGoes (rd 1 32 []) ∧ 2 ^ 5 ≤ occ (queue (rd 1 32 []) 5)) ∧
    (fetchGoes (rd 1 31 []) ∧ occ (queue (rd 1 31 []) 4) ≠ 0 ∧ occ (queue (rd 1 31 []) 5) + (func (rd 1 31 []) 1).cqHeld < 2 ^ 5 ∧
      (packetAt (rd 1 31 []) 1 0).1 ∈ opcodes ∧ (packetAt (rd 1 31 []) 1 0).2.1 = 0) ∧
    (fetchGoes (rd 1 0 [(hostBase, 0xFF)]) ∧ (packetAt (rd 1 0 [(hostBase, 0xFF)]) 1 0).1 ∉ opcodes) ∧
    (fetchGoes (rd 1 0 [(hostBase + 2, 1)]) ∧ (packetAt (rd 1 0 [(hostBase + 2, 1)]) 1 0).2.1 ≠ 0) := by
  unfold fetchGoes
  decide +kernel

/-- A FILL of `n` bytes at VA 0 that moves its chunks. -/
def cur (n : W64) : Cur := { op := 10, cmd := hc 1 0 0 n 0 0, off := 0, tries := 0, started := true }
def chunkDev (n : W64) : Dev := hf { fx with cur := some (cur n) }
theorem witness_HostRings_chunk :
    (func hd 1).cur = none ∧ (∀ n, (func (chunkDev n) 1).cur = some (cur n) ∧ (cur n).cmd.fn = 1 ∧ (cur n).started = true ∧
      (chunkDev n).pwait.active = false ∧ (chunkDev n).wlog = []) ∧
    (okB (moveChunk (chunkDev 0x20000) 10 (hc 1 0 0 0x20000 0 0) 0 0x10000) = true ∧ min (chunkBytes (chunkDev 0x20000)) 0x20000 = 0x10000) ∧
    (okB (moveChunk (chunkDev 8) 10 (hc 1 0 0 8 0 0) 0 8) = true ∧ min (chunkBytes (chunkDev 8)) 8 = 8) := by
  refine ⟨?_, fun n => ⟨rfl, rfl, rfl, rfl, rfl⟩, ?_, ?_⟩ <;> decide +kernel

theorem witness_HostRings_vectors :
    (func (hf { fx with holdRun := true, unsig := 1 }) 1).holdRun = true ∧ (func (hf { fx with holdRun := true, unsig := 1 }) 1).unsig ≠ 0 ∧
    (func hd 1).holdRun = false ∧ (func hd 1).pba.getLsbD 0 = false ∧ (func (hf { fx with pba := 8 }) 1).pba.getLsbD (3 : BitVec 2).toNat = true := by
  decide +kernel

/-- A module in PWAIT, and one in DECOMMISSIONED. -/
theorem witness_RefusedCommandIsRejected :
    Refused (st hd) (.cmdGcreate (hc 1 0 0 0 0 0)) 0x20 (hc 1 0 0 0 0 0) 0x59 ∧ Refused (st (hf Func.reset)) (.cmdRead (hc 1 0 0 4 0 0)) 8 (hc 1 0 0 4 0 0) 0x5A ∧
    Refused (st hd) (.cmdPreempt (hc 0 0 0 4 0 0)) 0x23 (hc 0 0 0 4 0 0) 0x58 ∧
    (hostRow (.cmdNop (hc 1 0 0 0 0 0)) = some (0, [pAny], 0x58, hc 1 0 0 0 0 0) ∧ mayStart (chunkDev 8) 0 (hc 1 0 0 0 0 0) = false ∧
      (pwDev false).pwait.active = true) := by
  refine ⟨ref_of ?_, ref_of ?_, ref_of ?_, ?_⟩ <;> decide +kernel

/-! ### Commands that answer and report -/

def qd (n : Nat) (q : Queue) : Dev := { hd with queues := [(n, q)] }
def kd (r : KvRoot) : Dev := { hd with kv := [(0, r)], mem := kvMem }
def opDev (x : Gaunt) : Dev := { hf Func.reset with gaunts := [(0, pg 0), (1, x)] }

theorem witness_AnsweringCommands :
    Accepted (st hd) (.cmdNop (hc 1 5 0 0 0 0)) ∧ Accepted (st hd) (.cmdOpen (hc 1 1 0 0 0 0)) ∧
    (Accepted (st (hf Func.reset)) (.cmdOpen (hc 1 1 0 0 0 0)) ∧ (func (hf Func.reset) 1).openF = false ∧ (gaunt (hf Func.reset) 1).present = true ∧
      (gaunt (hf Func.reset) 1).tearing = 0 ∧ hd.ident.up = true ∧ hd.ident.lowrate = false ∧ cpRuns hd = true ∧
      ((1 : W64).toNat &&& featOff hd).testBit 0 = true ∧ ((2 : W64).toNat &&& featOff hd).testBit 0 = false) ∧
    (func hd 1).openF = true ∧ Accepted (st hd) (.cmdIdent (hc 1 0 0 0 0 0)) ∧ Accepted (st hd) (.cmdExtlist (hc 1 0 0 0 0 0)) ∧
    (Accepted (st (qd 128 (ring 7 4 0))) (.cmdQstat (hc 1 7 0 0 0 0)) ∧ qidOf (qd 128 (ring 7 4 0)) 1 7 = some 128 ∧
      (func hd 1).enable = false ∧ qidOf (qd 128 (ring 7 4 0)) 1 8 = none) ∧
    (Accepted (st (kd (kvr [] []))) (.cmdKvroot (hc 1 0 0 0 0 0)) ∧ ownTable (kd (kvr [] [])) 1 0 = true) := by
  refine ⟨acc_of ?_, acc_of ?_, ⟨acc_of ?_, ?_⟩, ?_, acc_of ?_, acc_of ?_, ⟨acc_of ?_, ?_⟩, acc_of ?_, ?_⟩ <;> decide +kernel

/-- G1's admission number 1 is given; the step of that number has ended, or is admitted and in the snapshot. -/
def statDev (k : Bool) : Dev :=
  { hg { pg 1 with adm := 1 } with steps := if k = true then [(7, step0 prog0)] else [], snap := { Dev.reset.snap with steps := [(1, 1, 2, 0)] } }
theorem witness_ReportingCommands_steps :
    (Accepted (st hd) (.cmdStepstat (hc 1 0 0 0 0 0)) ∧ Accepted (st (statDev true)) (.cmdStepstat (hc 1 1 0 0 0 0)) ∧
      Accepted (st (statDev false)) (.cmdStepstat (hc 1 1 0 0 0 0)) ∧ (gaunt hd 1).adm.toNat < (1 : W64).toNat ∧
      (1 : W64).toNat ≤ (gaunt (statDev true) 1).adm.toNat ∧ (statDev false).steps = [] ∧
      ((statDev true).steps.find? fun p => p.2.g == 1 && p.2.adm == 1) = some (7, step0 prog0) ∧
      ((statDev true).snap.steps.find? fun y => y.1 == 1 && y.2.1 == 1) = some (1, 1, 2, 0)) ∧
    (Accepted (st hd) (.cmdAcct (hc 1 0 0 0 0 0)) ∧ Accepted (st { hd with acctN := [(1, 1)] }) (.cmdAcct (hc 1 0 0 0 0 0)) ∧
      recordsOf hd 1 = [] ∧ (recordsOf { hd with acctN := [(1, 1)] } 1).filter
        (fun a => (1 : Fn) == 0 || peekN { hd with acctN := [(1, 1)] } (a + 0x18) 4 == (gaunt { hd with acctN := [(1, 1)] } 1).inst.toNat) = recordAddr 1 0 :: []) := by
  refine ⟨⟨acc_of ?_, acc_of ?_, acc_of ?_, ?_⟩, acc_of ?_, acc_of ?_, ?_⟩ <;> decide +kernel

/-- A queue of 32 entries of 16 bytes at VA 0. -/
def pq : W64 := 4 * 4 + 5 * 64
def telDev : Dev := { hd with queues := [(5, ring 1 5 0), (6, ring 2 6 3), (7, ring 3 7 0)] }
theorem witness_ReportingCommands_queues :
    (Accepted (st hd) (.cmdQcreate (hc 1 pq 0 0 0 0)) ∧ fld pq.toNat 5 2 = 4 ∧ fld pq.toNat 10 6 = 5 ∧ qbaseOk hd 1 0 (2 ^ 9) = true ∧
      (((List.range 1664).map (128 + ·)).find? fun n => (tfind hd.queues n).isNone) = some 128 ∧
      (((List.range 4092).map (4 + ·)).find? fun q => !(List.contains [] q)) = some 4) ∧
    Accepted (st hd) (.cmdQcreate (hc 1 0 0 0 0 0)) ∧ Accepted (st (qd 128 (ring 7 4 0))) (.cmdQdestroy (hc 1 7 0 0 0 0)) ∧
    (Accepted (st (qd 97 (ring 0xFFF 9 0))) (.cmdQdestroy (hc 1 0xFFF 0 0 0 0)) ∧ qidOf (qd 97 (ring 0xFFF 9 0)) 1 0xFFF = some 97) ∧
    (Accepted (st telDev) (.cmdTelcfgConfigure (hc 1 0 0x31 0 0 0)) ∧ Accepted (st telDev) (.cmdTelcfgReadEvents (hc 1 1 0 64 0 0)) ∧
      Accepted (st telDev) (.cmdTelcfgReadTelemetry (hc 1 2 0 1 0 0)) ∧ Accepted (st telDev) (.cmdTelcfgReadEvents (hc 1 3 0 1 0 0)) ∧
      Accepted (st telDev) (.cmdTelcfgReadEvents (hc 1 1 0 65 0 0)) ∧
      evQ 1 = 6 ∧ tnQ 1 = 7 ∧ qOk (queue telDev 6) = true ∧ qOk (queue telDev 7) = true ∧ qOk (queue telDev 5) = true) := by
  refine ⟨⟨acc_of ?_, ?_⟩, acc_of ?_, acc_of ?_, ⟨acc_of ?_, ?_⟩, acc_of ?_, acc_of ?_, acc_of ?_, acc_of ?_, acc_of ?_, ?_⟩ <;> decide +kernel

def memCmds : List Instr :=
  [Instr.cmdRead (hc 1 0 0 4 0 0), .cmdRead (hc 1 0 0 (2 ^ 32) 0 0), .cmdRead (hc 1 0 0 2 0 0), .cmdRead (hc 1 0x800000000000 0 4 0 0),
      .cmdWrite (hc 1 4 4 4 0 0), .cmdFill (hc 1 0 0 8 0 0), .cmdFill (hc 1 0 0 12 0 0), .cmdMap (hc 1 1 0 1 0 0), .cmdMap (hc 1 0 0 1 0 0),
      .cmdMap (hc 1 0 60 1 0 0), .cmdUnmap (hc 1 0 0 0 0 0), .cmdProtect (hc 1 0 0 1 0 0), .cmdProtect (hc 1 0x10000000 0 1 0 0),
      .cmdAssign (hc 0 1 0 0 0 0), .cmdAssign (hc 0 1 0x10000 1 0 0), .cmdAssign (hc 0 1 0 1 0 0), .cmdReclaim (hc 0 1 0 1 0 0),
      .cmdReclaim (hc 0 1 0x10000 1 0 0)]
theorem witness_MemoryCommands :
    (∀ i, i ∈ memCmds → Accepted (st hd) i) ∧
    (slotAt 1 = none ∧ slotAt 0 = some (2, 0) ∧ slotAt 0x10000000 = some (2, 1) ∧ mapBad hd 1 2 0 = none ∧ mapBad hd 1 2 60 = some 0x58 ∧
      (xentry hd 1 0).testBit 0 = true ∧ (xentry hd 1 1).testBit 0 = false) ∧
    (extsOf hd (hc 0 1 0 0 0 0) = none ∧ extsOf hd (hc 0 1 0x10000 1 0 0) = some [(false, 1)] ∧ extsOf hd (hc 0 1 0 1 0 0) = some [(false, 0)] ∧
      extState hd (false, 1) = 0 ∧ withdrawn hd 0 0 = false ∧ extState hd (false, 0) = 1 ∧ hd.waits = [] ∧ (gaunt hd 1).present = true ∧
      (gaunt hd 1).tearing = 0) ∧
    (reclaimBad hd 1 (hc 0 1 0 1 0 0) = none ∧ reclaimBad hd 1 (hc 0 1 0x10000 1 0 0) = some 0x58) := by
  refine ⟨acc_all ?_, ?_⟩ <;> decide +kernel

/-! ### Gauntlets and steps by command -/

/-- GCREATE of G2 and GSET of G1, in their ranges. -/
def gc (p0 : W64) : HostCmd :=
  { hc 0 p0 0 0x40000000000 (37 * 2 ^ 20) 0x01010001 with p5 := 0x808 }
def sdH (k : Step) : Dev := { hd with steps := [(7, k)], nextStep := 8, gaunts := [(0, pg 0), (1, { pg 1 with adm := 1, queues := [(0, [7])] })] }
def queued : Step := { step0 prog0 with st := .queued }
def fullQ : Dev := hg { pg 1 with queues := [(0, List.replicate 1024 0)] }

theorem witness_GauntletCommands :
    (Accepted (st hd) (.cmdGcreate (gc 2)) ∧ gcreateOk (gc 2) = true ∧ gcreateBad hd (gc 2) = none ∧ gcreateOk (gc 16) = false ∧
      gcreateOk (gc 15) = true ∧ gcreateBad hd (gc 1) = some 0x5A) ∧
    (Accepted (st hd) (.cmdGset (hc 0 1 1 5 0 0)) ∧ gsetOk hd (hc 0 1 1 5 0 0) = true ∧ gsetOk hd (hc 0 1 32 5 0 0) = false ∧
      gsetOk hd (hc 0 3 1 5 0 0) = true ∧ (gaunt hd 3).present = false ∧
      (gsetOk (sdH (step0 prog0)) (hc 0 1 16 0 0x40000000000 (73 * 2 ^ 20)) = true ∧ liveSteps (sdH (step0 prog0)) 1 ≠ [] ∧ liveSteps hd 1 = [])) ∧
    (Accepted (st hd) (.cmdGdestroy (hc 0 0 0 0 0 0)) ∧ Accepted (st hd) (.cmdGdestroy (hc 0 1 0 0 0 0)) ∧ tfind hd.ckpts 1 = none ∧
      (func hd 1).cur = none ∧ hd.waits = [] ∧ hd.bnds = []) ∧
    (Accepted (st hd) (.cmdClose (hc 1 0 0 0 0 0)) ∧ hd.waits = [] ∧ (∃ p, p ∈ liveSteps (sdH (step0 prog0)) 1 ∧
      p.2.adm.toNat ≤ (gaunt (sdH (step0 prog0)) 1).adm.toNat)) := by
  refine ⟨⟨acc_of ?_, ?_⟩, ⟨acc_of ?_, ?_⟩, ⟨acc_of ?_, acc_of ?_, ?_⟩, acc_of ?_, ?_, ⟨(7, step0 prog0), ?_⟩⟩ <;> decide +kernel

theorem witness_GauntletCommands_queues : ∀ q, tget [] (gaunt hd 1).queues q = [] := fun _ => rfl

theorem witness_StepCommands :
    (Accepted (st hd) (.cmdSubmit (hc 1 0 0 0 0 0)) ∧ Accepted (st hd) (.cmdSubmit (hc 1 0 1 0 3 0)) ∧ Accepted (st fullQ) (.cmdSubmit (hc 1 0 1 0 0 0)) ∧
      (tget [] (gaunt hd 1).queues 3).length < 1024 ∧ 1024 ≤ (tget [] (gaunt fullQ 1).queues 0).length ∧ fullQ.bnds = []) ∧
    (Accepted (st (sdH (step0 prog0))) (.cmdCancel (hc 1 1 0 0 0 0)) ∧ Accepted (st (sdH queued)) (.cmdCancel (hc 1 0 0 0 0 0)) ∧
      (sdH queued).waits = [] ∧ (sdH queued).bnds = [] ∧ tfind (sdH queued).ckpts 1 = none ∧
      (∀ p, p ∈ (sdH (step0 prog0)).steps.filter (fun p => p.2.g == 1 && (p.2.adm == 1)) →
        p.2.st = .admitted ∧ tfind (sdH (step0 prog0)).steps p.1 = some p.2) ∧
      (sdH queued).steps.filter (fun p => p.2.g == 1 && (p.2.fn == 1 && p.2.tag.toNat == 0)) = [(7, queued)] ∧
      tfind (sdH queued).steps 7 = some queued ∧ queued.st = .queued) ∧
    (Accepted (st hd) (.cmdPreempt (hc 0 3 0 0 0 0)) ∧ Accepted (st hd) (.cmdPreemptForce (hc 0 1 0 1 0 0)) ∧ (gaunt hd 3).present = false) := by
  refine ⟨⟨acc_of ?_, acc_of ?_, acc_of ?_, ?_⟩, ⟨acc_of ?_, acc_of ?_, ?_⟩, acc_of ?_, acc_of ?_, ?_⟩ <;> decide +kernel

/-! ### Keys, fabric, engines and the system by command -/

/-- G1 owns stacked extents 0 (mapped at VA 0) and 1; `x` says what its pool has. -/
def kg (x : Gaunt) (r : KvRoot) : Dev :=
  { hg x with sown := [(0, 0x11), (1, 0x11)], kv := [(0, r)], mem := kvMem }
def pool1 : Gaunt := { pg 1 with poolS := [1] }
/-- Page 3 of table 0 stands in LPDDR5X. -/
def kgLow (x : Gaunt) : Dev := { kg x (kvr [] []) with mem := kvMem.map fun p => if p.1 = 0x1000018 then (p.1, 0xD) else p }
def kvRuns : Option (Nat × Dev) := allocRun (kg pool1 (kvr [] [])) 1 1
def kvRuns2 : Option (Nat × Dev) := kvRuns.bind fun a => allocRun a.2 1 1
def kvFrames : Option (List Nat × Dev) := allocS (kgLow pool1) 1 1

theorem witness_KvCommands_pool :
    (∀ i, i ∈ [Instr.cmdKvpoolAdd (hc 1 0 4096 0 0 0), .cmdKvpoolAdd (hc 1 0 1 0 0 0), .cmdKvpoolAdd (hc 1 0 0 0 0 0), .cmdKvpoolRemove (hc 1 1 1 0 0 0)] →
      Accepted (st (kg (pg 1) (kvr [] []))) i ∧ Accepted (st (kg pool1 (kvr [] []))) i) ∧
    (frameExts 4096 = [] ∧ frameExts 1 = [(false, 1), (true, 1)]) ∧
    (let d := kg (pg 1) (kvr [] [])
     let own (f : Nat) := (frameExts f).filter fun e => extState d e == 1 && extOwner d e == 1
     (own 1).find? (fun e => !inPool d 1 e && !extMapped d 1 e) = some (false, 1) ∧ (own 0).find? (fun e => !inPool d 1 e && !extMapped d 1 e) = none) ∧
    (let d := kg pool1 (kvr [] [])
     ((frameExts 1).filter fun e => extState d e == 1 && extOwner d e == 1).find? (inPool d 1) = some (false, 1) ∧ poolBusy d 1 (false, 1) = false) ∧
    poolBusy (kg { pool1 with framesS := [4096] } (kvr [] [])) 1 (false, 1) = true := by
  refine ⟨fun i hi => ⟨acc_all ?_ i hi, acc_all ?_ i hi⟩, ?_⟩ <;> decide +kernel

theorem witness_KvCommands_tables :
    (Accepted (st (kg pool1 (kvr [] []))) (.cmdKvcreate (hc 1 (2 ^ 30) 0 0 0 0)) ∧ 2 ^ 14 ≤ fld (2 ^ 30 : W64).toNat 31 16) ∧
    (Accepted (st (kg pool1 (kvr [] []))) (.cmdKvcreate (hc 1 0 0 0 0 0)) ∧ kvcreateOk (hc 1 0 0 0 0 0) = false) ∧
    (Accepted (st (kg pool1 (kvr [] []))) (.cmdKvcreate (hc 1 (2 ^ 32 + 2 ^ 24) 0 0 0 0)) ∧ kvcreateOk (hc 1 (2 ^ 32 + 2 ^ 24) 0 0 0 0) = true ∧
      fld (2 ^ 32 + 2 ^ 24 : W64).toNat 31 16 < 2 ^ 14 ∧ ((List.range 1024).find? fun k => (tfind (kg pool1 (kvr [] [])).kv k).isNone) = some 1 ∧
      kvRuns.isSome = true ∧ kvRuns2.isSome = true) ∧
    (Accepted (st (kg pool1 (kvr [] []))) (.cmdKvdestroy (hc 1 0 0 0 0 0)) ∧ ownTable (kg pool1 (kvr [] [])) 1 1 = false ∧
      ownTable (kg pool1 (kvr [] [])) 1 0 = true ∧ (kvr [] []).live + (kvr [] []).livePrev = 0 ∧
      ownTable (kg pool1 { kvr [] [] with live := 1 }) 1 0 = true ∧ (kg pool1 (kvr [] [])).waits = []) := by
  refine ⟨⟨acc_of ?_, ?_⟩, ⟨acc_of ?_, ?_⟩, ⟨acc_of ?_, ?_⟩, acc_of ?_, ?_⟩ <;> decide +kernel

theorem witness_KvCommands_edits :
    (∀ i, i ∈ [Instr.cmdKveditTruncate (hc 1 0 0 257 0 0), .cmdKveditTruncate (hc 1 0 0 256 0 0), .cmdKveditPin (hc 1 0 1 3 0 0), .cmdKveditUnpin (hc 1 0 2 4 0 0),
      .cmdKveditBringBack (hc 1 0 3 3 0 0), .cmdKveditPin (hc 1 1 1 3 0 0)] → Accepted (st (kgLow pool1)) i ∧ Accepted (st (kgLow (pg 1))) i) ∧
    (ownTable (kgLow pool1) 1 0 = true ∧ ownTable (kgLow pool1) 1 1 = false ∧ (kvr [] []).len.toNat = 256 ∧ kvEntries (kvr [] []) = 4) ∧
    ((kvEntry (kg pool1 (kvr [] [])) (kvr [] []) 0 3).testBit 0 = true ∧ fld (kvEntry (kg pool1 (kvr [] [])) (kvr [] []) 0 3) 4 2 ≠ 3 ∧
      (kvEntry (kgLow pool1) (kvr [] []) 0 3).testBit 0 = true ∧ fld (kvEntry (kgLow pool1) (kvr [] []) 0 3) 4 2 = 3) ∧
    (kvFrames.map fun a => a.1) = some [4096] ∧ (allocS (kgLow (pg 1)) 1 1).isNone = true := by
  refine ⟨fun i hi => ⟨acc_all ?_ i hi, acc_all ?_ i hi⟩, ?_⟩ <;> decide +kernel

/-- Memory of G1's VA 0 with some words, read and written; a step holds its first 64 KiB. -/
def hm (m : List (Nat × Byte)) : Dev := { hd with mem := m }
def heldDev : Dev := sdH (step0 { prog0 with access := [(0, 1, true)] })

theorem witness_FabricCommands_first :
    (Accepted (st hd) (.cmdFabcfg (hc 0 0 64 0 0 0)) ∧ hd.ident.up = true ∧ (hd.fab.isSome = false)) ∧
    (Accepted (st { hd with ident := { hd.ident with up := false } }) (.cmdFabcfg (hc 0 0 64 0 0 0))) ∧
    (Accepted (st hd) (.cmdFtagbind (hc 0 1 5 0 0 0)) ∧ (gaunt hd 3).present = false ∧ (gaunt hd 1).present = true ∧ (gaunt hd 1).tearing = 0 ∧
      (∀ o, o ∈ allG hd → (gaunt hd o).ftag ≠ 5) ∧
      (∃ o, o ∈ allG (hg { pg 1 with ftag := 5 }) ∧ o ≠ 0 ∧ (gaunt (hg { pg 1 with ftag := 5 }) o).ftag = 5)) ∧
    (Accepted (st hd) (.cmdPeerset (hc 1 64 0 1 0 0)) ∧ Accepted (st hd) (.cmdPeerset (hc 1 63 0 1 0 0)) ∧
      Accepted (st hd) (.cmdPeerset (hc 1 63 0x10000000 1 0 0)) ∧ memFree heldDev 1 0 4 = false ∧ memFree hd 1 0 4 = true ∧
      (vaGet hd 1 0 4).toOption.map (·.1) = some [0, 0, 0, 0] ∧
      (vaGet (hm [(stackBase + 1, 0x20)]) 1 0 4).toOption.map (·.1) = some [0, 0x20, 0, 0] ∧ okB (vaGet hd 1 0x10000000 4) = false) := by
  refine ⟨⟨acc_of ?_, ?_⟩, acc_of ?_, ⟨acc_of ?_, ?_, ?_, ?_, ?_, ⟨1, ?_⟩⟩, acc_of ?_, acc_of ?_, acc_of ?_, ?_⟩ <;> decide +kernel

/-- G1 has group 2; an RGCREATE of another group; a member list of this module alone, or with module 5 of node 1. -/
def rg0 : RGroup := { members := [0], work := 0, limit := 1, tcnt := 0, joins := [], early := [] }
def rgd (m : List (Nat × Byte)) : Dev := { hg { pg 1 with groups := [(2, rg0)] } with mem := m }
def two : List (Nat × Byte) := [(stackBase + 4, 5), (stackBase + 5, 0x10)]
def progG : Prog := { prog0 with group := some 2 }
def words (m : List (Nat × Byte)) (n : Nat) : List Nat :=
  match vaGet (rgd m) 1 0 (4 * n) with
  | .ok (b, _) => (List.range n).map fun i => w32At b (4 * i)
  | .error _ => []

theorem witness_FabricCommands_groups :
    (∀ i, i ∈ [Instr.cmdRgcreate (hc 1 2 0 1 0 1), .cmdRgcreate (hc 1 1 0 0 0 1), .cmdRgcreate (hc 1 1 0 1 0 1), .cmdRgcreate (hc 1 1 0 2 0 1),
      .cmdRgdestroy (hc 1 1 0 0 0 0), .cmdRgdestroy (hc 1 2 0 0 0 0)] → Accepted (st (rgd [])) i ∧ Accepted (st (rgd two)) i) ∧
    ((tfind (gaunt (rgd []) 1).groups 2).isSome = true ∧ tfind (gaunt (rgd []) 1).groups 1 = none ∧ (0 : Nat) + 1 * 196608 ≤ 2 ^ 36 ∧
      memFree heldDev 1 0 8 = false ∧ memFree (rgd []) 1 0 8 = true) ∧
    (words [] 1 = [0] ∧ memListOk (rgd []) [0] = true ∧ words [] 2 = [0, 0] ∧ memListOk (rgd []) [0, 0] = false ∧
      words two 2 = [0, 0x1005] ∧ memListOk (rgd two) [0, 0x1005] = true ∧ fld 0x1005 11 0 ≠ myMid (rgd two) ∧ fld 0 11 0 = myMid (rgd two)) ∧
    (okB (vaGet (rgd []) 1 0 4) = true ∧ okB (vaGet (rgd two) 1 0 8) = true ∧ okB (transRange (rgd two) 1 0 196608 true) = true ∧
      rgWait (rgd two) 1 1 = none ∧ (gaunt (rgd two) 1).earlyJ = []) ∧
    ((∃ p, p ∈ liveSteps (sdH (step0 progG)) 1 ∧ (progOf p.2).group = some 2) ∧ liveSteps (rgd []) 1 = []) := by
  refine ⟨fun i hi => ⟨acc_all ?_ i hi, acc_all ?_ i hi⟩, ?_, ?_, ?_, ⟨⟨(7, step0 progG), ?_⟩, ?_⟩⟩ <;> decide +kernel

/-- A step with a text output by table 0. -/
def ingStep : Step := step0 { prog0 with ingests := [rec' 512 [(0x80, 1, 3)]] }
def vd (l : List (Nat × Nat)) : Dev :=
  { qd 128 { mkQueue 3 1 5 5 0 true 0 with esz := 5 } with mem := l.map fun p => (stackBase + p.1, BitVec.ofNat 8 p.2) }
def sess1 (b : Bool) : Dev := { hd with sess := [(0, { VSess.reset with isOpen := true, g := 1, busy := b })] }
/-- A session descriptor with one frame buffer, its descriptor at VA `a`. -/
def vdesc (a : Nat) : Dev := vd [(3, 1), (9, a / 256), (0x122, 1)]
def poolOf (d : Dev) (va : Nat) : List Bytes :=
  match vaGet d 1 va 64 with
  | .ok (b, _) => [b]
  | .error _ => []
def allOpen : Dev := { vdesc 256 with sess := (List.range 64).map fun n => (n, { VSess.reset with isOpen := true }) }
def descOf (d : Dev) : Bytes :=
  match vaGet d 1 0 128 with
  | .ok (b, _) => b
  | .error _ => []

theorem witness_EngineCommands :
    (∀ i, i ∈ [Instr.cmdTokload (hc 1 0 0 1283 0 0), .cmdTokload (hc 1 0 0 1284 0 0), .cmdTokload (hc 1 3 0 1300 0 0), .cmdVsopen (hc 1 0 0 0 0 0),
      .cmdVsclose (hc 1 0 0 0 0 0), .cmdVsclose (hc 1 80 0 0 0 0)] → Accepted (st hd) i ∧ Accepted (st (vdesc 0)) i ∧ Accepted (st (vdesc 256)) i ∧
      Accepted (st allOpen) i ∧ Accepted (st (sess1 true)) i ∧ Accepted (st (sess1 false)) i) ∧
    (domOn hd 105 = true ∧ (List.range 2).all (fun i => domOn (vdesc 0) (102 + i) && domOn (vdesc 256) (102 + i) && domOn allOpen (102 + i)) = true) ∧
    (tokUsed (sdH ingStep) 1 0 = true ∧ tokUsed hd 1 0 = false ∧ memFree heldDev 1 0 1284 = false ∧ memFree hd 1 0 1284 = true ∧ okB (vaGet hd 1 0 1300) = true ∧
      vocabOk (List.replicate 1300 0) = false ∧ (gaunt hd 1).msram.toNat * 2 ^ 22 < mediaTaken hd 1 0 + 1284 ∧
      mediaTaken (hg { pg 1 with msram := 1 }) 1 0 + 1284 ≤ (gaunt (hg { pg 1 with msram := 1 }) 1).msram.toNat * 2 ^ 22) ∧
    (memFree heldDev 1 0 128 = false ∧ vidDescOk hd 1 (descOf hd) = false ∧ vidDescOk (vdesc 0) 1 (descOf (vdesc 0)) = true ∧
      vidDescOk (vdesc 256) 1 (descOf (vdesc 256)) = true ∧ w64At (descOf (vdesc 256)) 8 = 256 ∧ leAt (descOf (vdesc 256)) 3 1 = 1 ∧
      (poolOf (vdesc 0) 0).all frameBufOk = false ∧ (poolOf (vdesc 256) 256).all frameBufOk = true ∧ freeSess (vdesc 256) false = some 0 ∧
      freeSess allOpen false = none) ∧
    ((sessOf (sess1 true) 0).isOpen = true ∧ (sessOf (sess1 true) 0).g = 1 ∧ (sessOf (sess1 true) 0).closing = false ∧
      (sessOf (sess1 true) 0).busy = true ∧ (sessOf (sess1 false) 0).busy = false ∧ (sess1 false).waits = []) := by
  refine ⟨fun i hi => ⟨acc_all ?_ i hi, acc_all ?_ i hi, acc_all ?_ i hi, acc_all ?_ i hi, acc_all ?_ i hi, acc_all ?_ i hi⟩, ?_⟩ <;> decide +kernel

def zeros : Bytes := List.replicate 1284 0

theorem leAt_zeros (n i k : Nat) : leAt (List.replicate n 0) i k = 0 := by
  have h : ∀ m, leNat (List.replicate m (0 : Byte)) = 0 := by
    intro m
    induction m with
    | zero => rfl
    | succ m ih => rw [List.replicate_succ, leNat, ih]; rfl
  unfold leAt
  rw [List.drop_replicate, List.take_replicate, h]

/-- A tokeniser table of zeros is sound. -/
theorem witness_EngineCommands_table : (vaGet hd 1 0 1284).toOption.map (·.1) = some zeros ∧ vocabOk zeros = true := by
  refine ⟨by decide +kernel, ?_⟩
  have hl : zeros.length = 1284 := List.length_replicate
  simp only [vocabOk, tokMerges, w32At, hl, show ∀ i k, leAt zeros i k = 0 from leAt_zeros 1284]
  decide +kernel

def lcDev (s : BitVec 3) (due : Bool) : Dev :=
  { hd with pst := { Persist.reset with lcstate := s }, ident := { hd.ident with resetDue := due } }
theorem witness_SystemCommands :
    (∀ i, i ∈ [Instr.cmdPwrset (hc 0 0 (2 ^ 24) 2 0 0), .cmdPwrset (hc 0 1 0 2 0 0), .cmdFwstageCheck (hc 0 0 (2 ^ 25 + 1) 0 0 0),
      .cmdFwstageWrite (hc 0 0 64 1 0 0), .cmdSecmsg (hc 1 0 4097 0 0 0), .cmdSecmsg (hc 1 0 64 0 0 0)] → Accepted (st hd) i ∧
      Accepted (st { hd with sup := { hd.sup with brace := true } }) i ∧ Accepted (st { hd with ident := { hd.ident with up := false } }) i) ∧
    ((∃ n, n ∈ pwrDoms (hc 0 0 (2 ^ 24) 2 0 0) ∧ modeOk n 2 = false) ∧ pwrDoms (hc 0 1 0 2 0 0) = [0] ∧ modeOk 0 2 = true ∧ hd.sup.brace = false) ∧
    (Refused (st (lcDev 4 false)) (.cmdLifecycle (hc 0 4 0 0 0 0)) 0x61 (hc 0 4 0 0 0 0) 0x70 ∧
      Refused (st hd) (.cmdLifecycle (hc 1 4 0 0 0 0)) 0x61 (hc 1 4 0 0 0 0) 0x59 ∧
      (Accepted (st (lcDev 2 true)) (.cmdLifecycle (hc 0 4 0 0 0 0)) ∧ (lcDev 2 true).ident.resetDue = true) ∧
      (Accepted (st (lcDev 2 false)) (.cmdLifecycle (hc 0 1 0 0 0 0)) ∧ lcMove 2 1 0 = none) ∧
      (Accepted (st (lcDev 2 false)) (.cmdLifecycle (hc 0 4 0 1 0 0)) ∧ Accepted (st (lcDev 2 false)) (.cmdLifecycle (hc 0 4 0 0 0 0)) ∧
        lcMove 2 4 0 = some false ∧ (lcDev 2 false).ident.resetDue = false ∧ (lcDev 2 false).pst.lcPend = none) ∧
      (Accepted (st (lcDev 0 false)) (.cmdLifecycle (hc 0 1 0 2484 0 0)) ∧ lcMove 0 1 0 = some true)) := by
  refine ⟨fun i hi => ⟨acc_all ?_ i hi, acc_all ?_ i hi, acc_all ?_ i hi⟩, ⟨⟨88, ?_⟩, ?_⟩, ref_of ?_, ref_of ?_, ⟨acc_of ?_, ?_⟩, ⟨acc_of ?_, ?_⟩,
    ⟨acc_of ?_, acc_of ?_, ?_⟩, acc_of ?_, ?_⟩ <;> decide +kernel

/-! ### Checkpoints, crew blocks, memory errors, wipes -/

def ck (restore : Bool) (phase shard : Nat) : Ckpt :=
  { cmd := hc 1 0 0x1000000 0 0 0, restore := restore, phase := phase, stroke := 0, shard := shard, off := 0, copied := 0, ranges := [], blks := [] }
/-- Words of memory at a VA of G1, from the number of the bytes given. -/
def at' (va : Nat) (bs : List (Nat × Nat)) : List (Nat × Byte) := bs.map fun p => (stackBase + va + p.1, BitVec.ofNat 8 p.2)
/-- An area of 16 MiB at VA 16 MiB, of one shard of 8 MiB at VA 0. -/
def ckMem : List (Nat × Byte) :=
  at' 0x1000000 [(0, 0x43), (1, 0x4B), (2, 0x50), (3, 0x54), (4, 0x42), (0xC, 1), (0xC5, 1), (0x100A, 0x80), (0x101A, 1)]
def ckd (c : Ckpt) : Dev := { hd with mem := ckMem, ckpts := [(1, c)] }
/-- That area, as each of the states shows it. -/
def ckA (c : Ckpt) : CkArea :=
  { va := 0x1000000, hdr := okV [] (vaRead (ckd c) 1 0x1000000 4096), man := okV [] (vaRead (ckd c) 1 0x1001000 64) }

theorem ckArea_of {c : Ckpt} (h : (okB (vaRead (ckd c) 1 0x1000000 4096) && decide (w32At (ckA c).hdr 0xC = 1) &&
    okB (vaRead (ckd c) 1 0x1001000 64)) = true) : ckArea (ckd c) 1 0x1000000 = some (ckA c) := by
  simp only [Bool.and_eq_true, decide_eq_true_eq] at h
  obtain ⟨⟨a, b⟩, e⟩ := h
  have b' : w32At (okV [] (vaRead (ckd c) 1 0x1000000 4096)) 0xC = 1 := b
  unfold ckArea
  rw [ok_eq [] a]
  simp only [b']
  rw [ok_eq [] e]
  rfl

theorem witness_CheckpointRows :
    (∀ i, i ∈ [Instr.cmdCheckpointDrain (hc 1 0 0 0 0 0), .cmdCheckpointSuspend (hc 1 1 0 0 0 0), .cmdRestore (hc 1 0 0 0 0 0)] →
      Accepted (st hd) i ∧ Accepted (st (ckd (ck false 0 0))) i) ∧
    (tfind hd.ckpts 1 = none ∧ hd.steps = [] ∧ ∀ c, tfind (ckd c).ckpts 1 = some c ∧ (ckd c).wlog = []) ∧
    (ckArea (ckd (ck false 1 0)) 1 0x1000000 = some (ckA (ck false 1 0)) ∧ ckShards (ckA (ck false 1 0)) = 1 ∧
      ckBytes (ckA (ck false 1 0)) 0 = 0x800000 ∧ min ckItem 0x800000 = 0x400000 ∧
      okB (ckCopy (ckd (ck false 1 0)) 1 (ckSrc (ckA (ck false 1 0)) 0) ((ckA (ck false 1 0)).va + ckCopyOff (ckA (ck false 1 0)) 0) 0x400000) = true) ∧
    (ckArea (ckd (ck false 1 1)) 1 0x1000000 = some (ckA (ck false 1 1)) ∧ ckShards (ckA (ck false 1 1)) ≤ 1 ∧
      (rsSections (ckd (ck false 1 1)) 1 (ckA (ck false 1 1))).isSome = true) ∧
    (ckArea (ckd (ck true 0 0)) 1 0x1000000 = some (ckA (ck true 0 0)) ∧ rsAreaOk (ckA (ck true 0 0)) = true ∧
      ckFormOk (ckd (ck true 0 0)) 1 (ckA (ck true 0 0)) = true ∧ (rsSections (ckd (ck true 0 0)) 1 (ckA (ck true 0 0))).isSome = true) ∧
    (ckArea (ckd (ck true 1 0)) 1 0x1000000 = some (ckA (ck true 1 0)) ∧ ckBytes (ckA (ck true 1 0)) 0 = 0x800000) ∧
    (ckArea (ckd (ck true 2 0)) 1 0x1000000 = some (ckA (ck true 2 0)) ∧ ckBytes (ckA (ck true 2 0)) 0 = 0x800000 ∧
      okB (ckCopy (ckd (ck true 2 0)) 1 ((ckA (ck true 2 0)).va + ckCopyOff (ckA (ck true 2 0)) 0) (ckSrc (ckA (ck true 2 0)) 0) 0x400000) = true) := by
  refine ⟨fun i hi => ⟨acc_all ?_ i hi, acc_all ?_ i hi⟩, ⟨?_, ?_, fun c => ⟨rfl, rfl⟩⟩, ⟨ckArea_of ?_, ?_⟩, ⟨ckArea_of ?_, ?_⟩, ⟨ckArea_of ?_, ?_⟩,
    ⟨ckArea_of ?_, ?_⟩, ckArea_of ?_, ?_⟩ <;> decide +kernel

/-- Crew 0 with its seats out of use, being saved into slot 0 of G1 or restored. -/
def crewDev (va : W64) (c : Cox) (sv : Tbl (Nat × Option Nat)) : Dev :=
  { hg { pg 1 with saveva := va } with
    coxes := [(0, c)], saves := sv, seats := (List.range 9).map fun i => (i, { Seat.reset i with logical := 15 }) }
def svC : Cox := { Cox.reset with saving := true }
def rsC : Cox := { Cox.reset with restoring := true }
def saved0 : Saved := { crew := 0, stroke := 0, cox := { Cox.reset with slots := [(0, 7)] }, seats := [], steps := [] }
def backDev : Dev := { crewDev 0 rsC [(64, (0, some 3))] with blocks := [(3, saved0)], steps := [(7, step0 prog0)] }

theorem witness_CrewBlocksMove :
    ((coxOf hd 0).saving = false ∧ (coxOf (crewDev 0 svC []) 0).saving = true ∧ savingSlot (crewDev 0 svC []) 0 = none ∧
      savingSlot (crewDev 0 svC [(64, (0, none))]) 0 = some 64 ∧ (crewDev 0 svC [(64, (0, none))]).wlog = [] ∧
      okB (writeAll (crewDev 0 svC [(64, (0, none))]) 1 (saveWrites (crewDev 0 svC [(64, (0, none))]) 1 0 0 0 0)) = true ∧
      okB (writeAll (crewDev 0x10000000 svC [(64, (0, none))]) 1 (saveWrites (crewDev 0x10000000 svC [(64, (0, none))]) 1 0 0 0 0)) = false) ∧
    ([].all CtxAt.wf = true ∧ [c0].all CtxAt.wf = true) ∧ (coxOf (crewDev 0 rsC []) 0).restoring = true ∧
    (seatOf { hd with seats := [(8, { Seat.reset 8 with wiping := true })] } 8).wiping = true ∧
    (∀ i, i < 9 → (seatOf backDev i).wiping = false) ∧ (backDev.saves.findSome? fun p => match p.2.2 with
      | some n => match tfind backDev.blocks n with
        | some b => if b.crew = 0 ∧ b.cox.slots.any (fun q => (tfind backDev.steps q.2).any fun st => st.st == .admitted) then some (p.1, b) else none
        | none => none
      | none => none) = some (64, saved0) ∧ (∀ q, q ∈ saved0.cox.slots → (tfind backDev.steps q.2).isSome = true) := by
  decide +kernel

def accD : Dev := sdH (step0 prog0)
def ueAt (u : W16) : ErrSite := { tier := 2, addr := 0, unitCode := u, va := 0 }
def ueCur : Cur := { op := 8, cmd := hc 1 0 0 64 0 0, off := 32, tries := 0, started := true }

theorem witness_MemoryAccessAndErrors :
    (findStep hd n1 = none ∧ findStep accD n1 = some 7 ∧ canRun accD 7 = true ∧ accD.wlog = [] ∧
      canRun (sdH { step0 prog0 with failing := some (6, false) }) 7 = false ∧ okB (vaWrite accD 1 0 [1]) = true ∧ okB (vaGet accD 1 0 4) = true ∧
      okB (vaWrite accD 1 0x10000000 [1]) = false ∧ okB (vaGet accD 1 0x10000000 4) = false) ∧
    (ueOwner hd (ueAt 0x5008) = some 1 ∧ (func (hf { fx with cur := some ueCur }) 1).cur = some ueCur ∧ ueCur.cmd.fn.toNat = 1 ∧
      tfind (ckd (ck false 1 0)).ckpts 1 = some (ck false 1 0) ∧ (ck false 1 0).cmd.fn.toNat = 1) ∧
    ((ueAt 0x1000).unitCode.toNat / 4096 = 1 ∧ (step0 prog0).st ≠ .ended ∧ tfind accD.steps 7 = some (step0 prog0)) ∧
    (ErrSite.tier ⟨2, 0x401, 0x3000, 0⟩ = 2 ∧ ErrSite.tier ⟨3, 0, 0x4000, 0⟩ = 3 ∧ hd.pst.repairs.length < 65536) := by
  decide +kernel

/-- G1's teardown waits for extent 5, whose wipe runs. -/
def tearDev : Dev := { hg { pg 1 with tearing := 2, wipes := [(0, 5)] } with wipeExt := [5] }
theorem witness_WipesEnd :
    (∀ x : WipeTarget, x ∈ [WipeTarget.seat u0, .cache 63, .extent 3 59, .media] → x.wf = true) ∧ hd.waits = [] ∧
    ((domOf { hd with doms := [(63, { Dom.reset with state := 3 })] } 63).state = 3 ∧ 63 ∈ wipeDom (.cache 63) ∧
      ∀ x : WipeTarget, x ∈ [WipeTarget.seat u0, .cache 63, .extent 3 59, .media] → ∀ n, n ∈ wipeDom x → (domOf hd n).state ≠ 3) ∧
    ((gaunt tearDev 1).tearing = 2 ∧ wipeOn tearDev (0, 5) = true ∧ wipeOn hd (0, 5) = false) ∧
    (extState hd (true, 0) ≠ 2 ∧ extState { hd with lown := [(0, 0x20)] } (true, 0) = 2 ∧ ∀ g, g < 16 → (gaunt hd g).tearing ≠ 2) := by
  decide +kernel

/-! ### Ingest and video -/

/-- One batch of one sample at VA 0x1000, with one output of kind 4 (integers) of tag 5; shard table at VA 0. -/
def ingB : Bytes := rec' 512 [(8, 4, 1), (0xC, 2, 1), (0xE, 2, 1), (0x18, 8, 0x1000), (0x2C, 4, 0x100), (0x80, 1, 4), (0x82, 2, 5), (0x88, 2, 2)]
def stepI (r : IngRun) : Step := { step0 { prog0 with ingests := [ingB] } with ings := [(0, r)] }
def ir (p : Tbl (Nat × Nat)) (rc : Tbl (Nat × Nat × Nat)) (f : Tbl FinalSlot) (b : List Nat) : IngRun :=
  { first := 0, parse := p, recs := rc, finals := f, batches := b, complete := false }
def fin0 : FinalSlot := { flags := 1, reason := 0, outv := 1, action := 0, off := 0, ftag := 0, out := 255 }
/-- A record header of index 0 and no body at VA 0x2000, under its CRC; shard 0 is that record. -/
def recHdr : Bytes := rec' 20 [(0, 2, 0xC1E5)]
def ingMem : List (Nat × Byte) :=
  at' 0 [(1, 0x20), (8, 24), (0x10, 1), (0x14, 1)] ++ (recHdr ++ leBytes 4 (crc32c recHdr)).zipIdx.map fun p => (stackBase + 0x2000 + p.2, p.1)
def ingDev (r : IngRun) (x : Tbl DecCtx) : Dev := { sdH (stepI r) with mem := ingMem, decs := x }
def noRun : IngRun := ir [(0, (0, 0))] [] [] []

theorem witness_IngestParsesAndCompletes :
    ((decOf (ingDev noRun []) 63).busy = false ∧ (decOf (ingDev noRun [(63, { DecCtx.reset with busy := true })]) 63).busy = true ∧
      (∀ i, i < 16 → unstarted hd ((hd.decTurn.toNat + 1 + i) % 16) = []) ∧ hd.pst.repairs = [] ∧
      (∀ j, j < 1 → unstarted (ingDev noRun []) (((ingDev noRun []).decTurn.toNat + 1 + j) % 16) = []) ∧
      lowest (unstarted (ingDev noRun []) (((ingDev noRun []).decTurn.toNat + 1 + 1) % 16)) = some (0, 7, 0, 0)) ∧
    (liveStep hd n1 = none ∧ liveStep (ingDev noRun []) n1 = some (7, stepI noRun) ∧ tfind (stepI noRun).ings 1 = none ∧
      tfind (stepI noRun).ings 0 = some noRun ∧ (0 : W32).toNat < w32At ingB 8 ∧ tfind noRun.parse 0 = some (0, 0)) ∧
    (∃ se, shardEntry (ingDev noRun []) 1 ingB 0 = .ok se ∧ 0 < w32At se 0x10 ∧ (w32At se 0x14).testBit 0 = true ∧ w64At se 0x18 = 0 ∧
      w64At se 0 = 0x2000 ∧ w64At se 8 = 24) ∧
    (∃ bs d1, vaGet (ingDev noRun []) 1 0x2000 24 = .ok (bs, d1) ∧ 24 + w32At bs 4 ≤ bs.length ∧ recSound (bs.take 24) = true ∧ leAt bs 2 1 = 0 ∧
      w32At bs 8 = 0) := by
  refine ⟨?_, ?_, ⟨_, ok_eq [] ?_, ?_⟩, ⟨_, _, ok_fst ([], hd) ?_ rfl, ?_⟩⟩ <;> decide +kernel

def fullRun (b : List Nat) : IngRun := ir [] [] [(0, fin0)] b
theorem witness_IngestParsesAndCompletes_batches :
    (liveStep (ingDev (fullRun []) []) n1 = some (7, stepI (fullRun [])) ∧ idNbatch ingB = 1 ∧ idNb ingB = 1 ∧
      (tfind (fullRun []).finals 0).isSome = true ∧ (ingDev (fullRun []) []).wlog = [] ∧ tfind noRun.finals 0 = none ∧
      okB (vaWrite (ingDev (fullRun []) []) 1 ((batchVa ingB 0 + w32At ingB 0x2C) % 2 ^ 64) (List.replicate 64 0)) = true) ∧
    (¬(∀ m, m < idNbatch ingB → m ∈ (fullRun []).batches) ∧ ∀ m, m < idNbatch ingB → m ∈ (fullRun [0]).batches) := by
  decide +kernel

/-- Context 0 holds the sample at item `n`; its record lies behind the header, with no field. -/
def smp (n : Nat) (pad : Bool) (seen : Nat) : DecCtx := { DecCtx.reset with busy := true, step := 7, g := 1, item := n, pad := pad, seen := seen }
def recRun : IngRun := ir [(0, (24, 1))] [(0, (24, 0, 0))] [] []
def smpDev (x : DecCtx) : Dev := ingDev recRun [(0, x)]
def outRes (d : Dev) : OutRes := okV (OutRes.padded 0 0) (outputOf d 1 (idOut ingB 0) [] 0 (sampleDraw d 1 ingB 0))

theorem witness_SamplesBecomeFinal :
    liveSample hd 0 = none ∧
    (∀ x, x ∈ [smp 0 false 0, smp 1 false 0, smp 2 false 0, smp 2 true 0, smp 1 false 5] →
      liveSample (smpDev x) 0 = some (x, stepI recRun, recRun) ∧ (smpDev x).wlog = []) ∧
    (overBudget (stepI recRun) (smp 0 false 0) = false ∧ overBudget (stepI recRun) (smp 1 false 5) = true ∧ idNout ingB = 1) ∧
    (locate (smpDev (smp 0 false 0)) 1 ingB 0 = .ok (0, 0) ∧ recordAt recRun 0 0 = some (24, 0, 0)) ∧
    (okIs [] ((sampleFields (smpDev (smp 1 false 0)) 1 ingB 0 24 0).map (·.1)) = true ∧
      okB (outputOf (smpDev (smp 1 false 0)) 1 (idOut ingB 0) [] 0 (sampleDraw (smpDev (smp 1 false 0)) 1 ingB 0)) = true ∧
      (outRes (smpDev (smp 1 false 0))).missing = true ∧ (outRes (smpDev (smp 1 false 0))).pad = false ∧
      okB (vaWrite (smpDev (smp 1 false 0)) 1 (slotVa ingB 0 0) (padBytes (idOut ingB 0))) = true) ∧
    (okB (padSlot 1 ingB 0 (List.range 1) (smpDev (smp 2 true 0))) = true ∧
      okB (vaWrite (smpDev (smp 2 false 0)) 1 0x1000 (sampleRecord (smp 2 false 0) 1)) = true ∧
      okB ((padSlot 1 ingB 0 (List.range 1) (smpDev (smp 2 true 0))).bind fun d => vaWrite d 1 0x1000 (sampleRecord (smp 2 true 0) 4)) = true) := by
  refine ⟨?_, ?_, ?_, ⟨ok_is ?_, ?_⟩, ?_⟩ <;> decide +kernel

/-- The same with an audio output of the tag of a field that is no audio. -/
def ingB2 : Bytes := rec' 512 [(8, 4, 1), (0xC, 2, 1), (0xE, 2, 1), (0x18, 8, 0x1000), (0x80, 1, 1), (0x82, 2, 5)]
def padRun : IngRun := ir [(0, (32, 1))] [(0, (24, 8, 0))] [] []
def padStep : Step := { step0 { prog0 with ingests := [ingB2] } with ings := [(0, padRun)] }
def padDev : Dev := { sdH padStep with mem := ingMem ++ [(stackBase + 0x2018, 5)], decs := [(0, smp 1 false 0)] }
theorem witness_SamplesBecomeFinal_pad :
    liveSample padDev 0 = some (smp 1 false 0, padStep, padRun) ∧ locate padDev 1 ingB2 0 = .ok (0, 0) ∧ recordAt padRun 0 0 = some (24, 8, 0) ∧
    okIs [(5, [])] ((sampleFields padDev 1 ingB2 0 24 8).map (·.1)) = true ∧
    okB (outputOf padDev 1 (idOut ingB2 0) [(5, [])] 0 (sampleDraw padDev 1 ingB2 0)) = true ∧
    (okV (OutRes.good [] 0) (outputOf padDev 1 (idOut ingB2 0) [(5, [])] 0 (sampleDraw padDev 1 ingB2 0))).pad = true := by
  refine ⟨?_, ok_is ?_, ?_⟩ <;> decide +kernel

/-- A decode session whose input of 16 bytes has ended, an encode session with a frame waiting; output queue 0. -/
def vsess (enc : Bool) : VSess :=
  { VSess.reset with isOpen := true, enc := enc, g := 1, pool := [rec' 64 [(0x18, 4, 64)]], ended := true, input := [(0, 16, 0)], encIn := [(true, 0, 0)] }
def codecDev (n : Nat) (enc : Bool) (p : Tbl Pipe) : Dev :=
  { qd 128 { mkQueue 3 1 5 5 0 true 0 with esz := 5 } with sess := [(n, vsess enc)], pipes := p }
def pipe0 (o : Option VideoOut) : Pipe := { Pipe.reset with busy := true, g := 1, sess := 0, out := o }
def frameOut : VideoOut :=
  { reason := 0, damage := 0, key := true, width := 1, height := 1, ten := false, cropX := 0, cropY := 0, dispW := 1, dispH := 1, rowLines := 1, dpb := 0
    poc := 0, disp := 0, refs := [], deliver := [], grain := false, used := 1, luma := [7], chroma := [] }

theorem pair_snd {α β : Type} {e : α × β} {b : β} (h : e.2 = b) : e = (e.1, b) := by rw [← h]

theorem witness_CodecPipes_start :
    (pipeWf 0 = true ∧ pipeWf 19 = true) ∧ (pipeOf hd 0).busy = false ∧ (pipeOf (codecDev 0 false [(0, pipe0 none)]) 0).busy = true ∧
    chooseSess (markReady hd) 0 = none ∧
    (chooseSess (markReady (codecDev 0 false [])) 0 = some 0 ∧ vsFree (sessOf (markReady (codecDev 0 false [])) 0) = some 0 ∧
      okB (inputBytes (markReady (codecDev 0 false [])) (sessOf (markReady (codecDev 0 false [])) 0)) = true) ∧
    (chooseSess (markReady (codecDev 64 true [])) 16 = some 64 ∧ vsFree (sessOf (markReady (codecDev 64 true [])) 64) = some 0 ∧
      (sessOf (markReady (codecDev 64 true [])) 64).encIn = (true, 0, 0) :: []) := by
  decide +kernel

def rowsDev (o : VideoOut) : Dev := codecDev 0 false [(0, pipe0 (some o))]
def rowsOf (o : VideoOut) : Dev × Bool :=
  putLines 0 (vsBuf (sessOf (rowsDev o) 0) 0) (o.width * vidSs o) o.luma o.chroma (min 1 o.height) 0 (rowsDev o)
def wide : VideoOut := { frameOut with width := 65, luma := List.replicate 65 7 }
def encPipe (r : Nat) : Pipe := { pipe0 none with sess := 64, row := r, enc := (true, 0) }
def encDev (h r : Nat) : Dev :=
  { codecDev 64 true [(16, encPipe r)] with sess := [(64, { vsess true with desc := rec' 128 [(0x2A, 2, h)] })] }

theorem witness_CodecPipes_rows :
    ((pipeOf (rowsDev frameOut) 0).out = some frameOut ∧ (pipeOf (rowsDev frameOut) 0).fenced = false ∧ 0 * frameOut.rowLines < frameOut.height ∧
      rowsOf frameOut = ((rowsOf frameOut).1, true) ∧ rowsOf wide = ((rowsOf wide).1, false) ∧
      frameOut.height ≤ 1 * frameOut.rowLines) ∧
    ((pipeOf (encDev 64 0) 16).out = none ∧ (pipeOf (encDev 64 0) 16).busy = true ∧ (sessOf (encDev 64 0) 64).isOpen = true ∧
      0 * 64 < leAt (sessOf (vidPull (encDev 64 0) 64) 64).desc 0x2A 2) ∧
    (let d := vidPull (encDev 0 0) 64
     let sx := sessOf d 64
     leAt sx.desc 0x2A 2 ≤ 0 * 64 ∧ okB (vaRead d 1 0 64) = true ∧ okB (encFrame d sx (List.replicate 64 0)) = true ∧ findQ d 1 (vsQueue sx 2) = some 128 ∧
      (queue d 128).enable = true ∧ qOk (queue d 128) = true ∧ occ (queue d 128) < 2 ^ (queue d 128).nlog.toNat) := by
  refine ⟨⟨?_, ?_, ?_, pair_snd ?_, pair_snd ?_, ?_⟩, ?_⟩ <;> decide +kernel

/-! ### Queues -/

/-- Queue 128 of G1, class `c`, 32 entries of 16 bytes in module storage or at VA 0, `n` of them waiting. -/
def qn (c n : Nat) (int : Bool) : Queue :=
  { mkQueue c 1 4 5 9 int 0 with wp := BitVec.ofNat 32 n, wpx := ~~~(BitVec.ofNat 32 n) }
def qs (q : Queue) : Dev := qd 128 q
def noCred (q : Queue) : Queue := { q with cred := { q.cred with avail := 0 } }

theorem witness_QueueRows_writes :
    (∀ c, c < 4 → (queue (qs (qn c 0 true)) 128).enable = true ∧ qOk (queue (qs (qn c 0 true)) 128) = true ∧ (queue (qs (qn c 0 true)) 128).int = true ∧
      (queue (qs (qn c 0 true)) 128).cls = BitVec.ofNat 2 c ∧ (queue (qs (qn c 0 true)) 128).cred.avail ≠ 0) ∧
    ((queue hd 128).enable = false ∧ (queue (qs (qn 2 0 true)) 128).dropping = false ∧
      (queue (qs { qn 2 0 true with dropping := true }) 128).dropping = true ∧ hd.sess = []) ∧
    ((queue (qs (noCred (qn 0 0 true))) 128).cred.avail = 0 ∧ 2 ^ 5 - occ (qn 0 30 true) = 2 ∧ 2 ^ 5 - occ (qn 0 31 true) = 1 ∧
      2 ^ 5 - occ (qn 0 32 true) = 0 ∧ (qn 0 0 true).penddrop = 0 ∧ ({ qn 0 0 true with penddrop := 1 } : Queue).penddrop ≠ 0) ∧
    ((queue (qs (qn 0 0 false)) 128).int = false ∧ okB (vaWrite (qs (qn 0 0 false)) 1 0 (padTo 16 [1])) = true) ∧
    (queue (qs (qn 1 32 true)) 128).cls = 1 := by
  decide +kernel

def qr (q : Queue) (m : Tbl Bytes) : Dev := qs { q with ents := m }
theorem witness_QueueRows_control :
    (mayCtl (qs (qn 3 0 true)) 128 (.reader 2 none) = false ∧ mayCtl (qs (qn 3 0 true)) 128 (.reader 1 (some n1)) = true ∧
      mayCtl (qs (qn 3 0 true)) 128 .provider = true ∧ ctxQueue 128 = none) ∧
    ((clsOf (qs (qn 2 0 true)) 128).1 ≠ 3 ∧ (clsOf (qs (qn 3 0 true)) 128).1 ≠ 2 ∧ qOk (queue (qs (qn 3 5 true)) 128) = true) ∧
    (ctxQueue 1792 = some (0, 0) ∧ ctxQueue 4095 = some (1016, 3) ∧ mayCtl hd 1792 .provider = true) ∧
    ((queue (qs (qn 2 0 true)) 128).dropping = false ∧ qOk (queue (qs (qn 2 0 true)) 128) = true ∧ occ (queue (qs (qn 2 0 true)) 128) = 0) ∧
    (occ (queue (qr (qn 2 1 true) [(0, [2])]) 128) ≠ 0 ∧
      isLast (getEntry (qr (qn 2 1 true) [(0, [2])]) 128 (queue (qr (qn 2 1 true) [(0, [2])]) 128).rp) = true) := by
  decide +kernel

/-! ### Ports, frames, alignment -/

/-- A configuration that lets port 0 reach port 3 of module 5, this module being module 1 with reference 5 above port 0. -/
def cfg : FabCfg :=
  { mid := 1, node := 0, slot := 0, k := 0, ref := 5, upport := 0, portmap := [(true, 5, 3), (false, 0, 0)], route := [(5, 0)], limit := []
    digest := 7, apply := 0 }
def pup : Port := { Port.reset with state := 3, lanes := 0xFF, peermid := 5, peerport := 3 }
def pd (x : Port) : Dev := { hd with fab := some cfg, ports := [(0, x)] }
def fr (cls : BitVec 4) (seq : W32) : Frame :=
  { ftype := 0, cls := cls, mark := 0, len := 0, enc := false, first := true, last := true, keygen := 0, seq := seq, ack := 0, dst := 1, src := 5
    ftag := 0, crdt := 0, crdtCls := 0, ctr := 0, lcrc := 0, payload := [], tag := [], fec := true }
def sealF (f : Frame) : Frame := { f with lcrc := lcrcOf f }

theorem witness_PortRows :
    (hd.fab = none ∧ (cfg.portmap[1]? = some (false, 0, 0)) ∧ cfg.portmap[0]? = some (true, 5, 3) ∧ (portOf (pd Port.reset) 0).state ≠ 5 ∧
      (portOf (pd Port.reset) 0).state ≠ 1 ∧ (portOf (pd Port.reset) 0).waitq = [] ∧ laneCount 0x7 < 4 ∧ 4 ≤ laneCount 0xF) ∧
    ((portOf (pd { pup with state := 1 }) 0).state = 1 ∧ (portOf (pd { pup with state := 1, retrains := 2 }) 0).retrains = 2 ∧
      laneCount pup.lanes = 8 ∧ laneCount ({ pup with lanes := 7 } : Port).lanes < 4 ∧ pup.replay = [] ∧ pup.waitq = []) ∧
    (portLaneWf 8 = true ∧ pup.lanes.toNat.testBit 8 = false ∧ pup.lanes.toNat.testBit 7 = true ∧
      4 ≤ laneCount (pup.lanes &&& ~~~(BitVec.ofNat 9 (2 ^ 7))) ∧ laneCount ((0xF : BitVec 9) &&& ~~~(BitVec.ofNat 9 (2 ^ 0))) < 4 ∧
      (∀ i, i < 4 → (portOf hd (4 * 3 + i)).lanes.toNat.testBit 8 = false) ∧ (pd pup).pst.repairs.length < 65536) ∧
    (portUp Port.reset = false ∧ portUp pup = true ∧ pup.replay = [] ∧ ({ pup with replay := [fr 3 0], replays := 8 } : Port).replay ≠ [] ∧
      (ackTo { pup with replay := [fr 3 0] } (0 - 1)).replay ≠ [] ∧ (ackTo { pup with replay := [fr 3 0] } (1 - 1)).replay = []) := by
  decide +kernel

theorem witness_FrameRows :
    (portUp (portOf hd 0) = false ∧ portUp (portOf (pd pup) 0) = true ∧ (pd pup).strk.aligned = false) ∧
    (¬((fr 3 0).fec = true ∧ (fr 3 0).lcrc = lcrcOf (fr 3 0)) ∧ (sealF (fr 3 0)).fec = true ∧ (sealF (fr 3 0)).lcrc = lcrcOf (sealF (fr 3 0)) ∧
      (sealF (fr 3 0)).cls ≠ 0) ∧
    (seqAfter (sealF (fr 3 1)).seq pup.rxSeq = true ∧ seqAfter (sealF (fr 3 0xFFFFFFFF)).seq pup.rxSeq = false ∧ (sealF (fr 3 0)).seq = pup.rxSeq) ∧
    (frameDefined (sealF (fr 3 0)) = true ∧ (sealF (fr 3 0)).dst.toNat = myMid (pd pup) ∧ gauntOfTag (pd pup) 0 = none ∧ (fr 3 0).enc = false) ∧
    (findStep hd n1 = none ∧ findStep accD n1 = some 7 ∧ tfind accD.steps 7 = some (step0 prog0)) := by
  decide +kernel

/-- The module stands in the aligned set at time `t`, with `n` delays measured and a clock-stroke factor `k`. -/
def alDev (t : W64) (n : Nat) (p : Port) : Dev := { pd p with strk := { Strk.reset with aligned := true, time := t, delays := n } }
def busyDev : Dev := { alDev 0 16 pup with steps := [(7, step0 { progG with copies := [rec' 64 []] })] }
theorem witness_AlignmentRows :
    (cfg.upport = 0 ∧ cfg.mid ≠ cfg.ref ∧ (alDev 0 0 pup).strk.aligned = true ∧ (0 : W64) = (alDev 0 0 pup).strk.count ∧
      Strk.reset.k = (alDev 0 0 pup).strk.k ∧ (7 : W64).toNat = cfg.digest.toNat % 2 ^ 64 ∧ (0 : W64) ≠ (1 : W64) ∧
      (8 : W64).toNat ≠ cfg.digest.toNat % 2 ^ 64 ∧ (4 : BitVec 4) ≠ (alDev 0 0 pup).strk.k) ∧
    ((((alDev 200 0 pup).strk.time.toNat : Int) - (0 : W64).toNat - (alDev 200 0 pup).strk.delay.toInt).natAbs = 200 ∧
      (((alDev 10001 0 pup).strk.time.toNat : Int) - (0 : W64).toNat - (alDev 10001 0 pup).strk.delay.toInt).natAbs = 10001) ∧
    (portUp (portOf (alDev 0 16 pup) 0) = true ∧ 16 ≤ (alDev 0 16 pup).strk.delays ∧ ¬16 ≤ (alDev 0 15 pup).strk.delays ∧
      fabBusy (alDev 0 16 pup) = false ∧ fabBusy busyDev = true) := by
  decide +kernel

/-! ### Copies and reductions -/

/-- A copy collective of G1's step: mode `m`, from VA 0 to VA `dst`, 64 bytes, at once. -/
def cpB (m dst : Nat) : Bytes := rec' 64 [(0, 1, m), (1, 1, 0xFF), (0x10, 8, dst), (0x20, 4, 64)]
def cr0 (ranks : List Nat) : CopyRun := { ranks := ranks, started := false, dones := [], complete := false }
def stepC (m dst : Nat) (c : CopyRun) : Step := { step0 { prog0 with copies := [cpB m dst] } with copies := [(0, c)] }
/-- Rank 0 is this module, rank 1 module 5; VA 2^47 reaches rank 1's memory. -/
def cpDev (m dst : Nat) (c : CopyRun) : Dev :=
  { sdH (stepC m dst c) with
    gaunts := [(1, { pg 1 with adm := 1, peers := [(0, 0x1001), (1, 0x1005)] })], fab := some cfg
    xlate := hd.xlate ++ [(4096 + 2304, BitVec.ofNat 64 (mkEntry 1 4 1 3))] }
def dst4 : Nat := 0x800000000000

theorem witness_CopyRows_send :
    (findStep hd n1 = none ∧ findStep (cpDev 2 dst4 (cr0 [0, 1])) n1 = some 7 ∧ canRun (cpDev 2 dst4 (cr0 [0, 1])) 7 = true ∧
      tfind (stepC 2 dst4 (cr0 [0, 1])).copies 0 = some (cr0 [0, 1]) ∧ (cr0 [0, 1]).started = false ∧ leAt (cpB 2 dst4) 1 1 = 0xFF ∧
      ({ cr0 [0] with started := true } : CopyRun).started = true ∧ (cpDev 2 dst4 (cr0 [0, 1])).wlog = []) ∧
    (leAt (cpB 2 dst4) 0 1 = 2 ∧ okB (vaRead (cpDev 2 dst4 (cr0 [0, 1])) 1 0 64) = true ∧
      okB (putPeer 1 0 (ranges dst4 64) 0 (List.replicate 64 0) (cpDev 2 dst4 (cr0 [0, 1]))) = true) ∧
    (leAt (cpB 0 128) 0 1 = 0 ∧ peerMid (cpDev 0 128 (cr0 [0])) 1 0 = some (myMid (cpDev 0 128 (cr0 [0]))) ∧ (cr0 [0]).dones = [] ∧
      okB (vaRead (cpDev 0 128 (cr0 [0])) 1 0 64) = true ∧ okB (vaWrite (cpDev 0 128 (cr0 [0])) 1 128 (List.replicate 64 0)) = true) := by
  decide +kernel

theorem witness_CopyRows_received :
    (copiesFrom hd 1 (some 5) 1 = [] ∧ okB (vaWrite hd 1 0 [1]) = true ∧ okB (vaWrite hd 1 0x10000000 [1]) = false) ∧
    (copiesFrom (cpDev 0 128 (cr0 [0, 1])) 1 (some 5) 1 = [(7, 0, 0, 2)] ∧ (0 : Nat) ≠ (1 : W32).toNat ∧
      copiesFrom (cpDev 0 128 (cr0 [0, 1])) 1 none 1 = [(7, 0, (0 : W32).toNat, 2)] ∧ copiesFrom (cpDev 0 128 (cr0 [0, 1])) 1 none 2 = [] ∧
      tfind (cpDev 0 128 (cr0 [0, 1])).steps 7 = some (stepC 0 128 (cr0 [0, 1])) ∧ (stepC 0 128 (cr0 [0, 1])).st ≠ .ended) ∧
    (liveSteps hd 1 = [] ∧ liveSteps (cpDev 0 128 (cr0 [0, 1])) 1 ≠ []) ∧
    (∃ c, c ∈ (stepC 0 128 { cr0 [0, 1] with started := true }).copies ∧ c.2.started = true ∧ c.2.complete = false) ∧
    (step0 prog0).copies = [] ∧ (step0 prog0).buckets = [] := by
  refine ⟨?_, ?_, ?_, ⟨(0, { cr0 [0, 1] with started := true }), ?_⟩, ?_⟩ <;> decide +kernel

/-- A bucket of one FP32 chunk at VA 0, full at once, its result and status behind it; group 2 has the members `m`. -/
def bk0 (full landed released : Bool) (parts : Tbl Bytes) : Bucket :=
  { desc := rec' 64 [(8, 8, 0x20000), (0x10, 8, 0x40000), (0x18, 4, 65536), (0x1C, 4, 0xFF * 32)], tag := 3, full := full, chunksDone := []
    parts := parts, nan := 0, inf := 0, ovf := 0, firstNan := 0xFFFF, firstInf := 0xFFFF, stalls := 0, landed := landed, released := released }
def stepR (b : Bucket) : Step := { step0 progG with buckets := [b] }
def rdv (b : Bucket) (m : List W32) : Dev :=
  { sdH (stepR b) with gaunts := [(1, { pg 1 with adm := 1, groups := [(2, { rg0 with members := m })] })] }
def part0 : Part := { nan := 0, inf := 0, ovf := 0, fn := 0xFFFF, fi := 0xFFFF, vals := [] }

theorem vaWrite_ok {d : Dev} {g va : Nat} {bs : Bytes} (h : okB (transRange d g va bs.length true) = true) : okB (vaWrite d g va bs) = true := by
  unfold vaWrite
  rw [ok_eq [] h]
  rfl

theorem witness_ReductionRows_stages :
    (findStep (rdv (bk0 true false false []) [0]) n1 = some 7 ∧ findBucket (rdv (bk0 true false false []) [0]) 7 4 = none ∧
      findBucket (rdv (bk0 true false false []) [0]) 7 3 = some (stepR (bk0 true false false []), bk0 true false false [], 2, rg0) ∧
      fld (w32At (bk0 true false false []).desc 0x1C) 12 5 = 0xFF) ∧
    (bkChunks (bk0 true false false []) = 1 ∧ (stepR (bk0 true false false [])).failing = none ∧
      rg0.members.findIdx? (fun e => memMid e == myMid (rdv (bk0 true false false []) [0])) = some 0 ∧
      sendsWait (rdv (bk0 true false false []) [0]) = false ∧ chunkStage (bk0 true false false []) 0 = 0 ∧
      okB (ownPart (rdv (bk0 true false false []) [0]) 1 0 (bk0 true false false []) 0) = true) ∧
    (∀ w, w < 4 → chunkStage (bk0 true false false [(6, [BitVec.ofNat 8 w])]) 0 = w) ∧
    (holder rg0.members 0 0 1 1 = none ∧ holder [0, 0x200005] 0 0 0 1 = some 0 ∧ holder [0, 0x200005] 0 0 1 1 = some 0x200005 ∧
      tfind (bk0 true false false [(6, [1]), (0, encPart part0)]).parts (8 * 0 + (1 - 1)) = some (encPart part0)) := by
  decide +kernel

theorem witness_ReductionRows_release :
    (bk0 true true false []).landed = true ∧ (bk0 true false false []).landed = false ∧
    ([bk0 true true false []].takeWhile fun x => x.tag != 3) = [] ∧
    okB (vaWrite (rdv (bk0 true true false []) [0]) 1 0x40000 (bkStatus (rdv (bk0 true true false []) [0]) (bk0 true true false []))) = true := by
  decide +kernel

/-- Contribution and result of the bucket's chunk, and one of a chunk that the bucket does not have. -/
def redM (c : W16) : RedMsg :=
  { tag := 3, group := 2, stage := 1, chunk := c, firstNan := 0xFFFF, firstInf := 0xFFFF, nan := 0, inf := 0, ovf := 0, data := List.replicate 65536 0 }

theorem witness_ReductionRows_messages :
    groupStep hd 1 2 = none ∧ groupStep (rdv (bk0 true false false []) [0]) 1 2 = some (7, stepR (bk0 true false false [])) ∧
    groupRec (rdv (bk0 true false false []) [0]) (stepR (bk0 true false false [])) = some rg0 ∧
    ((stepR (bk0 true false false [])).buckets.find? fun y => y.tag == (redM 0).tag) = some (bk0 true false false []) ∧
    ((redM 0).chunk.toNat < bkChunks (bk0 true false false []) ∧ ¬(redM 1).chunk.toNat < bkChunks (bk0 true false false []) ∧
      bkFmt (bk0 true false false []) = 0 ∧ (redM 0).stage.toNat ≤ 3) ∧ (redM 0).data.length = 65536 ∧
    okB (vaWrite (rdv (bk0 true false false []) [0]) 1 0x20000 (redM 0).data) = true := by
  have l : (redM 0).data.length = 65536 := List.length_replicate
  refine ⟨?_, ?_, ?_, ?_, ?_, l, vaWrite_ok (by rw [l]; decide +kernel)⟩ <;> decide +kernel

/-- An RGCREATE waits for module 5, of two members, with this one or with module 6 besides. -/
def joinW : Waiting := { op := 0x43, cmd := hc 1 2 0 2 0 1, g := 1, key := 2 }
def joinDev (m : List W32) : Dev := { rdv (bk0 true false false []) m with waits := [joinW] }
theorem witness_ReductionRows_joins :
    ((gaunt hd 3).present = false ∧ (gaunt hd 1).present = true ∧ tfind (gaunt hd 1).groups 2 = none) ∧
    (∃ e, e ∈ [(0 : W32), 5] ∧ memMid e = (5 : Mid).toNat) ∧ (5 : Mid).toNat ∉ rg0.joins ∧ rgWait (joinDev [0, 5]) 1 2 = some joinW ∧ joinW.cmd.fn = 1 ∧
    ([(0 : W32), 5].all fun e => memMid e == myMid (joinDev [0, 5]) || (rg0.joins ++ [5]).contains (memMid e)) = true ∧
    ([(0 : W32), 5, 6].all fun e => memMid e == myMid (joinDev [0, 5, 6]) || (rg0.joins ++ [5]).contains (memMid e)) = false := by
  refine ⟨?_, ⟨5, ?_⟩, ?_⟩ <;> decide +kernel

theorem joinDigest_length (m : List W32) : (joinDigest m).length = 28 := by
  unfold joinDigest
  generalize Config.sha3 _ = x
  simp [leBytes]

theorem padTo_length {n : Nat} {b : Bytes} (h : b.length = n) : padTo n b = b := by
  subst h
  simp [padTo, slice]

/-- The digest of the list itself agrees with it, and some digest does not. -/
theorem witness_ReductionRows_digests (m : List W32) :
    padTo 28 (joinDigest m) = joinDigest m ∧ ∃ x, padTo 28 x ≠ joinDigest m := by
  refine ⟨padTo_length (joinDigest_length m), ?_⟩
  by_cases h : joinDigest m = List.replicate 28 0
  · refine ⟨List.replicate 28 1, ?_⟩
    rw [padTo_length List.length_replicate, h]
    decide
  · refine ⟨List.replicate 28 0, ?_⟩
    rw [padTo_length List.length_replicate]
    exact fun e => h e.symm

/-! ### The block as a whole -/

/-- The state after reset is good, idle and after a command that waits. -/
theorem witness_StepKeepsInv :
    GoodState State.reset ∧ step State.reset = .next State.reset ∧ GoodState { State.reset with pending := [.cmdNop (hc 0 0 0 0 0 0)] } ∧
    ∃ t, step { State.reset with pending := [.cmdNop (hc 0 0 0 0 0 0)] } = .next t :=
  ⟨⟨rfl, rfl, rfl⟩, rfl, ⟨rfl, rfl, rfl⟩, _, rfl⟩

theorem witness_CommandRunsIfWellFormed :
    (Instr.cmdNop (hc 0 0 0 0 0 0)).wf = true ∧ (Instr.seatEnd c0 wEnd).wf = true ∧ spellsOther (.seatEnd c0 wEnd) = false ∧
    (Instr.laneHalt l0 (lr 0x3F 0 0 0 0)).wf = true ∧ spellsOther (.laneHalt l0 (lr 0x3F 0 0 0 0)) = false ∧
    spellsOther (.laneHalt l0 (lr 1 0 0 0 0)) = true := by
  decide +kernel

/-! ### What WellFormed refuses -/

def badC : CtxAt := { crew := 0, seat := 9, ctx := 0 }
def badU : SeatAt := { crew := 63, seat := 9 }
def badL : LaneAt := { crew := 0, seat := 15, lane := 0 }

theorem test_ill_formed_refused (s : State) :
    exec (.seatNop badC 0) s = .refused .noSuchUnit ∧ exec (.workGrant badC) s = .refused .noSuchUnit ∧
    exec (.mmaBlockLands badU) s = .refused .noSuchUnit ∧ exec (.seatFault badU none) s = .refused .noSuchUnit ∧
    exec (.laneIop badL 1) s = .refused .noSuchUnit ∧ exec (.crewRestoreDone 0 [c0, badC]) s = .refused .noSuchUnit ∧
    exec (.wipeDone (.seat badU)) s = .refused .noSuchUnit ∧ exec (.wipeDone (.extent 0 60)) s = .refused .noSuchUnit ∧
    exec (.videoFrameStart 20) s = .refused .noSuchUnit ∧ exec (.encodeFrameEmit 31) s = .refused .noSuchUnit ∧
    exec (.domainReturnDone 113) s = .refused .noSuchUnit ∧ exec (.autoIdleRetention 127) s = .refused .noSuchUnit ∧
    exec (.laneDrop 0 9) s = .refused .noSuchUnit ∧ exec (.laserFail 3 15) s = .refused .noSuchUnit :=
  ⟨rfl, rfl, rfl, rfl, rfl, rfl, rfl, rfl, rfl, rfl, rfl, rfl, rfl, rfl⟩

/-- Checks of WellFormed, each on its last unit and on the one after it. -/
theorem test_well_formed_bounds :
    (SeatAt.wf { crew := 0, seat := 8 } = true ∧ badU.wf = false) ∧ (CtxAt.wf { crew := 0, seat := 8, ctx := 3 } = true ∧ badC.wf = false) ∧
    (LaneAt.wf { crew := 0, seat := 8, lane := 31 } = true ∧ badL.wf = false) ∧ (pipeWf 19 = true ∧ pipeWf 20 = false) ∧
    (domWf 112 = true ∧ domWf 113 = false) ∧ (portLaneWf 8 = true ∧ portLaneWf 9 = false) ∧
    (WipeTarget.wf (.extent 0 59) = true ∧ WipeTarget.wf (.extent 0 60) = false) := by
  decide

/-- A word that is another row's is refused by name (log 16's other side). -/
theorem test_word_of_another_row (s : State) : exec (.seatNop c0 1) s = .refused .otherCommand := rfl

/-- No row of the table gives bits. -/
theorem test_no_table_word : decodeTableWord 32 7 = none ∧ State.reset.withFetchWord 32 7 = State.reset := ⟨rfl, rfl⟩

/-! ### The spec's worked numbers -/

/-- R58's example: a rerun halves 127, 5, −3 and −128. -/
theorem test_rerun_halves : (halve 127, halve 5, halve (-3), halve (-128)) = (64, 2, -2, -64) := by decide +kernel

/-- 03_numerics, FP32 to BF16: 0x3FC08000 under RNE, and under SR with 0x7FFF and 0x8000; 0x3FC04000 with 0xBFFF and 0xC000. -/
theorem test_bf16_rounding :
    (convert 1 0x3FC08000 0x3FC08000 none false true).1 = 0x3FC0 ∧ (convert 1 0x3FC08000 0x3FC08000 (some 0x7FFF) false true).1 = 0x3FC0 ∧
    (convert 1 0x3FC08000 0x3FC08000 (some 0x8000) false true).1 = 0x3FC1 ∧
    (convert 1 0x3FC04000 0x3FC04000 (some 0xBFFF) false true).1 = 0x3FC0 ∧
    (convert 1 0x3FC04000 0x3FC04000 (some 0xC000) false true).1 = 0x3FC1 := by
  decide +kernel

/-- 03_numerics, INT8 product to E4M3: 1,234,567 × 2⁻¹⁶, with RSCALE 16. -/
def exY : Nat := mul32 (ofInt32 1234567) (pow32 (-16))
def exZ : Nat := mul32 exY (pow32 4)
theorem test_e4m3_product :
    (convert 3 exY exZ none false true).1 = 0x79 ∧ (convert 3 exY exZ (some 0x94BC) false true).1 = 0x79 ∧
    (convert 3 exY exZ (some 0x94BD) false true).1 = 0x7A := by
  decide +kernel

/-- 05_lane_cores: the tree over 1.0 and three values of 2⁻²⁴, and the same from left to right. -/
theorem test_tree_sum :
    add32 (add32 0x3F800000 0x33800000) (add32 0x33800000 0x33800000) = 0x3F800001 ∧
    add32 (add32 (add32 0x3F800000 0x33800000) 0x33800000) 0x33800000 = 0x3F800000 := by
  decide +kernel

/-- 00_scope: the default stroke of 1.000 ms is 1,600,000 cycles and 1,200,000 IOD cycles. -/
theorem test_default_stroke : (strokeNs 3, strokeCycles 3, strokeIod 3) = (1000000, 1600000, 1200000) := by decide +kernel

end Sys2Proof.Tests
end

section
/-! PROOFS. R12: offsets that no register map defines. What a 32-bit word of a window is when it is read and what a write to it does,
first where no map defines it, then how wide any word of a window is; last the bus accesses of one and two words. -/
namespace Sys2Proof.Machine

/-! ### Rows of a register map -/

theorem rowAt_eq_none_iff {rows : List RegRow} {off : Nat} :
    rowAt rows off = none ↔ ∀ r ∈ rows, r.off ≤ off → r.off + r.span ≤ off := by
  simp only [rowAt, List.find?_eq_none, Bool.and_eq_true, decide_eq_true_eq, not_and, Nat.not_lt]

/-- A row that starts in the middle of an 8-byte word follows a register in the lower half of that word. -/
def HalvesPaired (rows : List RegRow) : Prop :=
  ∀ r ∈ rows, r.off % 8 = 0 ∨ r.off % 8 = 4 ∧ rowAt rows (r.off - 4) ≠ none

theorem halvesPaired_blockRows : HalvesPaired blockRows := by unfold HalvesPaired; decide +kernel
theorem halvesPaired_coxRows : HalvesPaired coxRows := by unfold HalvesPaired; decide +kernel
theorem halvesPaired_seatRows : HalvesPaired seatRows := by unfold HalvesPaired; decide +kernel

theorem HalvesPaired.rowAt_add_four {rows : List RegRow} {off : Nat} (hp : HalvesPaired rows) (ho : off % 8 = 0)
    (h : rowAt rows off = none) : rowAt rows (off + 4) = none := by
  refine rowAt_eq_none_iff.mpr fun r hr hle => ?_
  have hlow := rowAt_eq_none_iff.mp h r hr
  rcases hp r hr with h8 | ⟨h4, hpair⟩
  · omega
  · have hne : r.off ≠ off + 4 := fun e => hpair (by rw [e]; exact h)
    omega

/-! ### Undefined words -/

/-- An undefined word of PF BAR0 lies in no queue descriptor, and no row of the map of its page, or of the single blocks, holds it. -/
theorem unmapped_none_iff {off : Nat} : unmapped none off = true ↔
    ¬(0x100000 ≤ off ∧ off < 0x140000) ∧
    (if 0x800000 ≤ off ∧ off < 0x840000 then rowAt coxRows (off % 0x1000) = none
     else if 0x1000000 ≤ off ∧ off < 0x1400000 then 8 < off / 0x1000 % 16 ∨ rowAt seatRows (off % 0x1000) = none
     else rowAt blockRows off = none) := by
  simp only [unmapped]
  by_cases hque : 0x100000 ≤ off ∧ off < 0x140000
  · simp only [hque, and_self, if_true, not_true_eq_false, false_and, Bool.false_eq_true]
  rw [if_neg hque, and_iff_right hque]
  by_cases hcox : 0x800000 ≤ off ∧ off < 0x840000
  · rw [if_pos hcox, if_pos hcox, Option.isNone_iff_eq_none]
  rw [if_neg hcox, if_neg hcox]
  by_cases hseat : 0x1000000 ≤ off ∧ off < 0x1400000
  · rw [if_pos hseat, if_pos hseat, Bool.or_eq_true, decide_eq_true_eq, Option.isNone_iff_eq_none]
  · rw [if_neg hseat, if_neg hseat, Option.isNone_iff_eq_none]

/-- An undefined word of a function page lies outside the five ranges of R366. -/
theorem unmapped_some_iff {f off : Nat} : unmapped (some f) off = true ↔
    (4 ≤ off ∧ off < 8) ∨ (0x58 ≤ off ∧ off < 0x100) ∨ (0x10C ≤ off ∧ off < 0x1000) ∨ (0x1040 ≤ off ∧ off < 0x1800) ∨ 0x1808 ≤ off := by
  simp only [unmapped, Bool.not_eq_true', Bool.or_eq_false_iff, decide_eq_false_iff_not]
  omega

/-- No 8-byte word has only its higher half defined. -/
theorem unmapped_add_four {win : Option Nat} {off : Nat} (ho : off % 8 = 0) (h : unmapped win off = true) :
    unmapped win (off + 4) = true := by
  cases win with
  | some f =>
    rw [unmapped_some_iff] at h ⊢
    omega
  | none =>
    rw [unmapped_none_iff] at h ⊢
    obtain ⟨hque, hrow⟩ := h
    have hmod : (off + 4) % 0x1000 = off % 0x1000 + 4 := by omega
    have hdiv : (off + 4) / 0x1000 = off / 0x1000 := by omega
    have hpage : off % 0x1000 % 8 = 0 := by omega
    refine ⟨by omega, ?_⟩
    rw [hmod, hdiv]
    by_cases hcox : 0x800000 ≤ off ∧ off < 0x840000
    · rw [if_pos hcox] at hrow
      rw [if_pos (by omega)]
      exact halvesPaired_coxRows.rowAt_add_four hpage hrow
    rw [if_neg hcox] at hrow
    rw [if_neg (by omega)]
    by_cases hseat : 0x1000000 ≤ off ∧ off < 0x1400000
    · rw [if_pos hseat] at hrow
      rw [if_pos (by omega)]
      exact hrow.imp_right (halvesPaired_seatRows.rowAt_add_four hpage)
    rw [if_neg hseat] at hrow
    rw [if_neg (by omega)]
    exact halvesPaired_blockRows.rowAt_add_four ho hrow

/-! ### Reads of an undefined word -/

theorem bar0Word_unmapped {off : Nat} (d : Dev) (v : Nat) (h : unmapped none off = true) : bar0Word d off v = (0, none) := by
  obtain ⟨hque, hrow⟩ := unmapped_none_iff.mp h
  simp only [bar0Word, Bool.and_eq_true, decide_eq_true_eq]
  rw [if_neg hque]
  by_cases hcox : 0x800000 ≤ off ∧ off < 0x840000
  · rw [if_pos hcox] at hrow ⊢
    rw [hrow]
  rw [if_neg hcox] at hrow ⊢
  by_cases hseat : 0x1000000 ≤ off ∧ off < 0x1400000
  · rw [if_pos hseat] at hrow ⊢
    rcases hrow with hcore | hrow
    · rw [if_pos (by omega)]
    · rw [hrow, ite_self]
  rw [if_neg hseat] at hrow ⊢
  rw [hrow]

theorem fnWord_unmapped {f off : Nat} (d : Dev) (g : Nat) (h : unmapped (some f) off = true) : fnWord d g off = 0 := by
  have hr := unmapped_some_iff.mp h
  simp only [fnWord, Bool.and_eq_true, decide_eq_true_eq]
  repeat rw [if_neg (by omega)]

/-- A read of an undefined word returns zero, and takes at most a free value (log 4). -/
theorem readWord_unmapped {win : Option Nat} {off : Nat} (d : Dev) (h : unmapped win off = true) :
    ∃ n, readWord d win off = (0, { d with free := n }) := by
  unfold readWord
  split
  · exact ⟨d.free, rfl⟩
  · cases win with
    | some f => exact ⟨d.free, by simp only [fnWord_unmapped d f h]⟩
    | none => exact ⟨d.free + 1, by simp only [freeVal, bar0Word_unmapped _ _ h]⟩

/-! ### Writes to an undefined word -/

/-- The offsets that a write to PF BAR0 compares with, those of the units' pages and of the W1C registers apart. -/
def writtenOffsets : List Nat :=
  [rSTRK_CFG, rMEM_ZEROSHARE, rMEM_SCRUBCFG, rFAB_RTIMEOUT, rVID_CFG, rEMB_RCPART, rEMB_RCPART + 4, rPWR_WAKEADDR, rPWR_WTIMER,
   rPWR_AUTOIDLE, rBOOT_RETRY, rBOOT_OPT, rBOOT_RECADDR, rBOOT_RECADDR + 4, rBOOT_RECLEN, rBOOT_RECCTL, rTEL_LOGRP]

theorem writtenOffsets_mapped : ∀ o ∈ writtenOffsets, unmapped none o = false := by decide +kernel

theorem bar0Write_unmapped {off : Nat} (v : Nat) (d : Dev) (h : unmapped none off = true) : bar0Write off v d = d := by
  have hreg : off ∉ writtenOffsets := fun hm => Bool.noConfusion (h.symm.trans (writtenOffsets_mapped off hm))
  simp only [writtenOffsets, List.mem_cons, List.not_mem_nil, or_false, not_or] at hreg
  obtain ⟨hque, hrow⟩ := unmapped_none_iff.mp h
  simp only [bar0Write, hreg, or_self, if_false, Bool.and_eq_true, decide_eq_true_eq]
  rw [if_neg hque]
  by_cases hcox : 0x800000 ≤ off ∧ off < 0x840000
  · rw [if_pos hcox] at hrow ⊢
    have herr : off % 0x1000 ≠ rCOX_ERR := fun e => by rw [e] at hrow; cases hrow
    rw [if_neg herr]
  rw [if_neg hcox] at hrow ⊢
  by_cases hseat : 0x1000000 ≤ off ∧ off < 0x1400000
  · rw [if_pos hseat] at hrow ⊢
    have herr : ¬(off % 0x1000 = rSEAT_ERR ∧ off / 0x1000 % 16 ≤ 8) := fun ⟨e, hcore⟩ => by
      rw [e] at hrow
      cases hrow.resolve_left (by omega)
    rw [if_neg herr]
  rw [if_neg hseat] at hrow ⊢
  rw [hrow]

theorem fnWrite_unmapped {f off : Nat} (g v : Nat) (d : Dev) (h : unmapped (some f) off = true) : fnWrite g off v d = d := by
  have hr := unmapped_some_iff.mp h
  simp only [fnWrite, Bool.and_eq_true, decide_eq_true_eq]
  repeat rw [if_neg (by omega)]

theorem writeWord_unmapped {win : Option Nat} {off : Nat} (v : Nat) (d : Dev) (h : unmapped win off = true) :
    writeWord win off v d = d := by
  unfold writeWord
  split
  · rfl
  · cases win with
    | some f => exact fnWrite_unmapped f v d h
    | none => exact bar0Write_unmapped v d h

/-! ### Every word of a window has 32 bits -/

theorem leNat_lt_pow (bs : Bytes) : leNat bs < 256 ^ bs.length := by
  induction bs with
  | nil => exact Nat.one_pos
  | cons b t ih =>
    rw [leNat, List.length_cons, Nat.pow_succ]
    have hb := b.isLt
    omega

theorem leNat_lt_of_length_le {bs : Bytes} (h : bs.length ≤ 4) : leNat bs < 2 ^ 32 :=
  Nat.lt_of_lt_of_le (leNat_lt_pow bs) (Nat.pow_le_pow_right (by decide : 0 < 256) h)

theorem leAt_four_lt (bs : Bytes) (off : Nat) : leAt bs off 4 < 2 ^ 32 :=
  leNat_lt_of_length_le (List.length_take_le 4 _)

theorem rowWord_lt (r : RegRow) (off : Nat) (val : Nat → Nat) : (rowWord r off val).1 < 2 ^ 32 := by
  unfold rowWord
  dsimp only
  split
  · exact leNat_lt_of_length_le (Nat.le_of_eq (by rw [List.length_map, List.length_range]))
  · exact Nat.mod_lt _ (by decide)

theorem bar0Word_lt (d : Dev) (off v : Nat) : (bar0Word d off v).1 < 2 ^ 32 := by
  have hand {w m : Nat} (h : w < 2 ^ 32) : w &&& m < 2 ^ 32 := Nat.lt_of_le_of_lt Nat.and_le_left h
  have hrow {r : RegRow} {o : Nat} {val : Nat → Nat} := rowWord_lt r o val
  have hzero : 0 < 2 ^ 32 := Nat.two_pow_pos 32
  unfold bar0Word
  dsimp only
  by_cases hque : (decide (0x100000 ≤ off) && decide (off < 0x140000)) = true
  · rw [if_pos hque]
    split
    · exact hand (leAt_four_lt _ _)
    · exact leAt_four_lt _ _
  rw [if_neg hque]
  by_cases hcox : (decide (0x800000 ≤ off) && decide (off < 0x840000)) = true
  · rw [if_pos hcox]
    split
    · exact hzero
    · split
      · exact hand hrow
      · exact hrow
  rw [if_neg hcox]
  by_cases hseat : (decide (0x1000000 ≤ off) && decide (off < 0x1400000)) = true
  · rw [if_pos hseat]
    split
    · exact hzero
    · split
      · exact hzero
      · split
        · exact hand hrow
        · exact hrow
  rw [if_neg hseat]
  split
  · exact hzero
  · split
    · exact hzero
    · split
      · exact hzero
      · exact hrow

theorem b2n_le_one (b : Bool) : b2n b ≤ 1 := by cases b <;> decide

theorem strkStatus_lt (d : Dev) : strkStatus d < 2 ^ 8 := by
  have h1 := b2n_le_one d.strk.aligned
  have h2 := b2n_le_one d.strk.alignErr
  have h3 := b2n_le_one d.strk.kHeld.isSome
  have h4 := b2n_le_one d.sup.brace
  unfold strkStatus
  omega

theorem ite_lt_of_lt {c : Prop} [Decidable c] {a b n : Nat} (ha : a < n) (hb : b < n) : (if c then a else b) < n := by
  split <;> assumption

theorem fnWord_lt (d : Dev) {f : Nat} (hf : f < 16) (off : Nat) : fnWord d f off < 2 ^ 32 := by
  have hmod (x : Nat) : x % 2 ^ 32 < 2 ^ 32 := Nat.mod_lt _ (by decide)
  have hword {w : Nat} (x : BitVec w) (hw : w ≤ 32) : x.toNat < 2 ^ 32 :=
    Nat.lt_of_lt_of_le x.isLt (Nat.pow_le_pow_right (by decide) hw)
  have hbit := b2n_le_one
  unfold fnWord
  dsimp only
  refine ite_lt_of_lt ?numbers <| ite_lt_of_lt (hmod _) <| ite_lt_of_lt (hmod _) <| ite_lt_of_lt (hmod _) <| ite_lt_of_lt (hmod _) <|
    ite_lt_of_lt ?ringcfg <| ite_lt_of_lt ?status <| ite_lt_of_lt (leAt_four_lt _ _) <| ite_lt_of_lt (leAt_four_lt _ _) <|
    ite_lt_of_lt (hword _ (by decide)) <| ite_lt_of_lt (hword _ (by decide)) <| ite_lt_of_lt (hmod _) <|
    ite_lt_of_lt (Nat.lt_trans (strkStatus_lt d) (by decide)) <| ite_lt_of_lt ?vector <| ite_lt_of_lt (hword _ (by decide)) (by decide)
  case numbers =>
    have h1 := hbit (f == 0)
    have h2 := hbit (gaunt d f).present
    omega
  case ringcfg =>
    have h1 := hbit (func d f).enable
    omega
  case status =>
    have h1 := hbit (func d f).openF
    have h2 := hbit (func d f).enable
    have h3 := hbit (func d f).ide
    omega
  case vector =>
    split
    · exact hmod _
    · omega
    · exact hword _ (by decide)
    · exact Nat.lt_of_le_of_lt (hbit _) (by decide)

/-- What a read of one word returns fits in 32 bits, in PF BAR0 and in the page of each of the sixteen functions. -/
theorem readWord_lt (d : Dev) {win : Option Nat} (hw : ∀ f ∈ win, f < 16) (off : Nat) : (readWord d win off).1 < 2 ^ 32 := by
  unfold readWord
  split
  · exact Nat.two_pow_pos 32
  · cases win with
    | some f => exact fnWord_lt d (hw f rfl) off
    | none =>
      have hb := bar0Word_lt (freeVal d).2 off (freeVal d).1.toNat
      dsimp only
      split
      next w r e => rwa [e] at hb
      next w e => rwa [e] at hb

/-! ### The bus accesses of R363 -/

/-- The window of an access is PF BAR0 or the page of one of sixteen functions. -/
theorem windowOf_fn_lt {d : Dev} {a : BusAddr} {win : Option Nat} {off : Nat} (h : windowOf d a = some (win, off)) :
    ∀ f ∈ win, f < 16 := by
  unfold windowOf at h
  dsimp only at h
  split at h
  · split at h <;> cases h
    exact nofun
  split at h
  · split at h <;> cases h
    intro f hf
    cases hf
    exact a.fn.isLt
  · cases h

theorem accessOk_narrow {a : BusAddr} (ha : accessOk a = true) (h8 : a.size = 8) : accessOk { a with size := 4 } = true := by
  have h : a.off.toNat % 8 = 0 := by
    unfold accessOk at ha
    rw [h8] at ha
    exact beq_iff_eq.mp (Bool.and_eq_true_iff.mp ha).2
  have h4 : a.off.toNat % 4 = 0 := by omega
  exact Bool.and_eq_true_iff.mpr ⟨rfl, beq_iff_eq.mpr h4⟩

/-- The effect of an admitted read of a window: one word or two, and what the bus returns. -/
def busRead (size : Byte) (win : Option Nat) (off : Nat) (d : Dev) : Dev :=
  let lo := readWord d win off
  let hi := if size = 8 then readWord lo.2 win (off + 4) else (0, lo.2)
  { hi.2 with busData := BitVec.ofNat 64 (lo.1 + 2 ^ 32 * hi.1) }

/-- The effect of an admitted write of a window that is not the write of EMB_RCPART as a whole: one word or two. -/
def busWrite (size : Byte) (win : Option Nat) (off : Nat) (v : W64) (d : Dev) : Dev :=
  let lo := writeWord win off (v.toNat % 2 ^ 32) d
  if size = 8 then writeWord win (off + 4) (v.toNat / 2 ^ 32) lo else lo

theorem busRead_unmapped {size : Byte} {win : Option Nat} {off : Nat} (d : Dev) (hlo : unmapped win off = true)
    (hhi : size = 8 → unmapped win (off + 4) = true) : ∃ n, busRead size win off d = { d with busData := 0, free := n } := by
  obtain ⟨n, hn⟩ := readWord_unmapped d hlo
  by_cases h8 : size = 8
  · obtain ⟨m, hm⟩ := readWord_unmapped { d with free := n } (hhi h8)
    exact ⟨m, by simp only [busRead, hn, if_pos h8, hm]; rfl⟩
  · exact ⟨n, by simp only [busRead, hn, if_neg h8]; rfl⟩

theorem busRead_high_unmapped {win : Option Nat} {off : Nat} (d : Dev) (hw : ∀ f ∈ win, f < 16)
    (hhi : unmapped win (off + 4) = true) : (busRead 8 win off d).busData.toNat / 2 ^ 32 = 0 := by
  obtain ⟨m, hm⟩ := readWord_unmapped (readWord d win off).2 hhi
  have hlo := readWord_lt d hw off
  simp only [busRead, if_true, hm, BitVec.toNat_ofNat]
  omega

theorem busWrite_high_unmapped {win : Option Nat} {off : Nat} (v : W64) (d : Dev) (hhi : unmapped win (off + 4) = true) :
    busWrite 8 win off v d = writeWord win off (v.toNat % 2 ^ 32) d := by
  simp only [busWrite, if_true, writeWord_unmapped _ _ hhi]

theorem busWrite_unmapped {size : Byte} {win : Option Nat} {off : Nat} (v : W64) (d : Dev) (hlo : unmapped win off = true)
    (hhi : size = 8 → unmapped win (off + 4) = true) : busWrite size win off v d = d := by
  by_cases h8 : size = 8
  · subst h8
    rw [busWrite_high_unmapped v d (hhi rfl), writeWord_unmapped _ _ hlo]
  · simp only [busWrite, if_neg h8, writeWord_unmapped _ _ hlo]

theorem run_congr {f g : Dev → Dev} {s : State} (h : f { s.dev with wlog := [] } = g { s.dev with wlog := [] }) : run f s = run g s := by
  rw [run_eq, run_eq, h]

section
variable {a : BusAddr} {s : State} {win : Option Nat} {off : Nat} (ha : accessOk a = true) (hw : windowOf s.dev a = some (win, off))
include ha hw

theorem exec_rcRegisterRead : exec (.rcRegisterRead a) s = run (busRead a.size win off) s := by
  change execRcRegisterRead a s = _
  unfold execRcRegisterRead
  refine run_congr ?_
  have hw' : windowOf { s.dev with wlog := [] } a = some (win, off) := hw
  simp only [hw', ha, Bool.not_true, Bool.false_eq_true, if_false]
  rfl

theorem exec_registerWrite (v : W64) (hrc : ¬(a.size = 8 ∧ win = none ∧ off = rEMB_RCPART)) :
    exec (.registerWrite a v) s = run (busWrite a.size win off v) s := by
  change execRegisterWrite a v s = _
  unfold execRegisterWrite
  refine run_congr ?_
  have hw' : windowOf { s.dev with wlog := [] } a = some (win, off) := hw
  have hrc' (b : Bool) : ¬(a.size = 8 ∧ win = none ∧ off = rEMB_RCPART ∧ b = true) := fun ⟨h8, hn, ho, _⟩ => hrc ⟨h8, hn, ho⟩
  simp only [hw', ha, Bool.not_true, Bool.false_eq_true, if_false, hrc']
  rfl

/-- A read that finds no defined word returns zero and changes nothing but what the bus returned and the count of free values. -/
theorem completes_read_unmapped (hlo : unmapped win off = true) (hhi : a.size = 8 → unmapped win (off + 4) = true) :
    Completes (exec (.rcRegisterRead a) s) fun t =>
      t.dev.busData = 0 ∧ t.dev = { s.dev with busData := 0, free := t.dev.free, wlog := [] } := by
  obtain ⟨n, hn⟩ := busRead_unmapped { s.dev with wlog := [] } hlo hhi
  refine ⟨_, (exec_rcRegisterRead ha hw).trans (run_eq _ _), ?_⟩
  rw [hn]
  exact ⟨rfl, rfl⟩

/-- The higher half of what an 8-byte read returns is zero where no map defines the higher word. -/
theorem completes_read_high_unmapped (h8 : a.size = 8) (hhi : unmapped win (off + 4) = true) :
    Completes (exec (.rcRegisterRead a) s) fun t => t.dev.busData.toNat / 2 ^ 32 = 0 := by
  refine ⟨_, (exec_rcRegisterRead ha hw).trans (run_eq _ _), ?_⟩
  rw [h8]
  exact busRead_high_unmapped _ (windowOf_fn_lt hw) hhi

/-- A write that finds no defined word does nothing. -/
theorem completes_write_unmapped (v : W64) (hlo : unmapped win off = true) (hhi : a.size = 8 → unmapped win (off + 4) = true) :
    Completes (exec (.registerWrite a v) s) fun t => t.dev = { s.dev with wlog := [] } := by
  have hrc : ¬(a.size = 8 ∧ win = none ∧ off = rEMB_RCPART) := by
    rintro ⟨-, rfl, rfl⟩
    cases hlo
  refine ⟨_, (exec_registerWrite ha hw v hrc).trans (run_eq _ _), ?_⟩
  rw [busWrite_unmapped v _ hlo hhi]
  rfl

/-- An 8-byte write whose higher word no map defines is the write of its lower word. -/
theorem write_high_unmapped (v : W64) (h8 : a.size = 8) (hhi : unmapped win (off + 4) = true) :
    exec (.registerWrite a v) s = exec (.registerWrite { a with size := 4 } v) s := by
  have hrc : ¬(a.size = 8 ∧ win = none ∧ off = rEMB_RCPART) := by
    rintro ⟨-, rfl, rfl⟩
    cases hhi
  rw [exec_registerWrite ha hw v hrc, exec_registerWrite (accessOk_narrow ha h8) hw v (fun ⟨e, _⟩ => nomatch e), h8]
  exact run_congr (busWrite_high_unmapped v _ hhi)
end

end Sys2Proof.Machine

open Sys2Proof Sys2Proof.Machine

/-- Settles O60: a word that no map defines reads zero, and a write to it is dropped, word by word of the access. -/
theorem undefinedOffsets : Obligations.UndefinedOffsets := by
  unfold Obligations.UndefinedOffsets
  refine ⟨fun win off => unmapped_add_four, fun a v s win off ha hw => ⟨fun h4 hlo => ?_, fun h8 hlo hhi => ?_, fun h8 _ hhi => ?_⟩⟩
  · have hhi : a.size = 8 → unmapped win (off + 4) = true := fun h8 => absurd (h4.symm.trans h8) (by decide)
    exact ⟨completes_read_unmapped ha hw hlo hhi, completes_write_unmapped ha hw v hlo hhi⟩
  · exact ⟨completes_read_unmapped ha hw hlo fun _ => hhi, completes_write_unmapped ha hw v hlo fun _ => hhi⟩
  · exact ⟨completes_read_high_unmapped ha hw h8 hhi, write_high_unmapped ha hw v h8 hhi⟩
end

section
/-! PROOFS. R47: what a reset leaves. The invariant of the block holds of the state right after reset. -/
open Sys2Proof Sys2Proof.Machine

/-- Settles O3: reset lists no byte of memory, keeps no store and queues no command, and an empty table is canonical. -/
theorem resetMeetsInv : Obligations.ResetMeetsInv := by
  unfold Obligations.ResetMeetsInv
  have hmem : Memory.wf State.reset.dev.mem = true := canonical_nil
  have hwlog : State.reset.dev.wlog = [] := rfl
  have hpending : State.reset.pending.all Instr.wf = true := List.all_nil
  exact ⟨hmem, hwlog, hpending⟩
end

section
/-! PROOFS. R112, R113: the integer instructions of a lane core. First the model's fields of numbers against machine words, then the
function of IOP on words, what an instruction leaves that changes its own lane core only, and last the result in its register. -/
namespace Sys2Proof.Machine

/-! ### Numbers as machine words (R6) -/

theorem ofNat_toNat_self {w : Nat} (a : BitVec w) : BitVec.ofNat w a.toNat = a := by
  rw [BitVec.ofNat_toNat, BitVec.setWidth_eq]

theorem ofNat_mod_two_pow (w n : Nat) : BitVec.ofNat w (n % 2 ^ w) = BitVec.ofNat w n :=
  BitVec.eq_of_toNat_eq (by rw [BitVec.toNat_ofNat, BitVec.toNat_ofNat, Nat.mod_mod])

theorem sext_eq_toInt (w x : Nat) : sext w x = (BitVec.ofNat w x).toInt := by
  have hsign : x % 2 ^ w < 2 ^ (w - 1) ↔ 2 * (x % 2 ^ w) < 2 ^ w := by
    cases w with
    | zero => rw [Nat.pow_zero, Nat.mod_one]
    | succ n =>
      rw [Nat.add_sub_cancel, Nat.pow_succ]
      omega
  rw [sext, BitVec.toInt_eq_toNat_cond, BitVec.toNat_ofNat]
  simp only [hsign]

@[simp] theorem sext_toNat {w : Nat} (a : BitVec w) : sext w a.toNat = a.toInt := by
  rw [sext_eq_toInt, ofNat_toNat_self]

@[simp] theorem ofNat_wrapZ (w : Nat) (z : Int) : BitVec.ofNat w (wrapZ w z) = BitVec.ofInt w z := by
  apply BitVec.eq_of_toNat_eq
  rw [BitVec.toNat_ofNat, BitVec.toNat_ofInt, wrapZ, Nat.mod_eq_of_lt]
  have hpos : 0 < 2 ^ w := Nat.two_pow_pos w
  omega

theorem ofNat_mul_two_pow (w x n : Nat) : BitVec.ofNat w (x * 2 ^ n) = BitVec.ofNat w x <<< n := by
  apply BitVec.eq_of_toNat_eq
  rw [BitVec.toNat_shiftLeft, BitVec.toNat_ofNat, BitVec.toNat_ofNat, Nat.shiftLeft_eq, Nat.mod_mul_mod]

/-- The higher half of a 64-bit product is the quotient by 2^32, rounded down. -/
theorem extractLsb'_ofInt_high (z : Int) : (BitVec.ofInt 64 z).extractLsb' 32 32 = BitVec.ofInt 32 (z / (2 ^ 32 : Nat)) := by
  apply BitVec.eq_of_toNat_eq
  rw [BitVec.extractLsb'_toNat, BitVec.toNat_ofInt, BitVec.toNat_ofInt, Nat.shiftRight_eq_div_pow]
  omega

theorem extractLsb'_ofNat_high (n : Nat) : (BitVec.ofNat 64 n).extractLsb' 32 32 = BitVec.ofNat 32 (n / 2 ^ 32) := by
  rw [← BitVec.ofInt_natCast, extractLsb'_ofInt_high, ← Int.natCast_ediv, BitVec.ofInt_natCast]

/-! ### The functions of IOP on words (R112, R113) -/

theorem ofNat_sub_wrapping (a b : W32) : BitVec.ofNat 32 (a.toNat + 2 ^ 32 - b.toNat) = a - b := by
  have hb := b.isLt
  apply BitVec.eq_of_toNat_eq
  rw [BitVec.toNat_ofNat, BitVec.toNat_sub]
  congr 1
  omega

theorem ofNat_ite_word (p : Prop) [Decidable p] (a b : W32) :
    BitVec.ofNat 32 (if p then a.toNat else b.toNat) = if decide p = true then a else b := by
  by_cases hp : p
  · rw [if_pos hp, if_pos (decide_eq_true hp), ofNat_toNat_self]
  · rw [if_neg hp, if_neg (by rw [decide_eq_true_eq]; exact hp), ofNat_toNat_self]

theorem ofNat_b2n (p : Bool) : BitVec.ofNat 32 (b2n p) = if p then 1 else 0 := by
  cases p <;> rfl

/-- The model's IOP on the registers' numbers is R112's on words, function by function: each case says the word that R112 gives. -/
theorem ofNat_iop (f : Nat) (a b c : W32) : BitVec.ofNat 32 (iop f a.toNat b.toNat c.toNat) = iopSpec f a b c := by
  unfold iop iopSpec
  simp only [sext_toNat]
  split
  case h_1 =>
    show _ = a + b
    rw [ofNat_mod_two_pow, BitVec.ofNat_add, ofNat_toNat_self, ofNat_toNat_self]
  case h_2 =>
    show _ = a - b
    rw [ofNat_mod_two_pow, ofNat_sub_wrapping]
  case h_3 =>
    show _ = a * b
    rw [ofNat_mod_two_pow, BitVec.ofNat_mul, ofNat_toNat_self, ofNat_toNat_self]
  case h_4 =>
    show _ = (BitVec.ofInt 64 a.toInt * BitVec.ofInt 64 b.toInt).extractLsb' 32 32
    rw [ofNat_wrapZ, ← extractLsb'_ofInt_high, BitVec.ofInt_mul]
  case h_5 =>
    show _ = (a.zeroExtend 64 * b.zeroExtend 64).extractLsb' 32 32
    rw [← extractLsb'_ofNat_high, BitVec.ofNat_mul, BitVec.ofNat_toNat, BitVec.ofNat_toNat]
  case h_6 =>
    show _ = a &&& b
    rw [BitVec.ofNat_and, ofNat_toNat_self, ofNat_toNat_self]
  case h_7 =>
    show _ = a ||| b
    rw [BitVec.ofNat_or, ofNat_toNat_self, ofNat_toNat_self]
  case h_8 =>
    show _ = a ^^^ b
    rw [BitVec.ofNat_xor, ofNat_toNat_self, ofNat_toNat_self]
  case h_9 =>
    show _ = a <<< (b.toNat % 32)
    rw [ofNat_mod_two_pow, ofNat_mul_two_pow, ofNat_toNat_self]
  case h_10 =>
    show _ = a >>> (b.toNat % 32)
    rw [← BitVec.toNat_ushiftRight, ofNat_toNat_self]
  case h_11 =>
    show _ = BitVec.ofInt 32 (a.toInt >>> (b.toNat % 32))
    rw [ofNat_wrapZ, ← Int.shiftRight_eq_div_pow]
  case h_12 =>
    show _ = if a.slt b then 1 else 0
    rw [← BitVec.slt_eq_decide, ofNat_b2n]
  case h_13 =>
    show _ = if a.ult b then 1 else 0
    rw [← BitVec.ult_eq_decide, ofNat_b2n]
  case h_14 =>
    show _ = if a.slt b then a else b
    rw [ofNat_ite_word, BitVec.slt_eq_decide]
  case h_15 =>
    show _ = if a.slt b then b else a
    rw [ofNat_ite_word, BitVec.slt_eq_decide]
  case h_16 =>
    show _ = if a.ult b then a else b
    have hmin : min a.toNat b.toNat = if a.toNat < b.toNat then a.toNat else b.toNat := by split <;> omega
    rw [hmin, ofNat_ite_word, BitVec.ult_eq_decide]
  case h_17 =>
    show _ = if a.ult b then b else a
    have hmax : max a.toNat b.toNat = if a.toNat < b.toNat then b.toNat else a.toNat := by split <;> omega
    rw [hmax, ofNat_ite_word, BitVec.ult_eq_decide]
  case h_18 =>
    have hsel : 17 ≤ f := by
      simp only [imp_false] at *
      omega
    obtain ⟨n, rfl⟩ := Nat.exists_eq_add_of_le' hsel
    show _ = if c = 0 then b else a
    by_cases hc : c = 0
    · have hzero : ¬ c.toNat ≠ 0 := fun h => h (by rw [hc]; rfl)
      rw [if_neg hzero, if_pos hc, ofNat_toNat_self]
    · have hnonzero : c.toNat ≠ 0 := fun h => hc (BitVec.eq_of_toNat_eq h)
      rw [if_pos hnonzero, if_neg hc, ofNat_toNat_self]

/-! ### An instruction that changes its own lane core only -/

variable {d : Dev} {s : State} {l : LaneAt} {w : LaneWord}

/-- A lane core that executes a word runs the instruction that the word's opcode names. -/
theorem laneCmd_executes {op : Nat} {f : Dev → Seat → LaneCore → Except Nat Dev} (h : Executes s.dev l w) (ho : lOp w = op) :
    laneCmd op l w f s = run (laneGo l w f) s := by
  obtain ⟨hwf, -⟩ := h
  simp [laneCmd, hwf, ho]

/-- A lane core that executes a word and does not fail retires one instruction (R130). -/
theorem laneGo_executes {d' : Dev} {f : Dev → Seat → LaneCore → Except Nat Dev} (h : Executes d l w)
    (hf : f d (seatOf d (laneIdx l)) (laneOf (seatOf d (laneIdx l)) l.lane.toNat) = .ok d') :
    laneGo l w f d = inc64 d' (seatPage (laneIdx l) + rLANE_INSTR) 1 := by
  obtain ⟨-, hready, hstore, halign, hlegal⟩ := h
  simp [laneGo, hready, Nat.not_le.mpr hstore, halign, hlegal, hf]

/-- The device after lane core `l` has retired an instruction that leaves it as `y` and touches nothing else. -/
def retired (d : Dev) (l : LaneAt) (y : LaneCore) : Dev :=
  inc64 (modLane d (laneIdx l) l.lane.toNat fun _ => y) (seatPage (laneIdx l) + rLANE_INSTR) 1

theorem laneOf_retired_self (d : Dev) (l : LaneAt) (y : LaneCore) :
    laneOf (seatOf (retired d l y) (laneIdx l)) l.lane.toNat = y := by
  simp [retired, modLane, laneOf]

theorem laneOf_retired_other (d : Dev) (y : LaneCore) {n : Nat} (hn : n ≠ l.lane.toNat) :
    laneOf (seatOf (retired d l y) (laneIdx l)) n = laneOf (seatOf d (laneIdx l)) n := by
  simp [retired, modLane, laneOf, tget_tput_other _ _ _ hn.symm]

theorem seatOf_retired_self (d : Dev) (l : LaneAt) (y : LaneCore) :
    seatOf (retired d l y) (laneIdx l) =
      { seatOf d (laneIdx l) with lanes := (seatOf (retired d l y) (laneIdx l)).lanes } := by
  simp [retired, modLane]

theorem seatOf_retired_other (d : Dev) (y : LaneCore) {v : Nat} (hv : v ≠ laneIdx l) :
    seatOf (retired d l y) v = seatOf d v := by
  simp [retired, modLane, seatOf_modSeat_other _ hv.symm]

theorem reg_retired_self (d : Dev) (l : LaneAt) (y : LaneCore) :
    reg (retired d l y) (seatPage (laneIdx l) + rLANE_INSTR) = (reg d (seatPage (laneIdx l) + rLANE_INSTR) + 1) % 2 ^ 64 :=
  reg_setReg_self _ _

theorem reg_retired_other (d : Dev) (y : LaneCore) {off : Nat} (ho : off ≠ seatPage (laneIdx l) + rLANE_INSTR) :
    reg (retired d l y) off = reg d off :=
  reg_setReg_other ho.symm

theorem laneOnly_retired (s : State) (l : LaneAt) (y : LaneCore) :
    LaneOnly s { s with dev := retired { s.dev with wlog := [] } l y } l := by
  have hframe : LaneFrame s { s with dev := retired { s.dev with wlog := [] } l y } l :=
    ⟨rfl, fun _ => seatOf_retired_other _ _, fun _ => laneOf_retired_other _ _, fun _ => reg_retired_other _ _, reg_retired_self _ _ _⟩
  exact ⟨hframe, rfl, rfl, rfl, seatOf_retired_self _ _ _⟩

theorem laneCmd_lanePure {op : Nat} {f : Seat → LaneCore → LaneCore} (h : Executes s.dev l w) (ho : lOp w = op) :
    laneCmd op l w (lanePure l f) s =
      .next { s with dev := retired { s.dev with wlog := [] } l (lNext (f (seatOf s.dev (laneIdx l)) (laneAt s l))) } := by
  have hd : Executes { s.dev with wlog := [] } l w := h
  rw [laneCmd_executes h ho, run_eq, laneGo_executes hd rfl]
  rfl

/-! ### A result in a register (R108) -/

/-- The registers as words are the registers. -/
theorem gReg_eq_gVal (s : State) (l : LaneAt) (i : Nat) : gReg (laneAt s l) i = (gVal s l i).toNat := by
  rw [gVal, BitVec.toNat_ofNat, Nat.mod_eq_of_lt]
  unfold gReg
  split
  · exact Nat.two_pow_pos 32
  · exact BitVec.isLt _

theorem gReg_lNext (x : LaneCore) (i : Nat) : gReg (lNext x) i = gReg x i := rfl

theorem gReg_gSet_self (x : LaneCore) (i v : Nat) : gReg (gSet x i v) i = if i = 0 then 0 else v % 2 ^ 32 := by
  by_cases hi : i = 0 <;> simp [gReg, gSet, hi]

theorem gReg_gSet_other (x : LaneCore) (v : Nat) {i j : Nat} (h : j ≠ i) : gReg (gSet x i v) j = gReg x j := by
  by_cases hi : i = 0 <;> simp [gReg, gSet, hi, tget_tset_other h.symm]

/-- A write to a register leaves the rest of the lane core. -/
theorem gSet_frame (x : LaneCore) (i v : Nat) : gSet x i v = { x with g := (gSet x i v).g } := by
  by_cases hi : i = 0 <;> simp only [gSet, hi, if_true, if_false]

/-- A program counter inside the kernel store does not wrap. -/
theorem lNext_of_pc_lt {x : LaneCore} (hpc : x.pc < 65536) : lNext x = { x with pc := x.pc + 4 } := by
  have hwrap : x.pc + 4 < 2 ^ 32 := by omega
  rw [lNext, Nat.mod_eq_of_lt hwrap]

theorem lNext_gSet {x : LaneCore} (i v : Nat) (hpc : x.pc < 65536) :
    lNext (gSet x i v) = { x with g := (gSet x i v).g, pc := x.pc + 4 } := by
  rw [gSet_frame]
  exact lNext_of_pc_lt hpc

theorem laneWrites_gSet {t : State} {rd v : Nat} (hpc : (laneAt s l).pc < 65536)
    (ht : laneAt t l = lNext (gSet (laneAt s l) rd v)) : LaneWrites s t l rd (BitVec.ofNat 32 v) (laneAt s l) := by
  refine ⟨?_, ?_, fun i hi => ?_⟩
  · rw [ht]
    exact lNext_gSet rd v hpc
  · rw [gVal, ht, gReg_lNext, gReg_gSet_self, apply_ite (BitVec.ofNat 32), ofNat_mod_two_pow]
    rfl
  · rw [gVal, ht, gReg_lNext, gReg_gSet_other _ _ hi, gVal]

/-- An instruction that writes one value, a function of its lane core, to `rd`. -/
theorem laneResult_completes {op : Nat} {v : LaneCore → Nat} {r : W32} (h : Executes s.dev l w) (ho : lOp w = op)
    (hv : BitVec.ofNat 32 (v (laneAt s l)) = r) :
    Completes (laneCmd op l w (lanePure l fun _ x => gSet x (lRd w) (v x)) s) fun t =>
      LaneOnly s t l ∧ LaneWrites s t l (lRd w) r (laneAt s l) := by
  refine ⟨_, laneCmd_lanePure h ho, laneOnly_retired s l _, ?_⟩
  obtain ⟨-, -, hstore, -⟩ := h
  rw [← hv]
  exact laneWrites_gSet hstore (laneOf_retired_self _ _ _)

/-! ### What each operation gives (R112) -/

theorem lLegal_iop (ho : lOp w = 0x01) : lLegal w = true ↔ lFunc w ≤ 17 := by
  simp [lLegal, ho]

theorem ofNat_iop_regs (f : Nat) (rs1 rs2 rs3 : Nat) :
    BitVec.ofNat 32 (iop f (gReg (laneAt s l) rs1) (gReg (laneAt s l) rs2) (gReg (laneAt s l) rs3)) =
      iopSpec f (gVal s l rs1) (gVal s l rs2) (gVal s l rs3) := by
  simp only [gReg_eq_gVal, ofNat_iop]

theorem ofNat_addi (rs1 imm : Nat) :
    BitVec.ofNat 32 (wrapZ 32 (gReg (laneAt s l) rs1 + sext 16 imm)) = gVal s l rs1 + (BitVec.ofNat 16 imm).signExtend 32 := by
  rw [ofNat_wrapZ, BitVec.ofInt_add, BitVec.ofInt_natCast, sext_eq_toInt]
  rfl

/-- The amount of SHI is five bits of its immediate, so as a word it is itself. -/
theorem ofNat_shi (f rs1 imm : Nat) :
    BitVec.ofNat 32 (iop f (gReg (laneAt s l) rs1) (fld imm 4 0) 0) =
      iopSpec f (gVal s l rs1) (BitVec.ofNat 32 (fld imm 4 0)) 0 := by
  have hamt : (BitVec.ofNat 32 (fld imm 4 0)).toNat = fld imm 4 0 := by
    rw [BitVec.toNat_ofNat, fld]
    omega
  rw [← ofNat_iop, hamt, gReg_eq_gVal]
  rfl

theorem ofNat_lui (imm : Nat) : BitVec.ofNat 32 (imm * 65536) = BitVec.ofNat 32 imm <<< 16 :=
  ofNat_mul_two_pow 32 imm 16

end Sys2Proof.Machine

open Sys2Proof Sys2Proof.Machine

/-- Settles O9: each instruction writes one number to `rd`, and that number as a word is what R112 lists. -/
theorem laneIntegerOps : Obligations.LaneIntegerOps := by
  unfold Obligations.LaneIntegerOps
  refine ⟨fun w => lLegal_iop, fun l w s h => ⟨fun ho => ?iop, fun ho => ?addi, fun ho => ?andi, fun ho => ?ori, fun ho => ?xori,
    fun ho => ?shi, fun ho => ?lui⟩⟩
  case iop => exact laneResult_completes h ho (ofNat_iop_regs ..)
  case addi => exact laneResult_completes h ho (ofNat_addi ..)
  case andi => exact laneResult_completes h ho BitVec.ofNat_and
  case ori => exact laneResult_completes h ho BitVec.ofNat_or
  case xori => exact laneResult_completes h ho BitVec.ofNat_xor
  case shi => exact laneResult_completes h ho (ofNat_shi ..)
  case lui => exact laneResult_completes h ho (ofNat_lui _)
end
